-- ==== Sys2Proof/Word.lean ====
section
/-! DEFINITION. The word types of the AZ3 model and the names of its numbered parts (00_scope R9 to R11,
01_module_organisation R21 to R26). No operation that a test could show wrong stands here. -/

namespace Sys2Proof

/-- A byte (R11: byte 0 of a multi-byte value holds bits [7:0]). -/
abbrev Byte := BitVec 8
abbrev W16 := BitVec 16
abbrev W32 := BitVec 32
abbrev W64 := BitVec 64
/-- A core instruction word (R112). -/
abbrev W128 := BitVec 128
/-- A line of a core store, 64 B (R143). -/
abbrev Line := BitVec 512
/-- A tier block, 512 B (R120). -/
abbrev Block := BitVec 4096
/-- The payload of a flit, 256 B (R218, R241). -/
abbrev Flit256 := BitVec 2048

/-- Sparse numbered things in canonical form: keys strictly rising, no entry that equals what an absent key reads as. -/
abbrev Tbl (α : Type) := List (Nat × α)

/-- A physical core ID (R22). -/
abbrev CoreId := Fin 72
/-- A cluster (R23). -/
abbrev ClusterId := Fin 18
/-- An engine of a core (R21). -/
abbrev EngineId := Fin 4
/-- A tier (R37). -/
abbrev TierId := Fin 4
/-- A fabric port (R240). -/
abbrev PortId := Fin 16
/-- A router, core or selvedge (Table 8.5). -/
abbrev RouterId := Fin 88
/-- A port of a router (Table 8.1). -/
abbrev RPort := Fin 8
/-- A context (R321). -/
abbrev CtxId := Fin 16
/-- A PCIe function: 0 is the PF of port A, 1 to 8 its VFs, 9 the PF of port B, 10 to 17 its VFs (R316). -/
abbrev FnId := Fin 18
/-- A sequence lane (R278). -/
abbrev LaneId := Fin 512
/-- A stream group (R279). -/
abbrev GroupId := Fin 4
/-- A service core (R341). -/
abbrev SvcId := Fin 8

end Sys2Proof
end

