-- ==== Sys2Proof/Config.lean ====
section
/-! DEFINITION. What the manual fixes outside the machine's reach or leaves open. An `opaque` constant has no body: nothing can
prove or compute a value of it (assumption log 6 and 7). The plain numbers are the manual's own. -/

namespace Sys2Proof.Config

/-- A free value of engine state that R355 calls undefined at the RUN that follows a STOP: the `n`-th such occasion, entry `i`.
DESIGN CHOICE (log 6): free. -/
opaque freeWeight : Nat → Nat → Int
/-- The free long values of the accumulators after a STOP (R355). DESIGN CHOICE (log 6): free. -/
opaque freeAcc : Nat → Nat → Int
/-- The free window bases of the accumulators after a STOP (R355). DESIGN CHOICE (log 6): free. -/
opaque freeBase : Nat → Nat → Int
/-- The free window words after a STOP (R355). DESIGN CHOICE (log 6): free. -/
opaque freeWindow : Nat → Nat → W64
/-- The free activity levels after a STOP (R355), taken modulo 5. DESIGN CHOICE (log 6): free. -/
opaque freeLevel : Nat → Nat → Nat
/-- RSQRT(−0) in format 0x8 or 0x9: Table 4.13 gives RSQRT(+0) and values below −0 only. DESIGN CHOICE (log 20): free. -/
opaque rsqrtNegZero : Nat → W16
/-- The sign of a zero that TANH, CVT8 or CVT16 makes of −0, by operation: the manual gives none. DESIGN CHOICE (log 20): free. -/
opaque negZeroSign : Nat → Bool
/-- The free 64-bit values of results that the manual does not state, by occasion and index. DESIGN CHOICE (log 6): free. -/
opaque freeWord : Nat → Nat → W64

/-- The rank of a score whose logit is not a number, by its encoding (R296 gives none). DESIGN CHOICE (log 6): free. -/
opaque nanScore : Nat → Int

/-- The first column block of the staging range of a SHIP or LAND binding, by context and binding (R307); the manual gives no field for
it: free (log 7). -/
opaque stagingBlock : Nat → Nat → Nat

/-- Where the service message engine's descriptor ring lies in the shared service store (R347); the manual gives no address: free (log 7). -/
opaque messageRing : Nat

/-- How many bindings a serving declaration holds, by the bytes after its group records; the manual gives no count: free (log 7). -/
opaque bindingCount : List Byte → Nat

/-- The hash of source chip, source core and message ID by which MODE 1 spreads messages (R255); the manual does not give it: free (log 7). -/
opaque routeHash : Nat → Nat → Nat → Nat

/-- SHA-256 digests of the two card-signing keys the ROM holds (R392). The manual gives no value: free (log 7). -/
opaque cardKeyDigest : Fin 2 → BitVec 256
/-- The moduli of the two firmware-signing keys whose digests the ROM holds (R392, R400). Free (log 7). -/
opaque fwModulus : Fin 2 → BitVec 3072
/-- SHA-256 of the boot ROM, measurement 1 (Table 14.1). Free (log 7). -/
opaque romDigest : BitVec 256
/-- The signature the identity key makes over a message (R398, R406). Free (log 7). -/
opaque identitySign : List Byte → BitVec 3072
/-- The random nonce of an SPDM response. Free (log 7). -/
opaque spdmNonce : Nat → BitVec 256
/-- DataTransferSize and MaxSPDMmsgSize of the CAPABILITIES response. Free (log 7). -/
opaque spdmTransferSize : W32
/-- The Svairuf root certificate that the ROM holds (R392). Free (log 7). -/
opaque rootCertificate : List Byte

/-- Time units of one sc: the least number that makes the ac period of every stretch level whole (Table 2.3). -/
def unitsPerSc : Nat := 17226649440
/-- The guard, 3,600 sc (R49, TMP_GUARD). -/
def guardSc : Nat := 3600
/-- sc per RCLK cycle: 2.4 GHz over 100 MHz (Table 0.3). -/
def scPerRclk : Nat := 24
/-- Lines of an own store (R143). -/
def storeLines : Nat := 131072
/-- Blocks of a tier column (R120). -/
def columnBlocks : Nat := 393216
/-- Blocks of one column slice (Table 1.5). -/
def sliceBlocks : Nat := 98304
/-- Spare blocks of one tier (Table 1.5). -/
def spareBlocks : Nat := 196608

end Sys2Proof.Config
end

