-- ==== Sys2Proof/Syntax.lean ====
section
/-! DEFINITION. The commands of the block, one constructor per row of spec/opcode_table.json, with their operands. What the
outside or physics decides (a word written, a flit received, whether a second read matches) is an operand. -/

namespace Sys2Proof

/-- The two instruction streams of a core (R108). -/
inductive Stream where
  | access | execute
  deriving DecidableEq, Repr

/-- A PCIe port (R313). -/
inductive PciePort where
  | a | b
  deriving DecidableEq, Repr

/-- Who makes a register or control-word access (R140, R170, R338, R342). -/
inductive Requester where
  /-- a host function through its BAR0 -/
  | host (fn : FnId)
  /-- the service complex -/
  | service
  /-- a fabric message or host DMA of a context -/
  | message (ctx : CtxId)
  deriving DecidableEq, Repr

/-- Where a register lies. -/
inductive RegSpace where
  /-- BAR0, an offset from its start (Table 0.5) -/
  | bar0 (off : Nat)
  /-- the control region of a core, an offset from 0x4000_0000 (Table 5.10) -/
  | core (c : CoreId) (off : Nat)
  /-- the control window of a router (Table 8.11) -/
  | router (r : RouterId) (off : Nat)
  /-- the maintenance window of a core (Table 12.2) -/
  | maint (c : CoreId) (off : Nat)
  /-- the MSI-X table page of BAR2, an offset from its start (Table 11.1) -/
  | msixTable (off : Nat)
  /-- the number of VFs that a PF's SR-IOV capability enables (R316) -/
  | numVfs (p : PciePort)
  deriving DecidableEq, Repr

/-- The units whose operations signal (Table 4.1). -/
inductive UnitId where
  | tier
  | queueIn (q : Fin 4)
  | queueOut (q : Fin 2)
  | copy
  | message (msgid : Nat)
  | pass (e : EngineId)
  | drain (e : EngineId)
  | element
  | tile
  deriving DecidableEq, Repr

/-- What a CRC check and its re-read gave (R152, R180). -/
inductive ReadResult where
  /-- the first read matches -/
  | clean
  /-- the first read mismatches and the second matches -/
  | reread
  /-- both reads mismatch -/
  | persistent
  deriving DecidableEq, Repr

/-- A stored tier block: a column block of a core, a block of a slice, or a spare block of a tier (R172, R174, R189). -/
inductive BlockLoc where
  | column (c : CoreId) (blk : Nat)
  | slice (c : CoreId) (t : TierId) (blk : Nat)
  | spare (t : TierId) (blk : Nat)
  deriving DecidableEq, Repr

/-- A mesh flit: payload, sideband and the CRC as received (R218). -/
structure MeshFlit where
  payload : Flit256
  side : W64
  crc : W32
  deriving DecidableEq, Repr

/-- A fabric flit as received, with its CRC-32: DATA, or one of a reserved type (R241, R242). -/
structure FabFlit where
  typ : BitVec 4
  seq : BitVec 12
  dest : BitVec 12
  side : W64
  payload : Flit256
  crc : W32
  deriving DecidableEq, Repr

/-- The link sequence number and CRC-32 of a received control flit (R241 to R243). -/
structure LinkRx where
  seq : BitVec 12
  crc : W32
  deriving DecidableEq, Repr

/-- A REPLY as received: source address, MSGID and status (R262, Table 9.3). -/
structure ReplyRx where
  saddr : W64
  msgid : W32
  status : BitVec 4
  deriving DecidableEq, Repr

/-- An OPPOSE flit as received (R242, Table 13.4). -/
structure OpposeRx where
  rx : LinkRx
  frame : Flit256
  deriving DecidableEq, Repr

/-- An IDENT frame (R252). -/
structure Ident where
  serial : W64
  board : W16
  slot : BitVec 3
  port : BitVec 4
  gen : BitVec 2
  chip : BitVec 12
  /-- the echo: whether it holds one of our frames, our sending time, and the neighbour's times of receipt and sending, in sc -/
  echoed : Bool
  echoSent : Nat
  echoRecv : Nat
  echoBack : Nat
  /-- the neighbour's pulse minus ours, as measured from the frame, ns -/
  pulseDiffNs : Int
  deriving DecidableEq, Repr

/-- A parity error that a sweep finds: the row of Table 13.2 from 0, its holder and its entry (R374; numbers of entries: assumption log 64). -/
structure ParityHit where
  structureNo : Fin 9
  /-- source kind and index of R373 -/
  srcKind : Fin 4
  srcIndex : Byte
  ctx : CtxId
  entry : Nat
  deriving DecidableEq, Repr

/-- What the BSC reads and samples at a start: the card (none: no answer), whether the PUF and the unwrap succeed, the strap (R393 to R395). -/
structure BootInputs where
  cardAnswers : Bool
  pufOk : Bool
  /-- STEWARD_SEL high names port B -/
  stewardSelB : Bool
  deriving DecidableEq, Repr

/-- What the module can see of its opposition peer when opposition is enabled (R379). -/
structure OppPeer where
  sameOrder : Bool
  sameResults : Bool
  peerRoleFollow : Bool
  /-- COLUMN_DIGEST of the peer's context of each number -/
  digests : List (BitVec 256)
  deriving DecidableEq, Repr

/-- What a service core's access to an ECC memory meets (R377). -/
inductive Ecc where
  | ok | corrected | uncorrectable
  deriving DecidableEq, Repr

/-- The 193 commands (spec/opcode_table.json). A command of a core names the physical core; an instruction names its stream and word. -/
inductive Instr where
  -- tempo (02)
  | tempoPulse (rclk : Nat)
  | tempoPulseMissing
  | tempoHighTooLong
  | tempoEdge
  | commitPoint
  | periodicMarkerSend
  | overrun
  | markerReceive (p : PortId) (copy : Fin 3) (crcOk : Bool) (payload : BitVec 256)
  | stalemateTimeout (c : CoreId)
  | stretchSpacingExpiry
  | tempoResume (fn : FnId) (val : W32)
  | tempoEnable (fn : FnId) (val : W32)
  | variantAnnounce (fn : FnId) (val : W32)
  | tmpCountLoRead (fn : FnId)
  | tmpSwitchCountLoRead (fn : FnId)
  | tmpClear (fn : FnId) (val : W32)
  -- core streams (04)
  | nop (c : CoreId) (st : Stream) (w : W128)
  | time (c : CoreId) (st : Stream) (w : W128)
  /-- with the checker, if any, that the test of the boundary wait finds silent, and its holder (R376) -/
  | boundary (c : CoreId) (st : Stream) (w : W128) (silent : Option (Fin 7 × Byte))
  | firstTempoPrefetch (c : CoreId)
  | sync (c : CoreId) (st : Stream) (w : W128)
  | refill (c : CoreId) (st : Stream) (w : W128)
  | trd (c : CoreId) (st : Stream) (w : W128)
  | twr (c : CoreId) (st : Stream) (w : W128)
  | ldq (c : CoreId) (st : Stream) (w : W128)
  | stq (c : CoreId) (st : Stream) (w : W128)
  | copy (c : CoreId) (st : Stream) (w : W128)
  | put (c : CoreId) (st : Stream) (w : W128)
  | get (c : CoreId) (st : Stream) (w : W128)
  | ladd (c : CoreId) (st : Stream) (w : W128)
  | sput (c : CoreId) (st : Stream) (w : W128)
  | bar (c : CoreId) (st : Stream) (w : W128)
  | win (c : CoreId) (st : Stream) (w : W128)
  | pass (c : CoreId) (st : Stream) (w : W128)
  | passRowResult (c : CoreId) (e : EngineId) (checkDelta : Int)
  | rampOutStep (c : CoreId) (e : EngineId)
  | drain (c : CoreId) (st : Stream) (w : W128)
  | tcfg (c : CoreId) (st : Stream) (w : W128)
  | tile (c : CoreId) (st : Stream) (w : W128)
  | ew (c : CoreId) (st : Stream) (w : W128)
  | unitSignal (c : CoreId) (u : UnitId)
  -- maintenance instructions (04)
  | mrdl (c : CoreId) (w : W128)
  | mwrl (c : CoreId) (w : W128)
  | mclr (c : CoreId) (w : W128)
  | mcrc (c : CoreId) (w : W128)
  | mtrb (c : CoreId) (w : W128)
  | mtwb (c : CoreId) (w : W128)
  | mmap (c : CoreId) (w : W128)
  | msig (c : CoreId) (w : W128)
  | msyn (c : CoreId) (w : W128)
  | maintInsnComplete (c : CoreId)
  -- store, sync, gather (05)
  | storeReread (c : CoreId) (line : Nat) (secondMatches scheduled : Bool)
  | tierReread (c : CoreId) (blk : Nat) (secondMatches scheduled : Bool)
  | arrival (c : CoreId)
  | syncObjectWrite (rq : Requester) (c : CoreId) (off : Nat) (val : W32)
  | coreCntClear (rq : Requester) (c : CoreId) (val : W32)
  | gatherFlush (c : CoreId) (e : Fin 16)
  | gatherIdleTimeout (c : CoreId) (e : Fin 16)
  | gatherFenceRequest (c : CoreId)
  | ringWriteResume (c : CoreId) (r : Fin 16)
  | storeClearDone (c : CoreId)
  -- tiers (06)
  | boundaryQueueOp (c : CoreId)
  | weakEntryExpiry (loc : BlockLoc)
  | scrubRead (loc : BlockLoc) (res : ReadResult)
  | sliceSubstitutionAdd (native : CoreId) (nativeTier : TierId) (sub : CoreId) (subTier : TierId)
  | tirClear (fn : FnId) (val : W32)
  -- mesh (08)
  | flitReceive (r : RouterId) (inp : RPort) (f : MeshFlit)
  | seamResult (r : RouterId) (seam : Fin 64)
  | routerOutputSend (r : RouterId) (out : RPort)
  | rtrCommit (r : RouterId) (val : W32)
  | rtrClear (r : RouterId) (val : W32)
  | paritySweep (hits : List ParityHit)
  -- fabric (09)
  | portTrainingDone (p : PortId) (farGen laneGen : BitVec 2)
  | portGenMaxSet (fn : FnId) (val : W32)
  | portEnableSet (fn : FnId) (val : W32)
  | portOppositionSet (fn : FnId) (val : W32)
  | messageReceive (p : PortId) (flits : List FabFlit)
  | ackReceive (p : PortId) (upTo : BitVec 12) (naks : List (BitVec 12)) (credits : Nat)
  | ackSendTimer (p : PortId)
  | idleSendTimer (p : PortId)
  | idleFlitReceive (p : PortId)
  | portSilenceTimeout (p : PortId)
  | laneLockLoss (p : PortId)
  | openingStart (fn : FnId) (val : W32)
  | identResendTimer (p : PortId)
  | identReceive (p : PortId) (f : Ident)
  | epochCommand (fn : FnId) (val : W32)
  | epochReceive (p : PortId) (rx : LinkRx) (count : W64) (phaseSc : W32)
  | snapshotArm (fn : FnId) (val : W32)
  | snapReceive (p : PortId) (rx : LinkRx) (count : W64)
  | barrierReceive (p : PortId) (rx : LinkRx) (ctx : CtxId) (release : Bool)
  | domainResetFlood (fn : FnId) (val : W32)
  | dresetReceive (p : PortId) (rx : LinkRx)
  | domainResetEntry
  /-- `data`: what an older part answers to a read (R247) -/
  | replyReceive (p : PortId) (rx : LinkRx) (reply : ReplyRx) (data : List Byte)
  | messageTimeout (src : Nat) (msgid : W32)
  | portEgressSend (p : PortId)
  | legacyRequestReceive (p : PortId) (op : Fin 3) (addr : Nat) (len : Nat) (data : List Byte)
  | fabRouteCommit (fn : FnId) (val : W32)
  | fabClear (fn : FnId) (val : W32)
  -- opposition and verdicts (13)
  | opposeSigReceive (p : PortId) (flit : OpposeRx)
  | opposeLogReceive (p : PortId) (flit : OpposeRx)
  | mirrorReceive (p : PortId) (flit : OpposeRx)
  | verdictReceive (p : PortId) (flit : OpposeRx)
  -- serving (10)
  | admission (fn : FnId) (q : Fin 4) (hdr : BitVec 512) (body : BitVec 1536)
  | cancel (fn : FnId) (q : Fin 4) (hdr : BitVec 512) (body : BitVec 1536)
  | patchLoad (fn : FnId) (q : Fin 4) (hdr : BitVec 512) (body : BitVec 1536)
  | patchDrop (fn : FnId) (q : Fin 4) (hdr : BitVec 512) (body : BitVec 1536)
  | patchImageVerified (slot : Fin 64) (dmaOk : Bool)
  | promptReadComplete (l : LaneId) (dmaOk : Bool)
  | selectionLaneStart (ctx : CtxId) (entry : Nat)
  | selectionLaneDone (ctx : CtxId) (entry : Nat)
  | groupDecision (g : GroupId) (twinDiffers : Option (Fin 4))
  | tokenDoorbell (fn : FnId) (off size : Nat) (val : W64)
  | shuttleOfferReceive (chip : BitVec 12) (job : W16) (ident : W64) (kvfmt : W64) (kvlen : BitVec 24)
  | shuttleGrantReceive (chip : BitVec 12) (job : W16) (ident : W64) (addrs : List W64)
  | shuttleStateRecordReceive (chip : BitVec 12) (job : W16) (ident : W64) (record : BitVec 1024) (puts : Nat)
  | shuttleAckReceive (chip : BitVec 12) (job : W16) (ident : W64) (status : Byte)
  | shuttleTimeout (l : LaneId)
  | srvGroupsWrite (fn : FnId) (val : W32)
  | srvClear (fn : FnId) (val : W32)
  -- host commands, rings and contexts (11)
  | hostNop (fn : FnId) (q : Fin 4) (hdr : BitVec 512) (body : BitVec 1536)
  | wload (fn : FnId) (q : Fin 4) (hdr : BitVec 512) (body : BitVec 1536)
  | wloadStart (id : Nat)
  | loadVerifyComplete (id : Nat) (dmaOk : Bool)
  | rdout (fn : FnId) (q : Fin 4) (hdr : BitVec 512) (body : BitVec 1536)
  | hostcopy (fn : FnId) (q : Fin 4) (hdr : BitVec 512) (body : BitVec 1536)
  | hostCopyExpiry (tag : W16)
  | boltLoad (fn : FnId) (q : Fin 4) (hdr : BitVec 512) (body : BitVec 1536)
  | run (fn : FnId) (q : Fin 4) (hdr : BitVec 512) (body : BitVec 1536)
  | stop (fn : FnId) (q : Fin 4) (hdr : BitVec 512) (body : BitVec 1536)
  | sqTailDoorbell (fn : FnId) (q : Fin 4) (off size : Nat) (val : W64)
  | cqHeadDoorbell (fn : FnId) (q : Fin 4) (off size : Nat) (val : W64)
  | eventHeadDoorbell (fn : FnId) (off size : Nat) (val : W64)
  | msixSend (fn : FnId) (vec : Fin 64)
  | contextBind (fn : FnId) (val : W32)
  | partitionWrite (fn : FnId) (val : W32)
  | forceStop (fn : FnId) (val : W32)
  | queueEnable (fn : FnId) (q : Fin 4) (val : W32)
  | hqClear (fn : FnId) (val : W32)
  | traceModeRequest (fn : FnId) (val : W32)
  | functionLevelReset (fn : FnId)
  | pcieLinkDown (p : PciePort)
  | pcieHotReset (p : PciePort)
  | perstAssert (p : PciePort)
  | perstDeassert (p : PciePort)
  -- service complex (12)
  | serviceLoad (k : SvcId) (addr size : Nat) (ecc : Ecc)
  | serviceStore (k : SvcId) (addr size : Nat) (data : BitVec 512) (ecc : Ecc)
  | serviceMessageSubmit (slot : Fin 64)
  | faultReportHandling
  | selfTestVisit (c : CoreId) (latentFault : Bool)
  -- safety (13)
  | oppositionEnable (fn : FnId) (val : W32) (peer : OppPeer)
  | safOppFirstRead (fn : FnId)
  | choiceRingEnable (fn : FnId) (val : W32)
  | safClear (fn : FnId) (val : W32)
  -- security controller (14)
  | fwDeliver (fn : FnId) (cmd : W32)
  | fwVerifyComplete (dmaOk : Bool)
  | keySet (fn : FnId) (cmd : W32) (dmaOk : Bool)
  | keyClear (fn : FnId) (cmd : W32)
  | keyLock (fn : FnId) (cmd : W32)
  | cardRead (fn : FnId) (cmd : W32) (dmaOk : Bool)
  | fwFloorWrite (fn : FnId) (val : W32)
  | getVersion (p : PciePort) (req : List Byte)
  | getCapabilities (p : PciePort) (req : List Byte)
  | negotiateAlgorithms (p : PciePort) (req : List Byte)
  | getDigests (p : PciePort) (req : List Byte)
  | getCertificate (p : PciePort) (req : List Byte)
  | challenge (p : PciePort) (req : List Byte)
  | getMeasurements (p : PciePort) (req : List Byte)
  | clusterClearStart (k : ClusterId)
  | clusterClearDone (k : ClusterId)
  | clearWriteTimeout (k : ClusterId)
  -- power, reset, idle (15)
  | powerUp
  | powerDown
  | resetRelease (b : BootInputs)
  | vinUndervoltage
  | vinOvervoltage
  | rclkLoss
  | modRstAssert
  | modRstDeassert
  | stewardReset (fn : FnId) (val : W32)
  | sensorSample (k : Fin 26) (temp : BitVec 16) (power : BitVec 12)
  | clusterWakeStart (k : ClusterId)
  | clusterWakeReady (k : ClusterId)
  | wakeTimerArm (fn : FnId) (val : W32)
  | wakeTimerFire (ctx : CtxId)
  | portIdleTimeout (p : PortId)
  | portWake (p : PortId)
  | pwrClear (fn : FnId) (val : W32)
  | registerWrite (rq : Requester) (sp : RegSpace) (val : W64)
  | latentLate
  | pcieLinkUp (p : PciePort) (speed : BitVec 4) (flit : Bool) (width : BitVec 6)
  | vinWarning (mv : W16)
  deriving DecidableEq, Repr

end Sys2Proof
end

