-- ==== Sys2Proof/WellFormed.lean ====
section
/-! DEFINITION. Which terms of `Instr` are commands of the table: an instruction word carries its row's opcode (Table 4.7), and
every number lies in the range its structure gives it. -/

namespace Sys2Proof

/-- OPCODE of an instruction word (Table 4.3). -/
def opcodeOf (w : W128) : Nat := (w.extractLsb' 96 8).toNat

/-- The opcode a core or maintenance instruction's row has (Table 4.7, Table 4.21); none for the other commands. LADD, SPUT and
BAR are descriptors that a PUT names (R259, R260). -/
def Instr.opcode? : Instr → Option (W128 × Nat)
  | .nop _ _ w => some (w, 0x00)
  | .time _ _ w => some (w, 0x01)
  | .boundary _ _ w _ => some (w, 0x02)
  | .sync _ _ w => some (w, 0x03)
  | .refill _ _ w => some (w, 0x10)
  | .trd _ _ w => some (w, 0x11)
  | .twr _ _ w => some (w, 0x12)
  | .ldq _ _ w => some (w, 0x13)
  | .stq _ _ w => some (w, 0x14)
  | .copy _ _ w => some (w, 0x15)
  | .put _ _ w => some (w, 0x18)
  | .get _ _ w => some (w, 0x19)
  | .ladd _ _ w => some (w, 0x18)
  | .sput _ _ w => some (w, 0x18)
  | .bar _ _ w => some (w, 0x18)
  | .win _ _ w => some (w, 0x20)
  | .pass _ _ w => some (w, 0x21)
  | .drain _ _ w => some (w, 0x22)
  | .tcfg _ _ w => some (w, 0x23)
  | .tile _ _ w => some (w, 0x24)
  | .ew _ _ w => some (w, 0x30)
  | .mrdl _ w => some (w, 0xE0)
  | .mwrl _ w => some (w, 0xE1)
  | .mclr _ w => some (w, 0xE2)
  | .mcrc _ w => some (w, 0xE3)
  | .mtrb _ w => some (w, 0xE4)
  | .mtwb _ w => some (w, 0xE5)
  | .mmap _ w => some (w, 0xE6)
  | .msig _ w => some (w, 0xE7)
  | .msyn _ w => some (w, 0xE8)
  | _ => none

/-- A block location that exists (R172, R37). -/
def BlockLoc.wf : BlockLoc → Bool
  | .column _ b => decide (b < Config.columnBlocks)
  | .slice _ _ b => decide (b < Config.sliceBlocks)
  | .spare _ b => decide (b < Config.spareBlocks)

/-- The command is one of the table's. -/
def Instr.wf (i : Instr) : Bool :=
  (match i.opcode? with
   | some (w, op) => decide (opcodeOf w = op)
   | none => true) &&
  (match i with
   | .storeReread _ line _ _ => decide (line < Config.storeLines)
   | .tierReread _ blk _ _ => decide (blk < Config.columnBlocks)
   | .weakEntryExpiry loc => loc.wf
   | .scrubRead loc _ => loc.wf
   | .legacyRequestReceive _ _ addr len data => decide (addr < 2 ^ 37) && decide (data.length ≤ len)
   | .messageReceive _ fl => decide (fl ≠ []) && fl.all (fun f => decide (f.typ = 0) || decide (0xB ≤ f.typ.toNat))
   | .oppositionEnable _ _ pr => decide (pr.digests.length = 16)
   | .messageTimeout src _ => decide (src < 76)
   | .serviceLoad _ _ size _ => decide (size ∈ [1, 2, 4, 8, 64])
   | .serviceStore _ _ size _ _ => decide (size ∈ [1, 2, 4, 8, 64])
   | .tempoPulse rclk => decide (0 < rclk)
   | _ => true)

end Sys2Proof
end

