-- ==== Sys2Proof/Machine/State.lean ====
section
/-! DEFINITION. The state of the AZ3 module: every register, memory, buffer, counter, mode and pin the manual gives it, and the
queue of waiting commands. Reset values stand in the `reset` definitions; INVENTORY.md lists each with its rule. -/

namespace Sys2Proof.Machine

/-- Why the machine would stop with a fault. No meaning of this model raises it: every fault of the manual (Table 13.1) is an
effect on the state. It exists because the host's interface has a fault type. Safe. -/
inductive Fault where
  /-- raised by nothing -/
  | none
  deriving DecidableEq, Repr

/-- Why a command would be turned away by the model. -/
inductive Refusal where
  /-- the arm of `exec` for a command that has no meaning yet; no arm answers it in this package. Safe. -/
  | notModelled (mnemonic : String)
  deriving DecidableEq, Repr

/-- A word whose accepted value reads back at once and takes effect at the next tempo edge (R47). -/
structure Deferred where
  acc : W32 := 0
  eff : W32 := 0
  deriving DecidableEq, Repr

/-- A memory: (address, byte) pairs, strictly rising, none of them zero; an absent address reads as zero. -/
abbrev Mem := List Host.Cell

/-- An exact dyadic number m × 2^e (R83 to R89). -/
structure Dy where
  m : Int := 0
  e : Int := 0
  deriving DecidableEq, Repr

/-- A long value and its window base (R82). -/
structure Long where
  v : Int := 0
  base : Int := 0
  deriving DecidableEq, Repr

/-! ### Part card and GLB -/

/-- What the BSC's copy of the part card gives (R394); all zero before the ROM boot (assumption log 3). -/
structure Card where
  serial : W64 := 0
  coreMap : BitVec 72 := 0
  cores : Byte := 0
  speed : Byte := 0
  stepping : Byte := 0
  results : W16 := 0
  remaps : W16 := 0
  subs : Byte := 0
  flags : Byte := 0
  format : Byte := 0
  svnMin : W32 := 0
  cardState : BitVec 4 := 0
  digest : BitVec 256 := 0
  deriving DecidableEq, Repr

/-- The GLB block beyond the part card (Table 11.14). -/
structure Glb where
  boot : W32 := 0
  unconfigured : Bool := false
  conflict : Bool := false
  stewardB : Bool := false
  pcieA : W32 := 0
  pcieB : W32 := 0
  traceCtrl : W32 := 0
  traceLost : W32 := 0
  /-- ACTIVE of GLB_TRACE_CTRL -/
  traceActive : Bool := false
  traceSeq : W32 := 0
  deriving DecidableEq, Repr

/-! ### Tempo -/

/-- The TMP block and the tempo unit (02). -/
structure Tmp where
  ctrl : W32 := 0
  period : W32 := 0x270F
  status : W32 := 0
  count : W64 := 0
  /-- the module keeps a tempo count (R438) -/
  haveCount : Bool := false
  /-- the next periodic marker gives the count (R78) -/
  countFromMarker : Bool := false
  /-- a periodic marker that came before any pulse: port, count, and the sc time of the sender's pulse (R78, R275) -/
  keptMarker : Option (PortId × W64 × Nat) := none
  heldTotal : W32 := 0
  variant : BitVec 2 := 0
  /-- pending switches, in count order (R66) -/
  switches : List (Nat × BitVec 2) := []
  countHiLatch : Option W32 := none
  switchHiLatch : Option W32 := none
  setLo : W32 := 0
  setHi : W32 := 0
  throttleCfg : Deferred := ⟨0x833, 0x833⟩
  hemLast : W32 := 0
  hemMax : W32 := 0
  stretchLast : W32 := 0
  devCount : W32 := 0
  skew : W16 := 0
  coreSel : W32 := 0
  portSel : W32 := 0
  resumeLo : W32 := 0
  resumeHi : W32 := 0
  /-- an accepted resume count (R45) -/
  resumeAt : Option Nat := none
  lost : Bool := false
  pulseSeen : Bool := false
  pulseAt : Nat := 0
  /-- the next pulse's time is compared with the last one's (Table 2.1) -/
  expect : Bool := false
  /-- DEV_WITHHOLD in effect (R75) -/
  devEff : Bool := false
  /-- an acted-on pulse whose tempo edge has not come yet (R43) -/
  edgeDue : Bool := false
  edgeAt : Nat := 0
  /-- a worked tempo is in progress, or ended and held in the boundary wait (R49, R60) -/
  working : Bool := false
  /-- the count of the pulse that began the worked tempo in progress (R56) -/
  t : W64 := 0
  /-- pulses seen since the one that began the worked tempo -/
  pulses : Nat := 0
  /-- pulses of the worked tempo: the stride in effect -/
  stride : Nat := 1
  /-- the pulse ending the worked tempo has been skipped by a hold (R60, R61) -/
  held : Bool := false
  overrunSent : Bool := false
  overrunFor : List Nat := []
  /-- throttle markers received or sent: count and variant (R65) -/
  throttles : List (Nat × BitVec 2) := []
  heldThrottle : Option (BitVec 2) := none
  /-- the worked tempo last ended (R62) -/
  lastT : W64 := 0
  ended : Bool := false
  /-- counts and kinds forwarded (R57) -/
  forwarded : List (Nat × Nat) := []
  /-- port, count and kind of the marker copies already used (R57) -/
  copiesUsed : List (Nat × Nat × Nat) := []
  /-- a switch this module cannot follow, at this count (R67) -/
  unavailAt : Option Nat := none
  /-- schedule deviations of the worked tempo in progress: physical core and case of R75 -/
  devs : List (Nat × Nat) := []
  /-- the first worked tempo since reset has begun -/
  begun : Bool := false
  /-- a silent checker withholds the next worked tempo too: its source (R376) -/
  checkNext : Option Nat := none
  /-- an edge has come and its commit point has not (R366) -/
  commitDue : Bool := false
  deriving DecidableEq, Repr

/-- The stretch unit and the lock set (R50 to R54). -/
structure Lock where
  level : Nat := 0
  /-- delivered ac since the last change of level; 256 where none is waited for -/
  since : Nat := 256
  /-- a held request: true raises (R54) -/
  request : Option Bool := none
  /-- stretch loss of the worked tempo, in time units -/
  loss : Nat := 0
  /-- edges are gated: every enabled core is in the boundary wait -/
  gated : Bool := true
  /-- time units of slips in the worked tempo -/
  slip : Nat := 0
  /-- when the last core entered the boundary wait -/
  workEndAt : Nat := 0
  deriving DecidableEq, Repr

/-- The counters of a cluster hub (R31). -/
structure Hub where
  trcAc : BitVec 24 := 0
  trcNc : BitVec 24 := 0
  deriving DecidableEq, Repr

/-! ### Cores -/

/-- One row of a pass in flight (R80, Table 3.8). -/
structure PassRow where
  row : Nat
  add : Bool
  base : Int
  /-- the engine's own column sums, in units of 2^base, and the check column sum -/
  sums : List Int
  check : Dy
  /-- the columns of the products that leave 64 bits, one for each such product (R91) -/
  overs : List Nat
  /-- the sums that enter this engine's accumulator (combined over the gang, R106); none: this engine's are combined elsewhere -/
  into : Option (List Int)
  /-- the pass index within the worked tempo -/
  passIndex : Nat
  /-- the unit time at which the row enters the array -/
  at_ : Nat
  /-- 0 before its comparison, 1 before its accumulation, 2 after it (Table 3.8) -/
  stage : Nat
  /-- what the engine's own check column differs by, in units of 2^base -/
  delta : Int
  deriving DecidableEq, Repr

/-- An engine (03). Absent weights and accumulator entries read as zero, or, where the `Undef` field is n > 0, as the free values
of occasion n (R355), but for the accumulator entries of `accKnown`. -/
structure Engine where
  active : Tbl Dy := []
  shadow : Tbl Dy := []
  activeSum : Tbl Dy := []
  shadowSum : Tbl Dy := []
  activeUndef : Nat := 0
  shadowUndef : Nat := 0
  accUndef : Nat := 0
  /-- entry × 2 + half (columns 0 to 63, 64 to 127) written since -/
  accKnown : List Nat := []
  activeWin : W64 := 0
  shadowWin : W64 := 0
  /-- entry row × 128 + column -/
  acc : Tbl Long := []
  level : Nat := 0
  /-- rows that have entered the array and may not be drained yet, in order -/
  rows : List PassRow := []
  passes : Nat := 0
  /-- the unit time at which the engine's last row has entered the array (R104) -/
  lastRowAt : Nat := 0
  /-- passes whose first fault has been named (R107) -/
  named : List Nat := []
  satCount : W32 := 0
  rampShort : W32 := 0
  deriving DecidableEq, Repr

/-- One instruction stream of a core (R110). -/
structure StreamSt where
  /-- the schedule time of its next instruction -/
  sched : Nat := 0
  /-- instructions issued in the frame, and the frame's length (0: none runs) -/
  index : Nat := 0
  len : Nat := 0
  /-- first chunk of the frame within the spool -/
  chunk : Nat := 0
  /-- the instruction that holds the stream (R111), and whether the hold is a schedule deviation (Table 4.2) -/
  held : Option W128 := none
  dev : Bool := false
  /-- BOUNDARY has issued -/
  done : Bool := false
  /-- fetch buffer: chunk number within the frame and its 1 KiB (R136); the instructions whose words have bad parity (R374) -/
  buf : List (Nat × BitVec 8192) := []
  bad : List Nat := []
  deriving DecidableEq, Repr

/-- A scoreboard range: local bytes lo to hi − 1 (R165). -/
structure Range where
  lo : Nat
  hi : Nat
  deriving DecidableEq, Repr

/-- A request of a scheduled unit at the bank arbiter (R145): 16 times its rank in Table 5.2 plus its order within it, the core of the
store, the line there, the operation's own name for the line, and what it writes; none: it reads. -/
structure Req where
  rank : Nat
  core : Nat
  line : Nat
  tag : Nat
  data : Option Line
  deriving DecidableEq, Repr

/-- A line that an operation will write, or push into a queue, at a step of its own timeline. -/
structure Out where
  step : Nat
  line : Nat
  data : Line
  deriving DecidableEq, Repr

/-- One engine's part of a refill in progress: weight scales and rows go to an engine from tier blocks; its shadow window from the first
write on, and the rows written and complete so far (R95, R101, R122). -/
structure RefillRun where
  engine : Nat
  blk : Nat
  rows : Nat
  sline : Nat
  win : Option W64
  seen : Nat
  full : Nat
  deriving DecidableEq, Repr

/-- One engine's part of a PASS: its place in the pass log, its pass index and its column sums so far (R124, R380). -/
structure PassRun where
  engine : Nat
  logAt : Nat
  sums : List (List Int)
  deriving DecidableEq, Repr

/-- A run of entry reads: its engines, its interval, its output offset in lines, its first step and entry, its rows, its first row of the
output (R125, R132). -/
structure DrainRun where
  es : List Nat
  interval : Nat
  off : Nat
  start : Nat
  first : Nat
  rows : Nat
  /-- column group of a TILE -/
  ng : Nat
  row0 : Nat
  deriving DecidableEq, Repr

/-- An element operation's source lines done, a CVT8 line waiting for its pair, running SUM and MAXR values, and destination lines so far
(R126, R127). -/
structure EwRun where
  line : Nat
  half : Option (List Byte)
  total : Int
  best : Option W16
  written : Nat
  deriving DecidableEq, Repr

/-- A Tweed decode: the line of the segment and the uncompressed lines that its next block starts from, the output ac of the blocks
before it, and the steps at which that block's header and its end are judged (R208, R210). -/
structure DecodeRun where
  line : Nat
  left : Nat
  out : Nat
  written : Nat
  cause : Option Nat
  endAt : Nat
  deriving DecidableEq, Repr

/-- A Tweed encode: its format, the bytes read so far in the pass in progress, the codebook, the segment so far from its second line on,
the block headers' and bodies' tier blocks waiting to be written, and how many of the segment's tier blocks have been queued (R205, R209). -/
structure EncodeRun where
  code : Nat
  book : Option (List Nat)
  seg : List Byte
  waiting : List (Nat × List Byte)
  queued : Nat
  blocks : Nat
  deriving DecidableEq, Repr

/-- The tile sequencer's configuration (R129). -/
structure TileCfg where
  sline : Nat
  astride : Nat
  ostride : Nat
  ascale : Nat
  deriving DecidableEq, Repr

/-- One load of a tile: its index, the step of its first shadow-weight write, and its refill time (R132). -/
structure TileLoad where
  load : Nat
  start : Nat
  time : Nat
  deriving DecidableEq, Repr

/-- A TILE in progress (R132): the load whose pass is next or in progress, the step of that pass's first row, the step of the next one's,
the refills in progress and to come, and the drains. -/
structure TileRun where
  load : Nat
  p : Nat
  next : Nat
  cur : Option TileLoad
  nxt : Option TileLoad
  drains : List DrainRun
  deriving DecidableEq, Repr

/-- What an operation keeps of its progress beyond its step. -/
inductive Prog where
  | plain
  | refill
  | pass (start : Option Nat) (runs : List PassRun)
  | drain (runs : List DrainRun)
  | element (r : EwRun)
  | decode (r : DecodeRun)
  | encode (r : EncodeRun)
  | tile (cfg : TileCfg) (wfmt : Nat) (r : Option TileRun) (runs : List PassRun)
  deriving DecidableEq, Repr

/-- An outstanding operation of a unit: its signal (R115), its scoreboard ranges (R164), and its timeline. -/
structure Op where
  unit : UnitId
  word : W128
  sop : BitVec 4
  sobj : Byte
  reads : List Range
  writes : List Range
  /-- a message is complete: its signal point has come -/
  ready : Bool
  /-- it has failed and performs no signal (R211) -/
  noSignal : Bool
  /-- the unit time of its issue; its step, counted in ac from there, that comes next; and by how many ac conflicts, pauses and holds have
  moved its timeline (R136, R145) -/
  issue : Nat
  step : Nat
  shift : Nat
  /-- its last step; none: not known yet, or a message -/
  last : Option Nat
  /-- its unit holds it (R102, R109, R125) -/
  stalled : Bool
  /-- requests that lost their bank and ask again -/
  again : List Req
  /-- lines read and not yet used, by its own name for them -/
  lines : List (Nat × Line)
  /-- tier blocks read and not yet used: name, bytes, and whether the block was delivered -/
  blks : List (Nat × List Byte × Bool)
  /-- lines to write or push -/
  outs : List Out
  /-- window words in force at its issue, engine by engine -/
  wins : List W64
  refills : List RefillRun
  prog : Prog
  deriving DecidableEq, Repr

/-- An entry of a data queue and the unit time of its push (R109). -/
structure QEntry where
  data : Line
  at_ : Nat
  deriving DecidableEq, Repr

/-- What happens to a sync object at the end of an ac (R116): a signal of Table 4.5, a number added by SYNC, an arrival, a write from
outside to its value or its threshold. -/
inductive SyncEff where
  | signal (sop : Nat)
  | add (n : Nat)
  | arrival
  | value (v : W32)
  | threshold (v : W32)
  deriving DecidableEq, Repr

/-- An effect that comes at the end of an ac to come (R115): 16 times that ac's unit time plus the rank of its source in the order of R116;
its kind and its object. -/
structure SigDue where
  key : Nat
  eff : SyncEff
  sobj : Nat
  deriving DecidableEq, Repr

/-- A sync object (R154). A flag is bit 0 of `val`. -/
structure SyncObj where
  val : W32 := 0
  thr : W32 := 0
  deriving DecidableEq, Repr

/-- Where the status of a write goes: source address and MSGID (R262). -/
abbrev Reply := Option (W64 × W32)

/-- An arrival that waits for the arrival step: its counter, and the status that is owed once it has been applied (R155, R260). -/
structure Arrival where
  obj : Byte
  reply : Reply
  deriving DecidableEq, Repr

/-- A remote or DMA write with bytes still in the gather buffer: entries not yet flushed, the arrival it makes (core and counter), where its
status goes, whether a merge was abandoned, and whether it came poisoned (R155, R159, R262). -/
structure WriteRec where
  left : Nat
  arrive : Option (Nat × Byte)
  reply : Reply
  bad : Bool
  deriving DecidableEq, Repr

/-- A gather-buffer entry (R157). -/
structure GEntry where
  line : Nat
  data : Line
  mask : W64
  /-- holds service-complex bytes; holds bytes of other sources -/
  svc : Bool
  other : Bool
  /-- the writes with bytes in it -/
  notes : List Nat
  /-- the wall time of the last store into it (Table 5.6) -/
  at_ : Nat
  deriving DecidableEq, Repr

/-- A piece of a line whose source found no gather entry and is held (R158): line, offset, bytes, service-complex class, and its write. -/
structure HeldPiece where
  line : Nat
  off : Nat
  data : List Byte
  svc : Bool
  id : Option Nat
  deriving DecidableEq, Repr

/-- A write held at a full ring (R162). -/
structure RingHeld where
  data : List Byte
  src : W64
  reply : Reply
  deriving DecidableEq, Repr

/-- A circular region's dynamic state (R161, R162). -/
structure Ring where
  fill : W32 := 0
  enabled : Bool := false
  heldWrites : List RingHeld := []
  /-- sources accepted in the worked tempo (Table 13.5, KIND 0x06) -/
  sources : List W64 := []
  deriving DecidableEq, Repr

/-- An operation of the boundary-wait queue (R185). -/
inductive BqOp where
  | repair (blk : Nat) (data : Block) (fromHost : Bool)
  | retire (blk : Nat)
  deriving DecidableEq, Repr

/-- A core (04, 05). -/
structure Core where
  maint : Bool := true
  boundary : Bool := false
  /-- barred from the worked tempo by R134 -/
  barred : Bool := false
  clearing : Bool := true
  a : StreamSt := {}
  x : StreamSt := {}
  engines : Tbl Engine := []
  ops : List Op := []
  qin : Tbl (List QEntry) := []
  qout : Tbl (List QEntry) := []
  /-- ac by which the core's units are ahead of TRC_AC: the slips of its own deviations (assumption log 2) -/
  off : Nat := 0
  /-- the unit time from which the units have not run yet -/
  ranTo : Nat := 0
  /-- the WIN that its issue ac's end applies (R122) -/
  winDue : Option W128 := none
  /-- ac of the vertical port that chunk fetches still take (R136) -/
  port : Nat := 0
  /-- the fetched header of the next set (R136), and what it was fetched for: variant, chunk offset and SPOOL_TAIL, each in 18 bits -/
  hdr : Option (Nat × BitVec 8192) := none
  tcfg : Option TileCfg := none
  /-- objects whose decoupled waits hold as if satisfied (R212) -/
  bypass : List Byte := []
  store : Mem := []
  /-- line CRCs that differ from the computed one: the XOR of the two (R152, MWRL) -/
  lcrc : Tbl W16 := []
  fences : Tbl W32 := []
  /-- lines that failed while every FENCE word was in use (R153) -/
  unfenced : List Nat := []
  storeFault : W32 := 0
  syncs : Tbl SyncObj := []
  /-- objects with bad parity: updates leave them unchanged (R374) -/
  badSync : List Nat := []
  /-- effects that wait for the end of their ac, in the order of R116 -/
  sigs : List SigDue := []
  arrivals : List Arrival := []
  gather : Tbl (Option GEntry) := []
  gatherHigh : Nat := 0
  /-- pieces held for want of an entry, in order (R158) -/
  gatherHeld : List HeldPiece := []
  writes : Tbl (Option WriteRec) := []
  nextWrite : Nat := 0
  sbHigh : Nat := 0
  rings : Tbl Ring := []
  /-- accepted and effective control words, by offset within the control region (R47) -/
  cw : Tbl W32 := []
  cwEff : Tbl W32 := []
  spoolHead : Nat := 0
  spoolOld : Nat := 0
  /-- SPOOL_BASE or SPOOL_SIZE was written and has not taken effect (R135) -/
  spoolNew : Bool := false
  mres : Tbl W64 := []
  mcrc : W32 := 0
  mcnt : W32 := 0
  mstat : Byte := 0
  mnext : Option Byte := none
  mpErr : W32 := 0
  mpInsn : Tbl W32 := []
  /-- slip caused, in time units -/
  slip : Nat := 0
  waitSlips : W16 := 0
  rereads : W16 := 0
  conflictsLast : W32 := 0
  /-- bank conflicts of the worked tempo so far (R145) -/
  conflicts : Nat := 0
  ran : Bool := false
  /-- pass signatures of the worked tempo and of the one before (R380) -/
  passLog : List W32 := []
  passLogOld : List W32 := []
  /-- the engine of each record of the two logs -/
  passEng : List Nat := []
  passEngOld : List Nat := []
  bq : List BqOp := []
  bqOver : List BqOp := []
  /-- time of the last completed self-test visit (R360) -/
  visited : Option Nat := none
  /-- a self-test visit is owed since the core entered maintenance mode (R360) -/
  visitDue : Bool := false
  /-- next MSGID of the core's message unit -/
  msgid : W32 := 0
  deriving DecidableEq, Repr

/-! ### Tiers -/

/-- A fence-list entry (R181). -/
structure FenceEnt where
  valid : Bool := false
  state : BitVec 2 := 0
  core : BitVec 7 := 0
  blk : BitVec 19 := 0
  crc : W32 := 0
  /-- the block was remapped to its standby spare when it was fenced (R181) -/
  moved : Bool := false
  /-- the repair source being tried: 0 none, 1 peer, 2 host -/
  source : Nat := 0
  deriving DecidableEq, Repr

/-- A weak-list entry (R187). -/
structure WeakEnt where
  loc : Nat
  count : Nat
  first : Nat
  deriving DecidableEq, Repr

/-- A block that could not get a fence entry (R182). -/
structure Unfenced where
  core : Nat
  blk : Nat
  ctx : Option Nat
  deriving DecidableEq, Repr

/-- What the housekeeping areas of the tiers hold: the copy of every remap entry, substitution and fence entry, and, as bytes in a layout of
their own, read calibration and manufacturing records (R37, R195). -/
structure House where
  remap : Tbl Nat := []
  subs : Tbl W32 := []
  fence : Tbl FenceEnt := []
  records : Mem := []
  deriving DecidableEq, Repr

/-- The tiers and the TIR block (06). Physical blocks are numbered core × 393,216 + tier × 98,304 + slice block, and the spares
28,311,552 + tier × 196,608 + spare. -/
structure Tiers where
  mem : Mem := []
  house : House := {}
  /-- stored CRCs that differ from the computed one: the XOR of the two -/
  crc : Tbl W32 := []
  /-- entries with bad parity (R374): remap entries by core and column block, 2^32 and on substitutions, 2^33 and on fence entries -/
  bad : List Nat := []
  /-- core × 393,216 + column block → 1 + physical block -/
  remap : Tbl Nat := []
  subs : Tbl W32 := []
  fence : Tbl FenceEnt := []
  unfenced : List Unfenced := []
  /-- core × 4 + tier → 1 + spare -/
  standby : Tbl Nat := []
  /-- tier × 196,608 + spare → 0 free, 1 in use, 2 bad, 3 standby, 4 retired -/
  spare : Tbl Nat := []
  /-- slice blocks retired (R187) -/
  retired : List Nat := []
  weak : List WeakEnt := []
  ctrl : W32 := 7
  status : W32 := 0
  scrubMin : W32 := 0x12C
  scrubMax : W32 := 0x708
  scrubPeriod : W32 := 0x708
  scrubSweeps : W32 := 0
  scrubCfg : W32 := 0x10
  retireCfg : W32 := 0x180402
  rereads : W32 := 0
  fences : W32 := 0
  retiredN : W32 := 0
  repaired : W32 := 0
  coreSel : W32 := 0
  credit : Tbl Deferred := []
  creditLeft : Tbl Nat := []
  heldN : Tbl W32 := []
  fenceSel : W32 := 0
  codecFaults : W32 := 0
  codecLast : W32 := 0
  /-- re-reads and persistent failures of the sweep, sweeps without either in a row, and start time of the sweep -/
  sweepRereads : Nat := 0
  sweepBad : Bool := false
  cleanSweeps : Nat := 0
  /-- stored blocks read in the sweep (R189) -/
  sweepSeen : List Nat := []
  sweepAt : Nat := 0
  deriving DecidableEq, Repr

/-! ### Mesh -/

/-- A flit in a router with the input it came on and, for free flits, its output. -/
structure InFlit where
  inp : Nat
  out : Nat
  flit : MeshFlit
  /-- outputs it must still leave on (weft flits) -/
  pending : Byte
  /-- when it came, in time units -/
  at_ : Nat
  deriving DecidableEq, Repr

/-- A seam buffer entry (R236). -/
structure SeamEnt where
  seq : W16
  base : BitVec 10
  ctx : BitVec 4
  seen : Byte
  lanes : List Int
  lastSeen : Bool
  poison : Bool
  /-- lanes that have met a fault -/
  dead : BitVec 16
  deriving DecidableEq, Repr

/-- A router (08). -/
structure Router where
  ctrl : W32 := 0
  status : W32 := 0
  crcCount : W32 := 0
  strayCount : W32 := 0
  seamFaults : W32 := 0
  freeWaitMax : W32 := 0
  slotLent : W32 := 0
  commitDue : Bool := false
  route : Tbl Byte := []
  routeStaged : Tbl Byte := []
  stream : Tbl W32 := []
  streamStaged : Tbl W32 := []
  seam : Tbl W64 := []
  seamStaged : Tbl W64 := []
  /-- output × 4,096 + entry -/
  slot : Tbl W64 := []
  slotStaged : Tbl W64 := []
  free : List InFlit := []
  weft : List InFlit := []
  seamBuf : Tbl (Option SeamEnt) := []
  /-- the input each output served last (R224) -/
  lastIn : Tbl Nat := []
  /-- flits delivered at the local port whose message is not complete -/
  delivered : List MeshFlit := []
  /-- flits that an output has sent and the far router has not received, by output -/
  link : Tbl (List MeshFlit) := []
  /-- control entries with bad parity (R238, R374): 0 to 127 routing, 128 and on stream, 1,152 and on seam, 1,216 and on slot (assumption log 64) -/
  bad : List Nat := []
  /-- complete seam results: seam and flit (R235, R236) -/
  seamOut : List (Nat × InFlit) := []
  /-- by output: 4 times the time of its last decision in a worked tempo, plus the nc it has decided in that ac -/
  decided : Tbl Nat := []
  deriving DecidableEq, Repr

/-! ### Fabric -/

/-- A frame on a port: type of Table 9.3, sequence number, destination, sideband, payload. -/
structure Frame where
  typ : BitVec 4
  seq : BitVec 12
  dest : BitVec 12
  side : W64
  payload : Flit256
  deriving DecidableEq, Repr

/-- A message flit at a port's egress: the destination chip, the mesh flit, and the context whose quota it takes; none: no context's (R267). -/
structure OutFlit where
  chip : BitVec 12
  flit : MeshFlit
  ctx : Option Nat
  deriving DecidableEq, Repr

/-- A request or an answer that leaves on a down-trained port in the form of its generation (R247 to R249): 0 write, 1 read, 2 done or data,
3 error; the older part's address, the length and the bytes. -/
structure Legacy where
  op : Nat
  addr : Nat
  len : Nat
  data : List Byte
  deriving DecidableEq, Repr

/-- A sequenced flit that has arrived (Table 9.3). -/
inductive RxItem where
  | data (f : FabFlit)
  | epoch (count : W64) (phase : Nat)
  | snap (count : W64)
  | barrier (ctx : Nat) (release : Bool)
  | dreset
  | reply (saddr : W64) (msgid : W32) (status : BitVec 4)
  | oppose (frame : Flit256)
  deriving DecidableEq, Repr

/-- A fabric port (09). -/
structure Port where
  ctrl : Deferred := ⟨0x32, 0x32⟩
  /-- Table 9.15 STATE -/
  st : Nat := 0
  gen : BitVec 2 := 0
  long : Bool := false
  neighBoard : W16 := 0
  neighSlot : BitVec 3 := 0
  neighGen : BitVec 2 := 0
  neighPort : BitVec 4 := 0
  neighChip : BitVec 12 := 0xFFF
  neighSerial : W64 := 0
  recorded : Bool := false
  lat : W16 := 0
  phase : W32 := 0
  crcN : W32 := 0
  downs : W32 := 0
  legacy : W32 := 0
  retries : W32 := 0
  retryNc : W32 := 0
  txSeq : BitVec 12 := 0
  rxSeq : BitVec 12 := 0
  retry : List Frame := []
  naks : List (BitVec 12 × Nat) := []
  /-- frames to send again, first -/
  resend : List Frame := []
  reorder : List (BitVec 12 × RxItem) := []
  /-- source address and MSGID of the message being sent, by virtual channel and class (1,024 + context × 1,024 + stream for weft flits), and
  its destination chip at the egress; and those of the flits in the retry buffer -/
  txHdr : Tbl (W64 × W32) := []
  txChip : Tbl (BitVec 12) := []
  txSrc : List (BitVec 12 × W64 × W32) := []
  /-- the last IDENT received and the sc time of its receipt -/
  lastIdent : Option (Ident × Nat) := none
  /-- sequenced flits received and not yet acknowledged -/
  unacked : Nat := 0
  /-- flits whose credit has not been returned (R233, R245) -/
  owed : Nat := 0
  legacyOut : List Legacy := []
  control : List Frame := []
  freeOut : List OutFlit := []
  weftOut : List OutFlit := []
  credit : Nat := 0
  /-- flits used in the frame, per stream; and the stream served last -/
  frameUse : Tbl Nat := []
  lastStream : Nat := 0
  /-- free flits used in the worked tempo, per context; flits held for quota -/
  freeUsed : Tbl Nat := []
  heldOut : List OutFlit := []
  /-- message data collected so far (R258) -/
  rxFlits : List FabFlit := []
  /-- 0 active, 1 I2, 2 I3, 3 waking (PWR_PORT_IDLE) -/
  idle : Nat := 0
  deriving DecidableEq, Repr

/-- An outstanding or held message of this module (R258 to R262). -/
structure Msg where
  /-- 0 to 71 physical core, 72 service message engine, 73 serving engine, 74 repair, 75 fill -/
  src : Nat
  msgid : W32
  op : Nat
  gaddr : W64
  laddr : Nat
  len : Nat
  arrive : Option Byte
  stream : Nat
  coreset : W64
  cls : Nat
  fence : Bool
  /-- the data it carries (PUT, LADD, SPUT) -/
  data : List Byte
  sop : BitVec 4
  sobj : Byte
  started : Bool
  /-- it carries the job tag of this context; none: 0xFFFF -/
  ctx : Option Nat
  /-- copies still to answer, and the first nonzero status so far (R264) -/
  copies : Nat
  status : BitVec 4
  /-- the core it came from has been cleared: its answer is dropped (R411) -/
  dead : Bool
  /-- the bandwidth regulator has held it (R192) -/
  held : Bool
  deriving DecidableEq, Repr

/-- A status owed to the source of a write: source address and MSGID, the status, and the core that answers (0xFF: none) (R262). -/
structure Due where
  saddr : W64
  msgid : W32
  st : BitVec 4
  core : Nat
  deriving DecidableEq, Repr

/-- A message whose copies answer together: copies left and the first nonzero status (R264). -/
structure Join where
  saddr : W64
  msgid : W32
  left : Nat
  st : BitVec 4
  deriving DecidableEq, Repr

/-- Where a seam operand stream's values go: 1 + offset, arrival counter, number of values (R237, assumption log 10). -/
structure StreamDest where
  at_ : Nat := 0
  arrive : Option Byte := none
  values : Nat := 0
  deriving DecidableEq, Repr

/-- The barrier of a context (R271). -/
structure Barrier where
  joins : List (CoreId × Byte) := []
  early : List (CoreId × Byte) := []
  children : W16 := 0
  sent : Bool := false
  deriving DecidableEq, Repr

/-- The FAB block and the fabric unit (09). -/
structure Fab where
  /-- entries with bad parity (R374): chip IDs of the route table, 4,096 and on fabric slots by port and entry -/
  bad : List Nat := []
  ctrl : W32 := 0
  status : W32 := 0
  chipId : Deferred := ⟨0xFFF, 0xFFF⟩
  board : W32 := 0
  cfg : Deferred := ⟨0x3E808, 0x3E808⟩
  portSel : W32 := 0
  ports : Tbl Port := []
  ctxSel : W32 := 0
  /-- port × 16 + context -/
  quota : Tbl Deferred := []
  freeq : Tbl Deferred := []
  job : Tbl Deferred := []
  barCfg : Tbl Deferred := []
  bars : Tbl Barrier := []
  slotSel : W32 := 0
  /-- port × 256 + entry -/
  slotStaged : Tbl W32 := []
  slot : Tbl W32 := []
  routeSel : W32 := 0
  routeStaged : Tbl W64 := []
  route : Tbl W64 := []
  commitDue : Bool := false
  snapLo : W32 := 0
  snapHi : W32 := 0
  snapAt : Option Nat := none
  snapStop : Bool := false
  /-- SNAP_DONE has been set for this stop -/
  snapOver : Bool := false
  epochLo : W32 := 0
  epochHi : W32 := 0
  epochDue : Bool := false
  epochAdopted : Bool := false
  /-- a kept EPOCH frame: port, count, phase in sc (R275) -/
  epochKept : Option (PortId × W64 × Nat) := none
  aperSel : W32 := 0
  aper : Tbl W32 := []
  msgLast : W32 := 0
  dresetDue : Bool := false
  /-- when a DRESET was last flooded -/
  dresetAt : Option Nat := none
  msgs : List Msg := []
  openingDone : Bool := false
  /-- verdicts forwarded or sent, and verdicts acted on: tag and count (R370) -/
  verdicts : List (W16 × W64) := []
  verdictSeen : List (W16 × W64) := []
  snapSeen : List Nat := []
  nextId : W32 := 0
  /-- statuses that completed writes owe their sources (R262) -/
  due : List Due := []
  joins : List Join := []
  /-- ended messages of the service complex and the serving engine, not yet acted on: source, MSGID, status, data -/
  ended : List (Nat × W32 × BitVec 4 × List Byte) := []
  /-- context × 1,024 + stream → where a seam operand stream's values go -/
  streamTo : Tbl StreamDest := []
  /-- OPPOSE frames delivered in sequence and not yet acted on (R243, R380) -/
  oppRx : List (PortId × Flit256) := []
  deriving DecidableEq, Repr

/-! ### Serving -/

/-- Lane states (Table 10.1). -/
inductive LaneSt where
  | free | feeding | decoding | paused | landing | shipping | ending
  deriving DecidableEq, Repr

/-- Gambit states (Table 10.12). -/
inductive GambitSt where
  | open | proposed | plain | verifying | decided
  deriving DecidableEq, Repr

/-- The sequence state that a worked tempo changes (R280, R282). -/
structure SeqSt where
  kvlen : Nat := 0
  pend : List W32 := []
  hist : List W32 := []
  deriving DecidableEq, Repr

/-- A token record (R303). -/
abbrev TokenRec := W64

/-- Shuttle progress (Table 10.14): its steps 1 to 6. -/
structure Shuttle where
  ident : W64 := 0
  peer : BitVec 12 := 0
  step : Nat := 0
  /-- addresses granted, shard by shard -/
  grants : List W64 := []
  /-- puts sent and not yet answered; puts done or, at the destination, blocks received -/
  putsLeft : Nat := 0
  puts : Nat := 0
  /-- the verified state record: KVLEN, PEND, HIST, and the number of puts it follows -/
  record : Option (SeqSt × Nat) := none
  /-- coded shuttles: block ordinals still to ship or land; and those bound, with their binding, to the step being prepared, the one in
  progress and the one just ended (R307) -/
  todo : List Nat := []
  prep : List (Nat × Nat) := []
  cur : List (Nat × Nat) := []
  fin : List (Nat × Nat) := []
  deriving DecidableEq, Repr

/-- What a decision gives a lane (R300): its state, its records, and whether an END is among them. -/
structure Dec where
  st : SeqSt
  recs : List TokenRec
  ended : Bool
  deriving DecidableEq, Repr

/-- A sequence lane (R280). -/
structure Lane where
  st : LaneSt := .free
  ctx : Nat := 0
  seqid : W64 := 0
  seed : W64 := 0
  limit : Nat := 0
  temp : W16 := 0
  eos : W32 := 0
  feedLen : Nat := 0
  feedAddr : W64 := 0
  /-- the prompt has arrived (R294) -/
  fed : Bool := false
  ship : Bool := false
  /-- committed state; what was decided in the worked tempo in progress, and in the ended one until its commit point -/
  com : SeqSt := {}
  dec : Option Dec := none
  edec : Option Dec := none
  /-- committed records not yet written; how many of them waited in a pause -/
  recs : List TokenRec := []
  held : Nat := 0
  /-- a committed record carries END -/
  ended : Bool := false
  ringAddr : W64 := 0
  headAddr : W64 := 0
  ringLog2 : Nat := 0
  head : W64 := 0
  tail : W64 := 0
  patch : Option Nat := none
  /-- first map entry of the extent, blocks per shard -/
  extent : Nat := 0
  bps : Nat := 0
  gambit : GambitSt := .open
  shuttle : Shuttle := {}
  /-- the ADMIT to complete when the shuttle ends (R306) -/
  cmd : Option Nat := none
  /-- state when paused -/
  resume : LaneSt := .decoding
  /-- the draft record kept for it: BASE and tokens (R299) -/
  draft : Option (Nat × List W32) := none
  /-- map entries that got their block in the worked tempo in progress, and in the ended one until its commit point (R282) -/
  alloc : List Nat := []
  ealloc : List Nat := []
  deriving DecidableEq, Repr

/-- A row of a step (Table 10.9). -/
structure StepRow where
  token : W32 := 0
  valid : Bool := false
  draft : Bool := false
  sampled : Bool := false
  pos : Nat := 0
  patch : Option Nat := none
  deriving DecidableEq, Repr

/-- A pool word (R290). -/
structure Pool where
  blocks : Nat
  core : Nat
  first : Nat
  deriving DecidableEq, Repr

/-- A group record (Table 10.6). -/
structure GroupRec where
  used : Bool
  lanes : Nat
  q : Nat
  steer : Nat
  selFlag : Nat
  bindArr : Nat
  deriving DecidableEq, Repr

/-- A binding entry (Table 10.7). -/
structure Binding where
  kind : Nat
  group : Nat
  core : Nat
  d : Nat
  lane : Nat
  row : Nat
  shard : Nat
  blk : Nat
  plen : Nat
  deriving DecidableEq, Repr

/-- A selection-lane entry (Table 10.10). -/
structure SelEntry where
  group : Nat
  core : Nat
  lline : Nat
  row0 : Nat
  rows : Nat
  vbase : Nat
  lpr : Nat
  trig : Nat
  done : Nat
  deriving DecidableEq, Repr

/-- A serving declaration (R290). -/
structure ServDecl where
  kvfmt : W64
  blockBytes : Nat
  coded : Bool
  shards : Nat
  bpt : Nat
  embBase : W64
  embBytes : Nat
  vocab : Nat
  pools : List Pool
  groups : List GroupRec
  bindings : List Binding
  sels : List SelEntry
  deriving DecidableEq, Repr

/-- Patch slot states (Table 10.16). -/
inductive PatchSt where
  | free | loading | ready | draining
  deriving DecidableEq, Repr

/-- A patch slot (R310). -/
structure PatchSlot where
  st : PatchSt := .free
  ctx : Nat := 0
  ident : W16 := 0
  gen : W16 := 0
  count : Nat := 0
  /-- verified and waiting for its edge; to be drained at the next edge -/
  verified : Bool := false
  drop : Bool := false
  cmd : Option Nat := none
  deriving DecidableEq, Repr

/-- The SRV words of a context (Table 11.16). -/
structure SrvCtx where
  kvFirst : Deferred := {}
  kvCount : Deferred := {}
  pool : Deferred := {}
  cblk : Deferred := {}
  coresLo : Deferred := {}
  coresHi : Deferred := {}
  draft : Deferred := {}
  land : Deferred := {}
  legacyLo : Deferred := {}
  legacyHi : Deferred := {}
  tmo : Deferred := ⟨0x2710, 0x2710⟩
  draftDrop : W32 := 0
  tailIgn : W32 := 0
  deriving DecidableEq, Repr

/-- A held OFFER and the time of its receipt, in time units (R305). -/
structure Offer where
  chip : BitVec 12
  ident : W64
  job : W16
  kvfmt : W64
  kvlen : Nat
  at_ : Nat
  deriving DecidableEq, Repr

/-- What a tempo edge has taken for the serving actions at its commit point: accepted commands, landings whose shuttle has completed, patch
slots verified and patch slots dropped (R281, Table 10.2). -/
structure EdgeCut where
  cmds : List Nat := []
  lanes : List Nat := []
  ready : List Nat := []
  drops : List Nat := []
  deriving DecidableEq, Repr

/-- The serving engine (10). -/
structure Srv where
  ctxSel : W32 := 0
  status : W32 := 0
  groups : Tbl Deferred := []
  perCtx : Tbl SrvCtx := []
  lanes : Tbl Lane := []
  kvmap : Tbl W64 := []
  /-- pool blocks: core × 393,216 + column block of a KV block → taken -/
  taken : Tbl Bool := []
  /-- blocks reserved and not allocated: context × 64 + shard -/
  reserved : Tbl Nat := []
  patches : Tbl PatchSlot := []
  /-- accepted ADMIT and CANCEL command ids, in order -/
  admits : List Nat := []
  cancels : List Nat := []
  /-- rows of the step in progress and of the step prepared: group × 2,048 + row -/
  rows : Tbl StepRow := []
  nextRows : Tbl StepRow := []
  /-- best candidate of a row: score bits and vocabulary index -/
  cands : Tbl (Option (Int × Nat)) := []
  /-- running selection lanes, and those that have read their lines in the worked tempo: context × 65,536 + entry -/
  selRun : List Nat := []
  selDone : List Nat := []
  /-- groups decided in the worked tempo -/
  decided : List Nat := []
  offers : List Offer := []
  /-- tokens decided for sampled rows in the worked tempo: group × 2,048 + row (R380) -/
  sigToks : Tbl W32 := []
  /-- MIRROR items sent in the step (R382) -/
  mirrorItem : Nat := 0
  /-- coded segments received for landing lanes: shuttle identifier, block ordinal, bytes (R307) -/
  segs : List (W64 × Nat × List Byte) := []
  /-- what the last tempo edge took (R281) -/
  cut : EdgeCut := {}
  /-- the patch slots that each context's pool holds, in pool order (R309) -/
  slotMap : Tbl (List Nat) := []
  deriving DecidableEq, Repr

/-! ### Contexts, functions, commands -/

/-- A variant declaration (Table 2.7). -/
structure Variant where
  work : Nat
  stride : Nat
  allow : Nat
  conflicts : List Nat
  deriving DecidableEq, Repr

/-- A replica directory entry (Table 6.4). -/
structure Replica where
  core : Nat
  first : Nat
  blocks : Nat
  peer : W64
  host : Bool
  deriving DecidableEq, Repr

/-- A loaded bolt (R349). -/
structure Bolt where
  variants : List Variant
  carry : Bool
  digest : BitVec 256
  measured : BitVec 256
  serving : Option ServDecl
  replicas : List Replica
  /-- a castling bolt: its fill has been made (R362, R387) -/
  castled : Bool
  deriving DecidableEq, Repr

/-- Context states (Table 11.4). -/
inductive CtxSt where
  | unbound | bound | loaded | running
  deriving DecidableEq, Repr

/-- A publisher key (R405). -/
structure PubKey where
  modulus : BitVec 3072
  exponent : W32
  deriving DecidableEq, Repr

/-- A GET of a fill: message, core, first block, blocks, source, and whether it is the second try (R363). -/
structure FillGet where
  msgid : W32
  core : Nat
  blk : Nat
  blocks : Nat
  gaddr : W64
  again : Bool
  deriving DecidableEq, Repr

/-- A fill: the command, the bolt, the context records being read from peers (message, and chip ID, plus 4,096 on the second try), whether
one of them was wrong, and the GETs not yet done (R363). -/
structure Fill where
  cmd : Nat
  bolt : Bolt
  checks : List (W32 × Nat)
  bad : Bool
  gets : List FillGet
  /-- what the load has written: physical core, region (0 column, 1 store, 2 control, 3 windows), first byte, bytes -/
  ranges : List (Nat × Nat × Nat × Nat)
  deriving DecidableEq, Repr

/-- A context (R321 to R323). -/
structure Ctx where
  st : CtxSt := .unbound
  bind : Deferred := {}
  clusters : Deferred := {}
  runAt : Option Nat := none
  runCmd : Option Nat := none
  stopAt : Option Nat := none
  stopCmd : Option Nat := none
  force : Bool := false
  /-- stopped by a function-level reset: writes no END records (R324) -/
  flr : Bool := false
  /-- worked-tempo index (R227) -/
  w : Nat := 0
  bolt : Option Bolt := none
  keys : Tbl (Option PubKey) := []
  locked : Bool := false
  weightLog : BitVec 256 := 0
  /-- withheld worked tempos not yet decided: count, source kind × 256 + index, fault code (R367, R370) -/
  marks : List (W64 × Nat × Byte) := []
  ranEnded : Bool := false
  ranNow : Bool := false
  /-- the serving state of the running tempo was prepared from a withheld one (R282) -/
  discardNext : Bool := false
  /-- the same of the worked tempo that has ended, until its commit point -/
  discardEnded : Bool := false
  /-- per source, the consecutive worked tempos it has withheld (R372) -/
  streak : Tbl Nat := []
  /-- sources whose present run of withheld worked tempos has been reported as a persistent fault (R372) -/
  persisted : List Nat := []
  /-- counts of the committed worked tempos (R371) -/
  commits : List W64 := []
  parked : Bool := false
  wakePark : Bool := false
  freeTempos : Nat := 0
  pwrBound : Deferred := {}
  pwrLat : Deferred := {}
  wakeLo : W32 := 0
  wakeHi : W32 := 0
  wakeArmed : Bool := false
  /-- the fill of a bolt load in progress (R363) -/
  fill : Option Fill := none
  deriving DecidableEq, Repr

/-- A queue pair of a function (R325, Table 11.15). -/
structure QPair where
  sqLo : W32 := 0
  sqHi : W32 := 0
  cqLo : W32 := 0
  cqHi : W32 := 0
  qcfg : W32 := 0
  sqHead : Nat := 0
  sqTail : Nat := 0
  cqHead : Nat := 0
  cqTail : Nat := 0
  phase : Bool := true
  /-- accepted commands without a completion -/
  open_ : Nat := 0
  deriving DecidableEq, Repr

/-- A PCIe function (R316, R328, R330, R414). -/
structure Fn where
  enabled : Bool := false
  qp : Tbl QPair := []
  evtLo : W32 := 0
  evtHi : W32 := 0
  evtCfg : W32 := 0
  evtTail : Nat := 0
  evtHead : Nat := 0
  evtPhase : Bool := true
  evtHeld : List (BitVec 256) := []
  evtLost : W32 := 0
  dbErr : W32 := 0
  /-- MSI-X vectors due; the MSI-X table, 4 words an entry (Table 11.1) -/
  msix : BitVec 64 := 0
  msixTable : Tbl W32 := []
  /-- the earliest time at which a vector may be sent again, in time units (R318) -/
  msixNext : Tbl Nat := []
  mbLo : W32 := 0
  mbHi : W32 := 0
  mbLen : W32 := 0
  mbResult : W32 := 0
  keySel : W32 := 0
  deriving DecidableEq, Repr

/-- What a command in flight does. -/
inductive CmdKind where
  | admission (body : BitVec 1024)
  | cancel (seqid : W64)
  | patchLoad (slot : Nat) (gen : W16) (haddr : W64) (len : Nat) (key : PubKey) (sig : W64)
  | patchDrop (slot : Nat)
  | wload (dkind core laddr len : Nat) (haddr : W64) (key : PubKey) (sig : W64) (arrive : Option Byte)
  | boltLoad (haddr : W64) (len : Nat) (key : PubKey) (sig : W64)
  | other
  deriving DecidableEq, Repr

/-- An accepted host command without its completion (R326). -/
structure Cmd where
  id : Nat
  fn : Nat
  q : Nat
  cid : W16
  noirq : Bool
  ctx : Nat
  kind : CmdKind
  started : Bool
  /-- a started WLOAD whose signature verifies: the digest that the weight log adds (R408) -/
  good : Option (BitVec 256)
  /-- a merge of its writes was abandoned (R159) -/
  torn : Bool
  deriving DecidableEq, Repr

/-- A pending host-copy request (R331), and the block it is for: core × 393,216 + column block. -/
structure HostCopy where
  tag : W16
  block : Nat
  deriving DecidableEq, Repr

/-! ### Safety, security, power -/

/-- A fault-log entry (R373). -/
structure FlogEnt where
  valid : Bool := false
  code : Byte := 0
  ctxs : W16 := 0
  detail : W64 := 0
  count : W64 := 0
  time : W32 := 0
  deriving DecidableEq, Repr

/-- The SAF block and the commit unit (13). -/
structure Saf where
  ctrl : W32 := 3
  status : W32 := 0
  persist : W32 := 8
  committed : W64 := 0
  withheld : W32 := 0
  lastWh : W64 := 0
  faults : W32 := 0
  flogSel : W32 := 0
  flog : Tbl FlogEnt := []
  flogNext : Nat := 0
  flogWrapped : Bool := false
  /-- fault reports firmware has not handled, oldest first (R357) -/
  reports : List FlogEnt := []
  oppCtrl : W32 := 0
  oppActive : Bool := false
  frozen : Bool := false
  /-- the frozen log and the engine of each record (R381) -/
  oppLog : List W32 := []
  oppEng : List Nat := []
  oppFirst : W32 := 0
  oppFirstCnt : W64 := 0
  oppMismatch : W32 := 0
  /-- the peer's tempo signatures for the ended tempo, per logical core, and its serving signature -/
  peerSigs : Tbl W32 := []
  peerServ : Option W32 := none
  peerParts : Nat := 0
  peerCount : W64 := 0
  ownSigs : List W32 := []
  ownServ : W32 := 0
  sigSent : Bool := false
  /-- the worked tempo last ended in opposition; the one last compared -/
  sigDue : Option W64 := none
  sigDone : Option W64 := none
  /-- the worked tempo of the own signatures -/
  sigCount : W64 := 0
  oppCore : Nat := 0
  /-- the peer's log chunks, by index -/
  peerLog : Tbl W32 := []
  peerChunks : Nat := 0
  /-- selection keys a FOLLOW received: logical core and row → SEQID, SEED, position, TEMP (R382) -/
  mirrorKeys : Tbl (Option (W64 × W64 × Nat × W16)) := []
  /-- those of the step in progress -/
  mirrorNow : Tbl (Option (W64 × W64 × Nat × W16)) := []
  choiceLo : W32 := 0
  choiceHi : W32 := 0
  choiceCfg : W32 := 0
  choiceOn : Bool := false
  choiceBase : W64 := 0
  choiceLog2 : Nat := 0
  choicePos : Nat := 0
  choiceSeq : W32 := 0
  choicePhase : Bool := true
  choiceTotal : W64 := 0
  choiceSel : W32 := 1
  choiceKind : Tbl W32 := []
  checkerFails : W32 := 0
  deriving DecidableEq, Repr

/-- The BSC (14). -/
structure Bsc where
  stage : BitVec 3 := 0
  fwCause : Byte := 0
  fwFloor : W32 := 0
  fwSvn : W32 := 0
  fwVer : W32 := 0
  fwDigest : BitVec 256 := 0
  /-- the delivery being verified: function, host address, length -/
  fwBusy : Option (FnId × W64 × Nat) := none
  clearing : BitVec 18 := 0
  /-- clusters whose clear has started -/
  clearStarted : BitVec 18 := 0
  spdmCount : W32 := 0
  idKey : Bool := false
  stewardSelB : Bool := false
  /-- SPDM requests answered in the connection: 0 none, 1 version, 2 capabilities, 3 algorithms -/
  spdmStep : Tbl Nat := []
  /-- transcript of the connection since GET_VERSION -/
  spdmLog : Tbl (List Byte) := []
  deriving DecidableEq, Repr

/-- Supply and reset phase (15). -/
inductive Phase where
  | off | inReset | running
  deriving DecidableEq, Repr

/-- The PWR block, the supply and the pins (15). -/
structure Pwr where
  phase : Phase := .inReset
  /-- the reset in force is a thermal trip's -/
  tripped : Bool := false
  /-- PWR_EN must fall and rise before the next power-up (R416) -/
  lockedOff : Bool := false
  modRstLow : Bool := false
  ctrl : Deferred := ⟨3, 3⟩
  status : W32 := 0
  cause : W32 := 1
  vin : W16 := 0
  power : BitVec 12 := 0
  powerMax : BitVec 12 := 0
  cap : W32 := 0x384
  tempCfg : W32 := 0x5F05
  tempSel : W32 := 0
  temp : Tbl W16 := []
  sampled : BitVec 26 := 0
  tempMax : W16 := 0
  /-- sensors found at their trip level at their last sample -/
  hot : BitVec 26 := 0
  /-- energy counted, in units of 10 µs · W -/
  energy : Nat := 0
  cluster : Tbl Nat := []
  /-- clusters ready to join at a tempo edge, and when each became ready (R429) -/
  ready : BitVec 18 := 0
  readyAt : Tbl Nat := []
  /-- wake events of clusters not yet served: time + 1; and those deferred past a pulse (R429) -/
  wakeAt : Tbl Nat := []
  deferred : BitVec 18 := 0
  portAllow : Deferred := {}
  portIdleUs : Deferred := ⟨0x3E8, 0x3E8⟩
  ctxSel : W32 := 0
  wakes : W32 := 0
  wakeDefer : W32 := 0
  wakeLate : W32 := 0
  powerGood : Bool := true
  faultN : Bool := true
  thermAlertN : Bool := true
  perstA : Bool := true
  perstB : Bool := true
  deriving DecidableEq, Repr

/-- The service complex (12). -/
structure Svc where
  released : Bool := false
  /-- TCM k at k × 1 MiB, the service store at 8 MiB -/
  mem : Mem := []
  /-- what the last load of each service core returned -/
  loaded : Tbl (BitVec 512) := []
  /-- address of the access fault that each service core's last access raised, plus 1; 0: none -/
  trap : Tbl Nat := []
  eccCorrected : W32 := 0
  /-- completion words of the message engine's slots -/
  msgStatus : Tbl W32 := []
  msgOpen : Tbl Bool := []
  hostCopies : List HostCopy := []
  /-- messages of repairs: MSGID, and core × 393,216 + column block; messages of the message engine: MSGID and slot, or 64 + the service
  core that reads the board aperture -/
  repairs : List (W32 × Nat) := []
  slots : List (W32 × Nat) := []
  nextTag : W16 := 0
  deriving DecidableEq, Repr

/-- Something the module has sent. -/
inductive Sent where
  /-- with its CRC-32 (R241) -/
  | frame (p : PortId) (f : Frame) (crc : W32)
  | legacy (p : PortId) (l : Legacy)
  | msix (fn : FnId) (vec : Nat)
  | spdm (p : PciePort) (resp : List Byte)
  | mesh (r out : Nat) (f : MeshFlit)
  deriving DecidableEq, Repr

/-- A word without a field of its own for the time between its acceptance and its effect (R47): RTR_CTRL of a router, FAB_CTRL,
FAB_PORT_LEGACY of a port, FAB_APER of a slot, PWR_CAP, PWR_TEMP_CFG, SAF_CTRL, SAF_PERSIST_CFG, TIR_CTRL, TIR_SCRUB_MIN, TIR_SCRUB_MAX,
TIR_SCRUB_CFG, TIR_RETIRE_CFG. -/
inductive LaterWord where
  | rtrCtrl (r : Nat)
  | fabCtrl
  | portLegacy (p : Nat)
  | aper (i : Nat)
  | pwrCap
  | pwrTemp
  | safCtrl
  | safPersist
  | tirCtrl
  | tirScrubMin
  | tirScrubMax
  | tirScrubCfg
  | tirRetireCfg
  deriving DecidableEq, Repr

/-- The machine. -/
structure State where
  /-- commands waiting, first in first out -/
  pending : List Instr := []
  /-- wall time in units of 1 / 17,226,649,440 sc (assumption log 2) -/
  now : Nat := 0
  card : Card := {}
  /-- the part-card EEPROM (R394) -/
  eeprom : Mem := []
  glb : Glb := {}
  tmp : Tmp := {}
  lock : Lock := {}
  hubs : Tbl Hub := []
  cores : Tbl Core := []
  tiers : Tiers := {}
  routers : Tbl Router := []
  /-- words accepted while a worked tempo runs and not yet in effect, that have no field of their own for it (R47) -/
  later : List (LaterWord × W32) := []
  fab : Fab := {}
  srv : Srv := {}
  ctxs : Tbl Ctx := []
  ctxSel : W32 := 0
  ctxStatus : W32 := 0
  fns : Tbl Fn := []
  cmds : List Cmd := []
  nextCmd : Nat := 0
  /-- host memory behind ports A and B, as the module's DMA reads and writes it -/
  hostA : Mem := []
  hostB : Mem := []
  saf : Saf := {}
  bsc : Bsc := {}
  pwr : Pwr := {}
  svc : Svc := {}
  /-- what the last register read with a row of its own returned -/
  readData : W32 := 0
  wire : List Sent := []
  /-- occasions of free values so far (assumption log 6) -/
  freeCtr : Nat := 0
  deriving DecidableEq, Repr

/-- The machine in module reset after power-up, with the supply held, the instant before reset release: every register at its
Reset column (R17), stores, tiers and sync objects zero (R169, R195), no context, no command. -/
def State.reset : State := {}

end Sys2Proof.Machine
end

