-- ==== Sys2Proof/Machine/Ops.lean ====
section
/-! DEFINITION. The named operations that every meaning uses: bit fields, sparse tables, byte memories, and the accessors of the
machine's parts. -/

namespace Sys2Proof.Machine

/-! ### Bits -/

/-- The field [lo + len − 1 : lo] of a word (R10). -/
def bits {n : Nat} (w : BitVec n) (lo len : Nat) : Nat := w.toNat / 2 ^ lo % 2 ^ len

/-- Bit `i` of a word. -/
def bit {n : Nat} (w : BitVec n) (i : Nat) : Bool := w.getLsbD i

/-- A word with the field [lo + len − 1 : lo] replaced by `v`. -/
def setBits {n : Nat} (w : BitVec n) (lo len v : Nat) : BitVec n :=
  (w &&& ~~~(BitVec.ofNat n ((2 ^ len - 1) * 2 ^ lo))) ||| BitVec.ofNat n (v % 2 ^ len * 2 ^ lo)

/-- A word with bit `i` set. -/
def orBit {n : Nat} (w : BitVec n) (i : Nat) : BitVec n := w ||| BitVec.ofNat n (2 ^ i)

/-- A word with bit `i` clear. -/
def clrBit {n : Nat} (w : BitVec n) (i : Nat) : BitVec n := w &&& ~~~(BitVec.ofNat n (2 ^ i))

/-- W1C: each bit written as 1 is cleared (Table 0.4). -/
def w1c {n : Nat} (w v : BitVec n) : BitVec n := w &&& ~~~v

/-- A bit as a number. -/
def b2n (b : Bool) : Nat := if b then 1 else 0

/-- A counter that saturates at all ones. -/
def satAdd {n : Nat} (w : BitVec n) (k : Nat) : BitVec n := BitVec.ofNat n (min (w.toNat + k) (2 ^ n - 1))

def lo32 (w : W64) : W32 := w.setWidth 32
def hi32 (w : W64) : W32 := (w >>> 32).setWidth 32
def join64 (hi lo : W32) : W64 := hi ++ lo

/-- Two's-complement value of the low `len` bits of `v`. -/
def signed (len v : Nat) : Int := if v % 2 ^ len < 2 ^ (len - 1) then ((v % 2 ^ len : Nat) : Int) else ((v % 2 ^ len : Nat) : Int) - ((2 ^ len : Nat) : Int)

/-! ### Sparse tables and byte memories -/

/-- The value at key `i`; an absent key reads as `d`. -/
def tget {α : Type} (d : α) : Tbl α → Nat → α
  | [], _ => d
  | (k, v) :: t, i => if i = k then v else if i < k then d else tget d t i

/-- The table with `v` at key `i`; it keeps the keys rising and lists no `d`. -/
def tset {α : Type} [DecidableEq α] (d : α) : Tbl α → Nat → α → Tbl α
  | [], i, v => if v = d then [] else [(i, v)]
  | (k, w) :: t, i, v =>
    if i < k then (if v = d then (k, w) :: t else (i, v) :: (k, w) :: t)
    else if i = k then (if v = d then t else (i, v) :: t)
    else (k, w) :: tset d t i v

/-- The table with the entry at `i` changed by `f`. -/
def tupd {α : Type} [DecidableEq α] (d : α) (t : Tbl α) (i : Nat) (f : α → α) : Tbl α := tset d t i (f (tget d t i))

/-- The table without the keys lo to hi − 1. -/
def tclear {α : Type} (t : Tbl α) (lo hi : Nat) : Tbl α := t.filter (fun p => decide (p.1 < lo) || decide (hi ≤ p.1))

/-- The canonical form of a table: keys strictly rising, no entry equal to the default. -/
def twf {α : Type} (d : α) (t : Tbl α) : Prop := t.Pairwise (fun a b => a.1 < b.1) ∧ ∀ p ∈ t, p.2 ≠ d

/-- The canonical form of a memory (an abbreviation of a decidable proposition). -/
abbrev Mem.wf (m : Mem) : Prop := m.Pairwise (fun a b => a.1 < b.1) ∧ ∀ p ∈ m, p.2 ≠ (0 : Byte)

def readByte (m : Mem) (a : Nat) : Byte := tget 0 m a
def writeByte (m : Mem) (a : Nat) (b : Byte) : Mem := tset 0 m a b

def readBytes (m : Mem) (a n : Nat) : List Byte := (List.range n).map (fun i => readByte m (a + i))

def writeBytes (m : Mem) : Nat → List Byte → Mem
  | _, [] => m
  | a, b :: bs => writeBytes (writeByte m a b) (a + 1) bs

/-- Zero the bytes lo to hi − 1. -/
def zeroBytes (m : Mem) (lo hi : Nat) : Mem := tclear m lo hi

/-- The number whose little-endian bytes these are (R11). -/
def leNat : List Byte → Nat
  | [] => 0
  | b :: bs => b.toNat + 256 * leNat bs

/-- The `n` little-endian bytes of a number (R11). -/
def leBytes : Nat → Nat → List Byte
  | 0, _ => []
  | n + 1, v => BitVec.ofNat 8 v :: leBytes n (v / 256)

def readLe (m : Mem) (a n : Nat) : Nat := leNat (readBytes m a n)
def writeLe (m : Mem) (a n v : Nat) : Mem := writeBytes m a (leBytes n v)

/-- Bytes lo to lo + n − 1 of a list, zeros beyond its end. -/
def slice (bs : List Byte) (lo n : Nat) : List Byte :=
  let x := (bs.drop lo).take n
  x ++ List.replicate (n - x.length) 0

def sliceNat (bs : List Byte) (lo n : Nat) : Nat := leNat (slice bs lo n)

/-! ### Parts of the machine -/

def State.setPending (s : State) (q : List Instr) : State := { s with pending := q }

def coreAt (s : State) (c : Nat) : Core := tget {} s.cores c
def setCore (s : State) (c : Nat) (x : Core) : State := { s with cores := tset {} s.cores c x }
def updCore (s : State) (c : Nat) (f : Core → Core) : State := setCore s c (f (coreAt s c))

def ctxAt (s : State) (k : Nat) : Ctx := tget {} s.ctxs k
def setCtx (s : State) (k : Nat) (x : Ctx) : State := { s with ctxs := tset {} s.ctxs k x }
def updCtx (s : State) (k : Nat) (f : Ctx → Ctx) : State := setCtx s k (f (ctxAt s k))

def fnAt (s : State) (f : Nat) : Fn := tget {} s.fns f
def setFn (s : State) (f : Nat) (x : Fn) : State := { s with fns := tset {} s.fns f x }
def updFn (s : State) (f : Nat) (g : Fn → Fn) : State := setFn s f (g (fnAt s f))

def portAt (s : State) (p : Nat) : Port := tget {} s.fab.ports p
def setPort (s : State) (p : Nat) (x : Port) : State := { s with fab := { s.fab with ports := tset {} s.fab.ports p x } }
def updPort (s : State) (p : Nat) (f : Port → Port) : State := setPort s p (f (portAt s p))

def routerAt (s : State) (r : Nat) : Router := tget {} s.routers r
def setRouter (s : State) (r : Nat) (x : Router) : State := { s with routers := tset {} s.routers r x }
def updRouter (s : State) (r : Nat) (f : Router → Router) : State := setRouter s r (f (routerAt s r))

def laneAt (s : State) (l : Nat) : Lane := tget {} s.srv.lanes l
def setLane (s : State) (l : Nat) (x : Lane) : State := { s with srv := { s.srv with lanes := tset {} s.srv.lanes l x } }
def updLane (s : State) (l : Nat) (f : Lane → Lane) : State := setLane s l (f (laneAt s l))

def srvCtxAt (s : State) (k : Nat) : SrvCtx := tget {} s.srv.perCtx k
def updSrvCtx (s : State) (k : Nat) (f : SrvCtx → SrvCtx) : State :=
  { s with srv := { s.srv with perCtx := tupd {} s.srv.perCtx k f } }

def engineAt (c : Core) (e : Nat) : Engine := tget {} c.engines e
def setEngine (c : Core) (e : Nat) (x : Engine) : Core := { c with engines := tset {} c.engines e x }
def updEngine (c : Core) (e : Nat) (f : Engine → Engine) : Core := setEngine c e (f (engineAt c e))

def updTmp (s : State) (f : Tmp → Tmp) : State := { s with tmp := f s.tmp }
def updLock (s : State) (f : Lock → Lock) : State := { s with lock := f s.lock }
def updTiers (s : State) (f : Tiers → Tiers) : State := { s with tiers := f s.tiers }
def updFab (s : State) (f : Fab → Fab) : State := { s with fab := f s.fab }
def updSrv (s : State) (f : Srv → Srv) : State := { s with srv := f s.srv }
def updSaf (s : State) (f : Saf → Saf) : State := { s with saf := f s.saf }
def updBsc (s : State) (f : Bsc → Bsc) : State := { s with bsc := f s.bsc }
def updPwr (s : State) (f : Pwr → Pwr) : State := { s with pwr := f s.pwr }
def updSvc (s : State) (f : Svc → Svc) : State := { s with svc := f s.svc }
def updGlb (s : State) (f : Glb → Glb) : State := { s with glb := f s.glb }

def setTmpStatus (s : State) (i : Nat) : State := updTmp s (fun t => { t with status := orBit t.status i })
def setFabStatus (s : State) (i : Nat) : State := updFab s (fun t => { t with status := orBit t.status i })
def setSafStatus (s : State) (i : Nat) : State := updSaf s (fun t => { t with status := orBit t.status i })
def setPwrStatus (s : State) (i : Nat) : State := updPwr s (fun t => { t with status := orBit t.status i })
def setTirStatus (s : State) (i : Nat) : State := updTiers s (fun t => { t with status := orBit t.status i })
def setSrvStatus (s : State) (i : Nat) : State := updSrv s (fun t => { t with status := orBit t.status i })

/-- Apply `f` for each of a list, in order. -/
def forAll {α : Type} (l : List α) (s : State) (f : State → α → State) : State := l.foldl f s

/-- The module is powered, out of reset (R420). -/
def live (s : State) : Bool := decide (s.pwr.phase = .running)

/-- FAULT_N: low in tempo lost, while unconfigured, and in reset after a thermal trip (Table 15.3, R423). -/
def faultLevel (s : State) : Bool :=
  match s.pwr.phase with
  | .running => !(s.tmp.lost || s.glb.unconfigured)
  | .inReset => !s.pwr.tripped
  | .off => true

/-- THERM_ALERT_N: low while PWR_STATUS.CRIT is set (Table 15.3). -/
def alertLevel (s : State) : Bool := !(bit s.pwr.status 5)

/-- PWR_GOOD: high while the rails are in regulation (Table 15.3, R420). -/
def goodLevel (s : State) : Bool := decide (s.pwr.phase ≠ .off)

/-- The module drives its output pins. -/
def drive (s : State) : State :=
  updPwr s (fun p => { p with powerGood := goodLevel s, faultN := faultLevel s, thermAlertN := alertLevel s })

/-- The machine after a command that has made `t` of `s`: the pins follow, the waiting commands stay, and time does not run back. -/
def answer (s t : State) : State := drive { t with pending := s.pending, now := max s.now t.now }

/-- What a command does while the module works; in reset or without supply it does nothing (R421, R423). -/
def whenLive (s : State) (f : State → State) : State := if live s then answer s (f s) else s

/-! ### Cores, clusters and numbers -/

/-- Mesh position of a physical core (R22). -/
def coreX (c : Nat) : Nat := c % 12
def coreY (c : Nat) : Nat := c / 12

/-- The cluster of a physical core (R23). -/
def clusterOf (c : Nat) : Nat := 6 * (coreY c / 2) + coreX c / 2

/-- The physical cores of a cluster (R23). -/
def clusterCores (k : Nat) : List Nat :=
  let b := 24 * (k / 6) + 2 * (k % 6)
  [b, b + 1, b + 12, b + 13]

/-- The core is enabled by the part card's map (R21, R24). -/
def enabledCore (s : State) (c : Nat) : Bool := decide (c < 72) && s.card.coreMap.getLsbD c

def enabledCores (s : State) : List Nat := (List.range 72).filter (enabledCore s)

/-- The number N of enabled cores (R24). -/
def coreCount (s : State) : Nat := (enabledCores s).length

/-- The logical number of an enabled physical core (R24). -/
def logicalOf (s : State) (c : Nat) : Nat := ((List.range c).filter (enabledCore s)).length

/-- The physical core of a logical number (R24). -/
def physicalOf (s : State) (n : Nat) : Option Nat := (enabledCores s)[n]?

/-- A cluster with an enabled core (GLB_CLUSTERS, R30). -/
def clusterLive (s : State) (k : Nat) : Bool := (clusterCores k).any (enabledCore s)

/-- Idle code of a cluster: 0 active or gated, 1 I0, 2 I1, 3 waking from I1, 4 waking from I0 (PWR_CLUSTER_IDLE shows 3 for both). -/
def clusterIdle (s : State) (k : Nat) : Nat := tget 0 s.pwr.cluster k

/-- The cluster is in the lock set: not in I1 or waking from it (R35, R429). -/
def clusterInLock (s : State) (k : Nat) : Bool := decide (clusterIdle s k < 2) || decide (clusterIdle s k = 4)

/-- The cores of the lock set: enabled, in clusters that are not in I1 or waking from it (R34, R35). -/
def lockCores (s : State) : List Nat := (enabledCores s).filter (fun c => clusterInLock s (clusterOf c))

/-- The clusters of the lock set. -/
def lockClusters (s : State) : List Nat :=
  (List.range 18).filter (fun k => clusterLive s k && clusterInLock s k)

/-- The clusters in effect of a context (R322). -/
def ctxHasCluster (s : State) (k cl : Nat) : Bool := bit (ctxAt s k).clusters.eff cl

/-- The context whose partition holds a physical core (R322). -/
def ctxOfCore (s : State) (c : Nat) : Option Nat :=
  (List.range 16).find? (fun k => decide ((ctxAt s k).st ≠ .unbound) && ctxHasCluster s k (clusterOf c))

/-- The enabled cores of a context. -/
def ctxCores (s : State) (k : Nat) : List Nat := (enabledCores s).filter (fun c => ctxHasCluster s k (clusterOf c))

def runningCtxs (s : State) : List Nat := (List.range 16).filter (fun k => decide ((ctxAt s k).st = .running))

/-- RUNNING and not parked: its cores run frames (R427). -/
def workingCtxs (s : State) : List Nat := (runningCtxs s).filter (fun k => !(ctxAt s k).parked)

def loadedCtxs (s : State) : List Nat :=
  (List.range 16).filter (fun k => decide ((ctxAt s k).st = .running) || decide ((ctxAt s k).st = .loaded))

/-- The variant declaration in effect for a context. -/
def ctxVariant (s : State) (k : Nat) : Option Variant :=
  match (ctxAt s k).bolt with
  | some b => b.variants[s.tmp.variant.toNat]?
  | none => none

/-- The work window W of a context in effect, in ac. -/
def ctxW (s : State) (k : Nat) : Nat := match ctxVariant s k with | some v => v.work | none => 0

/-! ### Functions and hosts -/

/-- The port of a function: A for 0 to 8, B for 9 to 17 (R316). -/
def fnPortB (f : Nat) : Bool := decide (9 ≤ f)
def fnIsPf (f : Nat) : Bool := decide (f = 0) || decide (f = 9)

/-- The function number written as port and function (Table 11.15); above 8 names none. -/
def fnOfBind (port : Bool) (n : Nat) : Option Nat := if n ≤ 8 then some (n + if port then 9 else 0) else none

/-- The PF that the strap names, where the part card permits its port (R319). -/
def namedSteward (s : State) (f : Nat) : Bool := !s.glb.conflict && decide (f = if s.glb.stewardB then 9 else 0)

/-- The steward PF with blocks to act on: an unconfigured module decodes only GLB and BSC (R316, R319). -/
def stewardFn (s : State) : Option Nat :=
  if s.glb.conflict || s.glb.unconfigured then none else some (if s.glb.stewardB then 9 else 0)

def isSteward (s : State) (f : Nat) : Bool := decide (stewardFn s = some f)

/-- VALID of HQ_CTX_BIND in effect, and the function it names (R321). -/
def ctxFn (s : State) (k : Nat) : Option Nat :=
  let b := (ctxAt s k).bind.eff
  if bit b 31 then fnOfBind (bit b 8) (bits b 4 4) else none

/-- The context that a function holds (R321). -/
def fnCtx (s : State) (f : Nat) : Option Nat := (List.range 16).find? (fun k => decide (ctxFn s k = some f))

/-- Host memory behind a function's port. -/
def hostMem (s : State) (f : Nat) : Mem := if fnPortB f then s.hostB else s.hostA
def setHostMem (s : State) (f : Nat) (m : Mem) : State := if fnPortB f then { s with hostB := m } else { s with hostA := m }

/-! ### Time -/

/-- Wall time in whole sc. -/
def nowSc (s : State) : Nat := s.now / Config.unitsPerSc

/-- The ac period at a stretch level, in time units (Table 2.3: 600 − 15 k MHz). -/
def acUnits (level : Nat) : Nat := 160 * Config.unitsPerSc / (40 - level)

/-- The unstretched ac period, in time units. -/
def acUnits0 : Nat := 4 * Config.unitsPerSc

/-- The pulse period in RCLK cycles (TMP_PERIOD, rule n−1). -/
def periodRclk (s : State) : Nat := s.tmp.period.toNat % 2 ^ 20 + 1

/-- The pulse period in sc. -/
def periodSc (s : State) : Nat := periodRclk s * Config.scPerRclk

/-- Microseconds to sc. -/
def usSc (n : Nat) : Nat := 2400 * n

/-- TRC_AC of a hub (R31). -/
def trcAc (s : State) (k : Nat) : Nat := (tget {} s.hubs k).trcAc.toNat

/-- TRC_AC of the lock set: that of its first cluster. -/
def lockTrc (s : State) : Nat := match lockClusters s with | k :: _ => trcAc s k | [] => 0

/-- The module keeps a tempo count (R438). -/
def keepsCount (s : State) : Bool := bit s.tmp.ctrl 0 && s.tmp.haveCount

/-- The value last accepted of a word that waits for the next tempo edge (R47). -/
def laterOf (s : State) (k : LaterWord) : Option W32 := (s.later.find? (fun p => decide (p.1 = k))).map (·.2)

/-- A change is accepted: while a worked tempo runs its word waits for the next tempo edge, otherwise `f` makes it at once (R47). -/
def accept (s : State) (k : LaterWord) (v : W32) (f : State → W32 → State) : State :=
  if s.tmp.working then { s with later := s.later.filter (fun p => decide (p.1 ≠ k)) ++ [(k, v)] } else f s v

/-- TMP_STATUS.TEMPO_LOST holds. -/
def tempoLost (s : State) : Bool := s.tmp.lost

end Sys2Proof.Machine
end

