-- ==== Sys2Proof/Machine/Num.lean ====
section
/-! DEFINITION. Exact numbers, the operand formats, window words, rounding and conversion (03, R126, R127, R296). -/

namespace Sys2Proof.Machine

/-! ### Exact dyadic numbers -/

def Dy.zero : Dy := ⟨0, 0⟩
/-- The integer that a number is in units of 2^g, for g at or below its exponent. -/
def Dy.at_ (x : Dy) (g : Int) : Int := x.m * 2 ^ (x.e - g).toNat
def Dy.add (x y : Dy) : Dy := let g := min x.e y.e; ⟨x.at_ g + y.at_ g, g⟩
def Dy.neg (x : Dy) : Dy := ⟨-x.m, x.e⟩
def Dy.sub (x y : Dy) : Dy := x.add y.neg
def Dy.mul (x y : Dy) : Dy := ⟨x.m * y.m, x.e + y.e⟩
def Dy.lt (x y : Dy) : Bool := let g := min x.e y.e; decide (x.at_ g < y.at_ g)
def Dy.isZero (x : Dy) : Bool := decide (x.m = 0)
def Dy.abs (x : Dy) : Dy := ⟨x.m.natAbs, x.e⟩
def Dy.sum (l : List Dy) : Dy := l.foldl Dy.add Dy.zero
/-- 2^k. -/
def Dy.two (k : Int) : Dy := ⟨1, k⟩

/-- n / 2^k rounded to the nearest integer, ties to even. -/
def rhe (n : Int) (k : Nat) : Int :=
  let q := n / 2 ^ k
  let r := n % 2 ^ k
  if 2 * r < 2 ^ k then q else if 2 ^ k < 2 * r then q + 1 else if q % 2 = 0 then q else q + 1

/-- The number in units of 2^b, rounded once to nearest even (R89). -/
def Dy.round (x : Dy) (b : Int) : Int := if b ≤ x.e then x.at_ b else rhe x.m (b - x.e).toNat

/-- floor(log2 |x|) of a nonzero number. -/
def Dy.log2 (x : Dy) : Int := (Nat.log2 x.m.natAbs : Int) + x.e

/-! ### Operand formats (Table 3.1) -/

/-- A floating format: exponent bits, mantissa bits, bias. -/
structure FpFmt where
  ew : Nat
  mw : Nat
  bias : Int

def e4m3 : FpFmt := ⟨4, 3, 7⟩
def e5m2 : FpFmt := ⟨5, 2, 15⟩
def e2m1 : FpFmt := ⟨2, 1, 1⟩
def bf16 : FpFmt := ⟨8, 7, 127⟩
def fp16 : FpFmt := ⟨5, 10, 15⟩
def fp32 : FpFmt := ⟨8, 23, 127⟩

/-- The exact value of an encoding, subnormals included. -/
def FpFmt.value (f : FpFmt) (v : Nat) : Dy :=
  let s := v / 2 ^ (f.ew + f.mw) % 2
  let e := v / 2 ^ f.mw % 2 ^ f.ew
  let m := v % 2 ^ f.mw
  let mag : Dy := if e = 0 then ⟨m, 1 - f.bias - f.mw⟩ else ⟨m + 2 ^ f.mw, (e : Int) - f.bias - f.mw⟩
  if s = 1 then mag.neg else mag

def FpFmt.topExp (f : FpFmt) (v : Nat) : Bool := decide (v / 2 ^ f.mw % 2 ^ f.ew = 2 ^ f.ew - 1)

/-- The exact value of an element of a format code, without block scale; none where it is NaN or infinite (R83). -/
def elemValue (code v : Nat) : Option Dy :=
  match code with
  | 0 | 3 => if v % 128 = 127 then none else some (e4m3.value v)
  | 1 | 4 => if e5m2.topExp v then none else some (e5m2.value v)
  | 2 => some ⟨signed 8 v, 0⟩
  | 5 => some ⟨signed 8 v, -6⟩
  | 6 => some (e2m1.value v)
  | 7 => some ⟨signed 4 v, 0⟩
  | 8 => if bf16.topExp v then none else some (bf16.value v)
  | 9 => if fp16.topExp v then none else some (fp16.value v)
  | _ => none

/-- The precision m of a format code. -/
def fmtM (code : Nat) : Nat := match code with | 0 | 3 => 3 | 1 | 4 => 2 | 2 | 5 | 8 => 7 | 6 => 1 | 7 => 3 | 9 => 10 | _ => 0
def fmtScaled (code : Nat) : Bool := decide (3 ≤ code) && decide (code ≤ 7)
def fmtQuad (code : Nat) : Bool := decide (code = 8) || decide (code = 9)
def fmt4bit (code : Nat) : Bool := decide (code = 6) || decide (code = 7)
/-- Weights of a code exist; activations of a code exist (Table 3.1). -/
def wfmtOk (code : Nat) : Bool := decide (code ≤ 9)
def afmtOk (code : Nat) : Bool := decide (code ≤ 5) || fmtQuad code
def ofmtOk (code : Nat) : Bool := decide (code ∈ [0, 1, 2, 8, 9, 0xC, 0xF])

/-- An E8M0 block scale; none is NaN. -/
def scaleValue (b : Nat) : Option Dy := if b = 0xFF then none else some (Dy.two ((b : Int) - 127))

/-! ### The window word (R87) -/

def winOshift (w : W64) : Int := signed 8 (bits w 46 8)
def winOfmt (w : W64) : Nat := bits w 42 4
def winAfmt (w : W64) : Nat := bits w 38 4
def winWfmt (w : W64) : Nat := bits w 34 4
def winFla (w : W64) : Int := signed 10 (bits w 24 10)
def winFlw (w : W64) : Int := signed 10 (bits w 14 10)
def winBase (w : W64) : Int := signed 10 (bits w 4 10)

/-- The word meets R87 and the depth rule R90. -/
def winOk (w : W64) : Bool :=
  decide (bits w 54 10 = 0) && decide (bits w 0 4 = 0) && wfmtOk (winWfmt w) && afmtOk (winAfmt w) && ofmtOk (winOfmt w) &&
  (fmtQuad (winWfmt w) == fmtQuad (winAfmt w)) &&
  decide (winBase w - 64 ≤ winFlw w - fmtM (winWfmt w) + (winFla w - fmtM (winAfmt w)))

/-- An operand below its floor takes the value zero (R88). -/
def flush (x : Dy) (fl : Int) : Dy := if x.abs.lt (Dy.two fl) then Dy.zero else x

/-! ### Rounding into an output format (R99, R100) -/

/-- An output format: floating, or an integer of a width. -/
inductive OutFmt where
  | fp (f : FpFmt) (max : Dy)
  | int (bits : Nat)

def outE4m3 : OutFmt := .fp e4m3 ⟨448, 0⟩
def outE5m2 : OutFmt := .fp e5m2 ⟨57344, 0⟩
def outBf16 : OutFmt := .fp bf16 ⟨255, 120⟩
def outFp16 : OutFmt := .fp fp16 ⟨65504, 0⟩
def outFp32 : OutFmt := .fp fp32 ⟨16777215, 104⟩

/-- The output format of an OFMT code other than LONG (Table 3.6). -/
def outFmt (code : Nat) : OutFmt :=
  match code with
  | 0 => outE4m3 | 1 => outE5m2 | 2 => .int 8 | 8 => outBf16 | 9 => outFp16 | _ => .int 32

def outBytes (code : Nat) : Nat := match code with | 0 | 1 | 2 => 1 | 8 | 9 => 2 | 0xC => 4 | _ => 16

/-- Encode r × 2^q, r a magnitude below or at 2^(mw + 1), in a floating format. -/
def fpEncode (f : FpFmt) (neg : Bool) (r : Nat) (q : Int) : Nat :=
  let s := b2n neg * 2 ^ (f.ew + f.mw)
  if r < 2 ^ f.mw then s + r
  else
    let r' := if r = 2 ^ (f.mw + 1) then 2 ^ f.mw else r
    let q' := if r = 2 ^ (f.mw + 1) then q + 1 else q
    s + (q' + f.mw + f.bias).toNat * 2 ^ f.mw + (r' - 2 ^ f.mw)

/-- The encoding of a number and whether it saturated (R100); a zero takes +0. -/
def toOut (o : OutFmt) (x : Dy) : Nat × Bool :=
  if x.isZero then (0, false)
  else
    let neg := decide (x.m < 0)
    match o with
    | .int n =>
      let r := x.round 0
      let lo := -(2 ^ (n - 1) : Int)
      let hi := (2 ^ (n - 1) : Int) - 1
      if hi < r then (hi.toNat, true) else if r < lo then ((lo % 2 ^ n).toNat, true) else ((r % 2 ^ n).toNat, false)
    | .fp f mx =>
      let q := max x.log2 (1 - f.bias) - f.mw
      let r := (x.round q).natAbs
      if mx.lt ⟨r, q⟩ then (fpEncode f neg mx.m.natAbs mx.e, true)
      else (fpEncode f neg r q, false)

/-- Largest finite encodings: the maxima above are written with full mantissas, so encode them by their rounding. -/
def maxEnc (o : OutFmt) (neg : Bool) : Nat :=
  match o with
  | .int n => if neg then 2 ^ (n - 1) else 2 ^ (n - 1) - 1
  | .fp f mx => let q := mx.log2 - f.mw; fpEncode f neg (mx.round q).natAbs q

/-- Round into a format: encoding and saturation (R99, R100). -/
def convert (o : OutFmt) (x : Dy) : Nat × Bool :=
  let r := toOut o x
  if r.2 then (maxEnc o (decide (x.m < 0)), true) else r

/-! ### Real functions by fixed point: 400 fractional bits, far beyond what a rounding of 16-bit or 32-bit results needs -/

def fixP : Nat := 400
def fixOne : Int := 2 ^ fixP

/-- x^1/1 + x^3/3 + … of a fixed-point ratio: atanh. -/
def fixAtanh (x : Int) : Int :=
  let x2 := x * x / fixOne
  ((List.range 140).foldl (fun (a : Int × Int) k => (a.1 + a.2 / (2 * k + 1 : Int), a.2 * x2 / fixOne)) (0, x)).1

/-- ln 2. -/
def fixLn2 : Int := 2 * fixAtanh (fixOne / 3)

/-- e^y for 0 ≤ y < 1 in fixed point. -/
def fixExp (y : Int) : Int :=
  ((List.range 110).foldl (fun (a : Int × Int) k => (a.1 + a.2, a.2 * y / fixOne / (k + 1 : Int))) (0, fixOne)).1

/-- A dyadic number in fixed point, rounded down. -/
def toFix (x : Dy) : Int := if 0 ≤ x.e + fixP then x.m * 2 ^ (x.e + fixP).toNat else x.m / 2 ^ (-(x.e + fixP)).toNat
def ofFix (n : Int) : Dy := ⟨n, -(fixP : Int)⟩

/-- 2^x; beyond ±600 the result is out of every format's range and a bound stands for it. -/
def dyExp2 (x : Dy) : Dy :=
  if (Dy.mk 600 0).lt x then Dy.two 600
  else if x.lt ⟨-600, 0⟩ then Dy.two (-600)
  else
    let f := toFix x
    let n := f / fixOne
    let r := f % fixOne
    let y := fixExp (r * fixLn2 / fixOne)
    -- a fraction lost below the fixed point leaves the result above its lower bound
    let y := if toFix x = 0 ∧ !x.isZero then (if 0 < x.m then y + 1 else y - 1) else y
    ⟨y, n - fixP⟩

/-- ln x for x > 0, in fixed point. -/
def fixLn (x : Dy) : Int :=
  let k := x.log2
  let m := toFix ⟨x.m, x.e - k⟩
  k * fixLn2 + 2 * fixAtanh ((m - fixOne) * fixOne / (m + fixOne))

/-- log2 x for x > 0. -/
def dyLog2 (x : Dy) : Dy :=
  let k := x.log2
  let m := toFix ⟨x.m, x.e - k⟩
  if m = fixOne then ⟨k, 0⟩
  else ofFix (k * fixOne + 2 * fixAtanh ((m - fixOne) * fixOne / (m + fixOne)) * fixOne / fixLn2)

/-- tanh x for x ≠ 0. -/
def dyTanh (x : Dy) : Dy :=
  let a := x.abs
  let t : Dy :=
    if (Dy.mk 64 0).lt a then ofFix (fixOne - 2 ^ 250)
    else
      let e := dyExp2 (ofFix (2 * toFix a * fixOne / fixLn2))
      let f := toFix e
      ofFix ((f - fixOne) * fixOne / (f + fixOne))
  -- far below one the result lies within a hair of x itself
  let t := if a.lt (Dy.two (-60)) then Dy.sub a ⟨a.m, a.e - 100⟩ else t
  if x.m < 0 then t.neg else t

/-- A quotient with its sticky bit: rounds as the exact quotient does. -/
def dyRecip (x : Dy) : Dy :=
  let n : Int := 2 ^ (2 * fixP)
  let d : Int := x.m.natAbs
  let q := n / d
  let r : Int := 2 * q + (if n % d = 0 then 0 else 1)
  ⟨if x.m < 0 then -r else r, -(2 * fixP + 1 : Int) - x.e⟩

/-- 1 / √x for x > 0, with its sticky bit. -/
def dyRsqrt (x : Dy) : Dy :=
  let m : Nat := if x.e % 2 = 0 then x.m.natAbs else 2 * x.m.natAbs
  let e : Int := if x.e % 2 = 0 then x.e else x.e - 1
  let n := 2 ^ (2 * fixP)
  let q := Nat.sqrt (n / m)
  let r := 2 * q + (if q * q * m = n then 0 else 1)
  ⟨r, -(fixP + 1 : Int) - e / 2⟩

/-! ### Element operations (R126, R127, Table 4.13) -/

/-- A 16-bit lane of FMT 0x8 or 0x9: sign, value (none: NaN or infinity), encoding. -/
structure Lane16 where
  neg : Bool
  val : Option Dy
  enc : Nat

def ewFp (fmt : Nat) : FpFmt := if fmt = 8 then bf16 else fp16
def ewOut (fmt : Nat) : OutFmt := if fmt = 8 then outBf16 else outFp16
def lane16 (fmt v : Nat) : Lane16 := ⟨decide (32768 ≤ v), elemValue fmt v, v⟩

/-- What a lane's result does beside its encoding: operand faults and saturations. -/
structure LaneRes where
  enc : Nat
  fault : Bool := false
  sat : Bool := false

def signBit (neg : Bool) : Nat := b2n neg * 32768

/-- A rounded result, zero with the sign given where it is exactly zero, and with the result's sign where it rounds to zero. -/
def laneOf (fmt : Nat) (x : Dy) (zeroNeg : Bool) : LaneRes :=
  if x.isZero then { enc := signBit zeroNeg }
  else
    let r := convert (ewOut fmt) x
    { enc := if r.1 % 32768 = 0 then signBit (decide (x.m < 0)) else r.1, sat := r.2 }

def laneMaxFinite (fmt : Nat) (neg : Bool) : LaneRes := { enc := maxEnc (ewOut fmt) neg, sat := true }

def laneFault : LaneRes := { enc := 0, fault := true }

/-- a is the smaller: −0 is smaller than +0 (Table 4.13). -/
def laneLess (a b : Lane16) (x y : Dy) : Bool := x.lt y || (x.isZero && y.isZero && a.neg && !b.neg)

/-- Two-operand lane operations 0x00 to 0x04 (also SCALE and OFFSET, whose second operand is IMM). -/
def laneBinary (fmt op : Nat) (a b : Lane16) : LaneRes :=
  match a.val, b.val with
  | some x, some y =>
    match op with
    | 0 => laneOf fmt (x.add y) (x.isZero && y.isZero && a.neg && b.neg)
    | 1 => laneOf fmt (x.sub y) (x.isZero && y.isZero && a.neg && !b.neg)
    | 2 => laneOf fmt (x.mul y) (a.neg != b.neg)
    | 3 => { enc := if laneLess a b x y then b.enc else a.enc }
    | _ => { enc := if laneLess b a y x then b.enc else a.enc }
  | _, _ => laneFault

/-- One-operand lane operations 0x08 to 0x0C. -/
def laneUnary (fmt op : Nat) (a : Lane16) : LaneRes :=
  match a.val with
  | none => laneFault
  | some x =>
    match op with
    | 8 => laneOf fmt (if x.isZero then ⟨1, 0⟩ else dyExp2 x) false
    | 9 => if x.isZero then laneMaxFinite fmt true else if x.m < 0 then laneFault else laneOf fmt (dyLog2 x) false
    | 0xA => if x.isZero then laneMaxFinite fmt a.neg else laneOf fmt (dyRecip x) false
    | 0xB =>
      if x.isZero then (if a.neg then { enc := (Config.rsqrtNegZero fmt).toNat } else laneMaxFinite fmt false)
      else if x.m < 0 then laneFault else laneOf fmt (dyRsqrt x) false
    | _ => laneOf fmt (if x.isZero then x else dyTanh x) (a.neg && Config.negZeroSign 0xC)

end Sys2Proof.Machine
end

