-- ==== Sys2Proof/Machine/Crypto.lean ====
section
/-! DEFINITION. The check codes and the cryptography that the manual names: the line CRC of R152, the CRC-32C of R179, SHA-256,
and RSASSA-PSS verification of RSA-3072 signatures with SHA-256, MGF1 and a 32 B salt (R396, R403). The published
standards give their definitions. -/

namespace Sys2Proof.Machine

/-! ### Cyclic redundancy checks -/

/-- One bit of a CRC-16 with polynomial 0x1021, not reflected. -/
def crc16Bit (c : W16) : W16 := if c.getLsbD 15 then (c <<< 1) ^^^ 0x1021 else c <<< 1

def crc16Byte (c : W16) (b : Byte) : W16 := (List.range 8).foldl (fun c _ => crc16Bit c) (c ^^^ (b.setWidth 16 <<< 8))

/-- The CRC of a line's 64 bytes in address order (R152). -/
def lineCrc (bs : List Byte) : W16 := bs.foldl crc16Byte 0xFFFF

/-- One bit of a reflected CRC-32 with a polynomial in reflected form. -/
def crc32Bit (poly c : W32) : W32 := if c.getLsbD 0 then (c >>> 1) ^^^ poly else c >>> 1

def crc32Byte (poly c : W32) (b : Byte) : W32 := (List.range 8).foldl (fun c _ => crc32Bit poly c) (c ^^^ b.setWidth 32)

def crc32With (poly : W32) (bs : List Byte) : W32 := ~~~(bs.foldl (crc32Byte poly) 0xFFFFFFFF)

/-- CRC-32C over bytes in address order: 0x1EDC_6F41 (R179). -/
def crc32c (bs : List Byte) : W32 := crc32With 0x82F63B78 bs

/-- The IEEE 802.3 CRC-32 of a fabric flit: 0x04C1_1DB7 (R241). -/
def crc32 (bs : List Byte) : W32 := crc32With 0xEDB88320 bs

/-! ### SHA-256

Its constants are the first 32 fraction bits of square and cube roots of the first primes. -/

/-- The big-endian number of bytes. -/
def beNat (bs : List Byte) : Nat := bs.foldl (fun a b => 256 * a + b.toNat) 0

/-- The `n` big-endian bytes of a number. -/
def beBytes (n v : Nat) : List Byte := (leBytes n v).reverse

/-- The first 64 primes. -/
def primes64 : List Nat := (List.range 312).filter (fun n => decide (2 ≤ n) && (List.range n).all (fun d => decide (d < 2) || decide (n % d ≠ 0)))

/-- The k-th root of a number below 2^(36k), rounded down, found bit by bit from the top. -/
def rootDown (k n : Nat) : Nat := (List.range 36).foldr (fun i r => if (r + 2 ^ i) ^ k ≤ n then r + 2 ^ i else r) 0

/-- 32 fraction bits of the k-th root of a prime. -/
def rootBits (k p : Nat) : W32 := BitVec.ofNat 32 (rootDown k (p * 2 ^ (32 * k)))

/-- One constant per round. -/
def roundConstants : List W32 := primes64.map (rootBits 3)

/-- The exclusive or of a word's rotations. -/
def rotations (rs : List Nat) (x : W32) : W32 := rs.foldl (fun v r => v ^^^ x.rotateRight r) 0

/-- The running hash in a block: its eight words, and the next sixteen words of the message schedule. -/
structure ShaRun where
  hash : List W32
  sched : List W32

/-- One round consumes the schedule's first word and appends the word sixteen places on. -/
def shaStep (r : ShaRun) (k : W32) : ShaRun :=
  let v (i : Nat) : W32 := r.hash.getD i 0
  let m (i : Nat) : W32 := r.sched.getD i 0
  let pick := (v 4 &&& v 5) ||| (~~~(v 4) &&& v 6)
  let vote := (v 0 &&& (v 1 ||| v 2)) ||| (v 1 &&& v 2)
  let add := v 7 + rotations [6, 11, 25] (v 4) + pick + k + m 0
  let next := m 0 + (rotations [7, 18] (m 1) ^^^ m 1 >>> 3) + m 9 + (rotations [17, 19] (m 14) ^^^ m 14 >>> 10)
  ⟨(rotations [2, 13, 22] (v 0) + vote + add) :: r.hash.take 3 ++ (v 3 + add) :: (r.hash.drop 4).take 3, r.sched.drop 1 ++ [next]⟩

/-- A 64-byte block enters the hash. -/
def shaAbsorb (hash : List W32) (block : List Byte) : List W32 :=
  let sched := (List.range 16).map (fun i => BitVec.ofNat 32 (beNat (slice block (4 * i) 4)))
  List.zipWith (· + ·) hash (roundConstants.foldl shaStep ⟨hash, sched⟩).hash

/-- A message with its padding: a set bit, zeros, and its length in bits in the last 8 bytes of a block. -/
def shaPad (m : List Byte) : List Byte :=
  let blocks := (m.length + 72) / 64
  m ++ 0x80 :: List.replicate (64 * blocks - m.length - 9) 0 ++ beBytes 8 (8 * m.length)

/-- SHA-256 as its 32 bytes. -/
def sha256 (m : List Byte) : List Byte :=
  let p := shaPad m
  let hash := (List.range (p.length / 64)).foldl (fun h i => shaAbsorb h (slice p (64 * i) 64)) ((primes64.take 8).map (rootBits 2))
  hash.flatMap (fun w => beBytes 4 w.toNat)

/-- A digest as a number, byte 0 lowest (R11, BSC_FW_DIGEST). -/
def digestOf (m : List Byte) : BitVec 256 := BitVec.ofNat 256 (leNat (sha256 m))

/-! ### RSASSA-PSS -/

/-- MGF1 with SHA-256. -/
def mgf1 (seed : List Byte) (n : Nat) : List Byte :=
  ((List.range (n / 32 + 1)).flatMap (fun i => sha256 (seed ++ beBytes 4 i))).take n

/-- x^65537 mod n. -/
def powE (x n : Nat) : Nat := (List.range 16).foldl (fun a _ => a * a % n) (x % n) * x % n

/-- EMSA-PSS verification with SHA-256 and a 32 B salt, emBits 3,071. -/
def pssCheck (msg em : List Byte) : Bool :=
  let masked := em.take 351
  let h := (em.drop 351).take 32
  let db := List.zipWith (· ^^^ ·) masked (mgf1 h 351)
  let db := match db with | b :: r => (b &&& 0x7F) :: r | [] => []
  let salt := db.drop 319
  decide (em.getLast? = some 0xBC) && decide ((em.headD 0).toNat < 128) &&
  (db.take 318).all (fun b => decide (b = 0)) && decide (db.getD 318 0 = 1) &&
  decide (sha256 (List.replicate 8 0 ++ sha256 msg ++ salt) = h)

/-- The signature `sig` (a little-endian integer) verifies `msg` under the RSA-3072 key (R403, R405). -/
def rsaVerify (modulus : BitVec 3072) (msg : List Byte) (sig : Nat) : Bool :=
  decide (sig < modulus.toNat) && pssCheck msg (beBytes 384 (powE sig modulus.toNat))

/-- The 388 bytes that a key's digest covers (R405). -/
def keyBytes (k : PubKey) : List Byte := leBytes 384 k.modulus.toNat ++ leBytes 4 k.exponent.toNat

/-- A key's digest (R405). -/
def keyDigest (k : PubKey) : BitVec 256 := digestOf (keyBytes k)

/-- The leaf digests of signed content (R403): leaves of 4 KiB, the last holding what remains. -/
def leafHashes : Nat → List Byte → List Byte
  | 0, _ => []
  | n + 1, bs => if bs = [] then [] else sha256 (bs.take 4096) ++ leafHashes n (bs.drop 4096)

/-- The signed message M of a signature block and its content (R403). -/
def signedMessage (block content : List Byte) : List Byte :=
  block.take 128 ++ leafHashes (content.length / 4096 + 1) content

/-- What a load's signature block must match (R404). -/
structure SigWant where
  kind : Nat
  len : Nat
  patchId : Nat
  patchGen : Nat
  key : BitVec 256

/-- The fields of a signature block are right (Table 14.4, R404). -/
def sigBlockOk (w : SigWant) (block : List Byte) : Bool :=
  let f := sliceNat block
  decide (f 0 4 = 0x53473341) && decide (f 4 1 = w.kind) && decide (f 5 3 = 0) && decide (f 8 8 = w.len) &&
  decide (f 16 2 = w.patchId) && decide (f 18 2 = w.patchGen) && decide (f 20 12 = 0) &&
  decide (f 64 32 = w.key.toNat) && decide (f 96 32 = 0)

/-- The verifier accepts a load (R404). -/
def loadVerifies (w : SigWant) (k : PubKey) (block content : List Byte) : Bool :=
  sigBlockOk w block && rsaVerify k.modulus (signedMessage block content) (sliceNat block 128 384)

/-! ### DER, for the device CA certificate (R396) -/

/-- The tag, content and rest of the DER element at the front of a byte list. -/
def derTake (bs : List Byte) : Nat × List Byte × List Byte :=
  match bs with
  | t :: l :: r =>
    if l.toNat < 128 then (t.toNat, r.take l.toNat, r.drop l.toNat)
    else
      let k := l.toNat - 128
      let n := beNat (r.take k)
      (t.toNat, (r.drop k).take n, (r.drop k).drop n)
  | _ => (0, [], [])

def derBody (bs : List Byte) : List Byte := (derTake bs).2.1
def derRest (bs : List Byte) : List Byte := (derTake bs).2.2

/-- The RSA public key of an X.509 certificate: the sixth element of its to-be-signed part after the optional version. -/
def certKey (cert : List Byte) : PubKey :=
  let tbs := derBody (derBody cert)
  let tbs := if (derTake tbs).1 = 0xA0 then derRest tbs else tbs
  let spki := derBody (derRest (derRest (derRest (derRest (derRest tbs)))))
  let key := derBody ((derBody (derRest spki)).drop 1)
  ⟨BitVec.ofNat 3072 (beNat (derBody key)), BitVec.ofNat 32 (beNat (derBody (derRest key)))⟩

end Sys2Proof.Machine
end

