-- ==== Sys2Proof/Machine/Events.lean ====
section
/-! DEFINITION. What the module writes to its hosts beside data: event records, completions, MSI-X vectors, choice records and
trace records (R318, R327, R330, R337, R387). -/

namespace Sys2Proof.Machine

/-- The tempo count where one is kept, else zero (R78, R438). -/
def countNow (s : State) : W64 := if keepsCount s then s.tmp.count else 0

/-- A ring's vector becomes due (R318). -/
def msixDue (s : State) (f v : Nat) : State := updFn s f (fun x => { x with msix := orBit x.msix v })

/-! ### Event rings (R330) -/

def evtEnabled (x : Fn) : Bool := bit x.evtCfg 31
def evtSize (x : Fn) : Nat := 2 ^ bits x.evtCfg 0 4
def evtFull (x : Fn) : Bool := decide ((x.evtTail + 1) % evtSize x = x.evtHead)

/-- A 32 B record of an event ring without its PHASE (Table 11.10). -/
def eventRec (count : W64) (kind ctx tag arg0 : Nat) (arg1 : W64) : BitVec 256 :=
  BitVec.ofNat 256 (count.toNat + kind % 256 * 2 ^ 64 + ctx % 16 * 2 ^ 72 + tag % 65536 * 2 ^ 80 +
    arg0 % 2 ^ 32 * 2 ^ 96 + arg1.toNat * 2 ^ 128)

/-- Write a record at the tail of a function's event ring, with its PHASE, and make the vector due. -/
def evtWrite (s : State) (f : Nat) (r : BitVec 256) : State :=
  let x := fnAt s f
  let base := (join64 x.evtHi x.evtLo).toNat
  let s := setHostMem s f (writeLe (hostMem s f) (base + 32 * x.evtTail) 32 (setBits r 231 1 (b2n x.evtPhase)).toNat)
  let next := (x.evtTail + 1) % evtSize x
  let s := updFn s f (fun x => { x with evtTail := next, evtPhase := if next = 0 then !x.evtPhase else x.evtPhase })
  msixDue s f (bits x.evtCfg 16 6)

/-- Post to one function: written, or held while the ring is full or disabled (at most 64), or dropped and counted (R330). -/
def postTo (s : State) (f : Nat) (r : BitVec 256) : State :=
  let x := fnAt s f
  if evtEnabled x && !evtFull x && decide (x.evtHeld = []) then evtWrite s f r
  else if x.evtHeld.length < 64 then updFn s f (fun x => { x with evtHeld := x.evtHeld ++ [r] })
  else updFn s f (fun x => { x with evtLost := satAdd x.evtLost 1 })

/-- Write held events while there is room; `n` bounds the count. -/
def evtDrain : Nat → State → Nat → State
  | 0, s, _ => s
  | n + 1, s, f =>
    let x := fnAt s f
    match x.evtHeld with
    | r :: rest =>
      if evtEnabled x && !evtFull x then evtDrain n (evtWrite (updFn s f (fun x => { x with evtHeld := rest })) f r) f else s
    | [] => s

/-- Post an event that concerns the module to the steward PF (R330). -/
def postSteward (s : State) (kind ctx tag arg0 : Nat) (arg1 : W64) : State :=
  match stewardFn s with
  | some f => postTo s f (eventRec (countNow s) kind ctx tag arg0 arg1)
  | none => s

/-- Post an event of a context to its function and to the steward PF; one record where they are the same (R368). -/
def postBoth (s : State) (k kind arg0 : Nat) (arg1 : W64) : State :=
  let r := eventRec (countNow s) kind k 0 arg0 arg1
  let s1 := match ctxFn s k with | some f => postTo s f r | none => s
  match stewardFn s with
  | some f => if ctxFn s k = some f then s1 else postTo s1 f r
  | none => s1

/-! ### Trace (R337) -/

/-- A trace record of a selected kind goes to the trace ring of the port-B PF, or is dropped and counted when the ring is full. -/
def trace (s : State) (kind src a : Nat) (b : W64) : State :=
  if s.glb.traceActive && bit s.glb.traceCtrl (8 + (kind - 1)) then
    let x := fnAt s 9
    let seq := s.glb.traceSeq
    let s := updGlb s (fun g => { g with traceSeq := g.traceSeq + 1 })
    if evtEnabled x && !evtFull x then
      evtWrite s 9 (BitVec.ofNat 256 ((countNow s).toNat + kind * 2 ^ 64 + src % 256 * 2 ^ 72 + a % 2 ^ 32 * 2 ^ 96 +
        b.toNat * 2 ^ 128 + seq.toNat * 2 ^ 192))
    else updGlb s (fun g => { g with traceLost := satAdd g.traceLost 1 })
  else s

/-! ### Choice records (R387) -/

/-- Count a timing-dependent choice and, when the ring is on, record it. -/
def choice (s : State) (kind ctx unit a : Nat) (b : W64) : State :=
  let s := updSaf s (fun x => { x with
    choiceTotal := x.choiceTotal + 1, choiceKind := tupd 0 x.choiceKind kind (fun w => satAdd w 1) })
  match s.saf.choiceOn, stewardFn s with
  | true, some f =>
    let x := s.saf
    let r := (countNow s).toNat + kind * 2 ^ 64 + ctx % 16 * 2 ^ 72 + unit % 65536 * 2 ^ 80 + a % 2 ^ 32 * 2 ^ 96 +
      b.toNat * 2 ^ 128 + x.choiceSeq.toNat * 2 ^ 192 + b2n x.choicePhase * 2 ^ 231
    let s := setHostMem s f (writeLe (hostMem s f) (x.choiceBase.toNat + 32 * x.choicePos) 32 r)
    let next := (x.choicePos + 1) % 2 ^ x.choiceLog2
    let wrapped := decide (2 ^ x.choiceLog2 ≤ x.choiceSeq.toNat) || !x.choicePhase
    let s := updSaf s (fun x => { x with
      choicePos := next, choiceSeq := x.choiceSeq + 1, choicePhase := if next = 0 then !x.choicePhase else x.choicePhase })
    if wrapped then setSafStatus s 7 else s
  | _, _ => s

/-! ### Completions (R326, R327) -/

def qpAt (x : Fn) (q : Nat) : QPair := tget {} x.qp q
def updQp (s : State) (f q : Nat) (g : QPair → QPair) : State := updFn s f (fun x => { x with qp := tupd {} x.qp q g })

def qpEnabled (p : QPair) : Bool := bit p.qcfg 31
def sqSize (p : QPair) : Nat := 2 ^ bits p.qcfg 0 4
def cqSize (p : QPair) : Nat := 2 ^ bits p.qcfg 4 4

/-- A queue pair whose ring has drained after its disable returns its indices to 0 (R339). -/
def qpSettle (p : QPair) : QPair :=
  if !qpEnabled p && decide (p.open_ = 0) then { p with sqHead := 0, sqTail := 0, cqHead := 0, cqTail := 0, phase := true } else p

/-- Write a completion entry (Table 11.8), make the vector due unless NOIRQ, and release the reserved place. -/
def complete (s : State) (f q : Nat) (cid : W16) (noirq : Bool) (status result : Nat) (count : W64) : State :=
  let p := qpAt (fnAt s f) q
  let r := cid.toNat + status % 256 * 2 ^ 16 + q % 4 * 2 ^ 24 + b2n p.phase * 2 ^ 31 + result % 2 ^ 32 * 2 ^ 32 + count.toNat * 2 ^ 64
  let s := setHostMem s f (writeLe (hostMem s f) ((join64 p.cqHi p.cqLo).toNat + 32 * p.cqTail) 32 r)
  let next := (p.cqTail + 1) % cqSize p
  let s := updQp s f q (fun p => qpSettle { p with cqTail := next, phase := (if next = 0 then !p.phase else p.phase), open_ := p.open_ - 1 })
  if noirq then s else msixDue s f (bits p.qcfg 16 6)

end Sys2Proof.Machine
end

