-- ==== Sys2Proof/Machine/Faults.lean ====
section
/-! DEFINITION. Raising a fault (R367, R370, R373, Table 13.1) and entering tempo lost (R45), each as one shared operation. -/

namespace Sys2Proof.Machine

/-! ### Ports as control frames need them -/

/-- OPPOSITION in effect (R253). -/
def portOpp (x : Port) : Bool := bit x.ctrl.eff 2

/-- The port is up: trained, opened, enabled, not miswired, not in opposition (R255). -/
def portIsUp (x : Port) : Bool := decide (x.st = 4) && bit x.ctrl.eff 1 && !portOpp x

/-- The ports that carry HL3 control frames and are up. -/
def hl3UpPorts (s : State) : List Nat := (List.range 16).filter (fun p => portIsUp (portAt s p) && decide ((portAt s p).gen = 3))

/-- The ports trained at HL3 that carry markers (R48, R253): up, or port 15 in opposition; not in I2 (R431). -/
def markerPorts (s : State) : List Nat :=
  (List.range 16).filter (fun p =>
    let x := portAt s p
    (portIsUp x || (portOpp x && decide (2 ≤ x.st) && decide (x.st ≤ 4))) && decide (x.gen = 3) && decide (x.idle = 0))

/-- Queue a control frame at a port's egress (Table 9.3, R266). -/
def sendControl (s : State) (p : Nat) (typ : Nat) (payload : Nat) : State :=
  updPort s p (fun x => { x with control := x.control ++ [⟨BitVec.ofNat 4 typ, 0, 0, 0, BitVec.ofNat 2048 payload⟩] })

def sendControlAll (s : State) (ps : List Nat) (typ payload : Nat) : State :=
  forAll ps s (fun s p => sendControl s p typ payload)

/-- This module's chip ID in effect (R254). -/
def ownChip (s : State) : Nat := bits s.fab.chipId.eff 0 12

/-- The job tag of a context, where FAB_JOB is valid (R261). -/
def jobTag (s : State) (k : Nat) : Option Nat :=
  let w := (tget {} s.fab.job k).eff
  if bit w 16 then some (bits w 0 16) else none

/-- The VERDICT payload (Table 13.4). -/
def verdictPayload (count : W64) (sender tag : Nat) : Nat :=
  count.toNat + 3 * 2 ^ 64 + (sender % 65536 * 65536 + tag % 65536) * 2 ^ 96

/-- Send a verdict for a context's tag and a count on every up HL3 port (R370). -/
def sendVerdict (s : State) (tag : Nat) (count : W64) : State :=
  let s := updFab s (fun f => { f with verdicts := (BitVec.ofNat 16 tag, count) :: f.verdicts })
  sendControlAll s (hl3UpPorts s) 0xA (verdictPayload count (ownChip s) tag)

/-! ### Faults -/

/-- The worked tempos a fault detected now is attributed to: the ended one until its commit point, and the one in progress (R367). -/
def attributed (s : State) : List W64 :=
  (if s.tmp.commitDue then [s.tmp.lastT] else []) ++ (if s.tmp.working then [s.tmp.t] else [])

/-- Those of a list of worked tempos that a context may have run: not the ended one where it did not run it. -/
def ctxCounts (s : State) (k : Nat) (counts : List W64) : List W64 :=
  counts.filter (fun t => !(s.tmp.commitDue && decide (t = s.tmp.lastT) && !(ctxAt s k).ranEnded))

/-- Every context of the module that runs, or ran, an attributed worked tempo (R367, scope module). -/
def moduleScope (s : State) : List Nat :=
  (List.range 16).filter (fun k => decide ((ctxAt s k).st = .running) || (ctxAt s k).ranNow ||
    (s.tmp.commitDue && (ctxAt s k).ranEnded))

/-- Mark the worked tempos of a context withheld by a source under a code. -/
def markCtx (s : State) (k : Nat) (counts : List W64) (src : Nat) (code : Nat) : State :=
  updCtx s k (fun c => { c with marks := c.marks ++ (ctxCounts s k counts).map (fun t => (t, src, BitVec.ofNat 8 code)) })

/-- The bit of SAF_STATUS that a code sets beside FAULT (Table 13.6). -/
def safBitOf (code : Nat) : Option Nat :=
  if code = 0x20 then some 4 else if code = 0x21 then some 5 else if code = 0x22 then some 2
  else if code = 0x23 then some 6 else if code = 0x24 then some 3 else if code = 0x27 then some 9 else none

/-- The detail word (R373). -/
def detailWord (srcKind srcIdx ctx low : Nat) : W64 :=
  BitVec.ofNat 64 (low % 2 ^ 44 + ctx % 16 * 2 ^ 44 + srcIdx % 256 * 2 ^ 48 + srcKind % 4 * 2 ^ 62)

def ctxMask (ks : List Nat) : W16 := ks.foldl (fun w k => orBit w k) 0

/-- sc from the last tempo edge to now, saturating at 32 bits (SAF_FLOG_TIME). -/
def sinceEdge (s : State) : W32 := BitVec.ofNat 32 (min ((s.now - s.tmp.edgeAt) / Config.unitsPerSc) (2 ^ 32 - 1))

/-- The fault log takes an entry, the oldest overwritten (R389), and firmware has it to handle (R357). -/
def logFault (s : State) (e : FlogEnt) : State :=
  updSaf s (fun x => { x with
    flog := tset {} x.flog x.flogNext e, flogNext := (x.flogNext + 1) % 64,
    flogWrapped := x.flogWrapped || decide (x.flogNext = 63), faults := satAdd x.faults 1, reports := x.reports ++ [e] })

/-- Raise a fault that withholds the worked tempos `counts` of the contexts `scope` (R367, R370, R373). -/
def raiseAt (s : State) (code : Nat) (scope : List Nat) (counts : List W64) (srcKind srcIdx ctx low : Nat) : State :=
  let detail := detailWord srcKind srcIdx ctx low
  let s := logFault s ⟨true, BitVec.ofNat 8 code, ctxMask scope, detail, countNow s, sinceEdge s⟩
  let s := setSafStatus s 0
  let s := match safBitOf code with | some b => setSafStatus s b | none => s
  let s := forAll scope s (fun s k => markCtx s k counts (srcKind * 256 + srcIdx) code)
  let s := trace s 2 (if srcKind = 0 then srcIdx else 0xFF) code detail
  if bit s.saf.ctrl 0 && decide (code ≠ 0x22) then
    forAll scope s (fun s k => match jobTag s k with
      | some tag => forAll (ctxCounts s k counts) s (fun s t => sendVerdict s tag t)
      | none => s)
  else s

/-- Raise a fault attributed as R367 states. -/
def raise (s : State) (code : Nat) (scope : List Nat) (srcKind srcIdx ctx low : Nat) : State :=
  raiseAt s code scope (attributed s) srcKind srcIdx ctx low

/-- Raise a fault of scope module, its source the module. -/
def raiseModule (s : State) (code low : Nat) : State := raise s code (moduleScope s) 3 0 0 low

/-- Raise a fault of scope context whose source is an enabled core (R373: the source index is the logical number). -/
def raiseCore (s : State) (c : Nat) (code low : Nat) : State :=
  let k := ctxOfCore s c
  raise s code k.toList 0 (logicalOf s c) (k.getD 0) low

/-- Enter tempo lost: withhold the worked tempo in progress, start no further one, void a pending resume, set TEMPO_LOST and the
cause bit, tell the steward (R45, R330). -/
def enterLost (s : State) (causes : List Nat) : State :=
  let s1 := forAll (11 :: causes) s setTmpStatus
  let s1 := if s1.tmp.working then forAll (moduleScope s1) s1 (fun s k => markCtx s k [s.tmp.t] 768 0) else s1
  let s1 := updTmp s1 (fun t => { t with lost := true, resumeAt := none })
  if s.tmp.lost then s1 else postSteward s1 3 0 0 0 0

/-- A fault of scope module that leads to tempo lost, with its cause bit (Table 2.9). -/
def lostFault (s : State) (cause code srcKind srcIdx low : Nat) : State :=
  enterLost (raise s code (moduleScope s) srcKind srcIdx 0 low) [cause]

end Sys2Proof.Machine
end

