-- ==== Sys2Proof/Machine/Store.lean ====
section
/-! DEFINITION. The core store: lines with their CRC and fences, sync objects, the gather buffer, circular regions, and the slips
and deviations that a core causes (05, R52, R75). -/

namespace Sys2Proof.Machine

/-! ### Slips and deviations -/

/-- A schedule deviation of a core, by its case in the list of R75. -/
def deviate (s : State) (c kind : Nat) : State := updTmp s (fun t => { t with devs := t.devs ++ [(c, kind)] })

/-- The lock set slips `n` ungated ac, charged to core `c` (R52, R53): wall time passes and TRC does not. -/
def slipAc (s : State) (c n : Nat) : State :=
  let d := n * acUnits s.lock.level
  let s := updCore s c (fun x => { x with slip := x.slip + d })
  let s := updLock s (fun l => { l with slip := l.slip + d })
  { s with now := s.now + d }

/-! ### Core control words -/

/-- The Reset column of a control word (Tables 4.17 and 5.10). -/
def cwDefault (off : Nat) : W32 := if off = 0x48 then 1 else if off = 0x200 then 0x10000000 else 0

/-- A control word in effect. -/
def cwEffAt (x : Core) (off : Nat) : W32 := tget (cwDefault off) x.cwEff off
/-- A control word as last accepted (R47). -/
def cwAt (x : Core) (off : Nat) : W32 := tget (cwDefault off) x.cw off
def setCw (x : Core) (off : Nat) (v : W32) : Core := { x with cw := tset (cwDefault off) x.cw off v }
def setCwEff (x : Core) (off : Nat) (v : W32) : Core := { x with cwEff := tset (cwDefault off) x.cwEff off v }

/-! ### Sync objects (R154 to R156) -/

def syncAt (x : Core) (o : Nat) : SyncObj := tget {} x.syncs o
def setSync (x : Core) (o : Nat) (v : SyncObj) : Core := { x with syncs := tset {} x.syncs o v }

def isFlag (o : Nat) : Bool := decide (o < 0x80)
def isCounter (o : Nat) : Bool := decide (0x80 ≤ o) && decide (o < 0xC0)
def isArrival (o : Nat) : Bool := decide (0xC0 ≤ o) && decide (o < 0x100)

/-- STORE_FAULT gains a bit (Table 5.10). -/
def setStoreFault (s : State) (c i : Nat) : State := updCore s c (fun x => { x with storeFault := orBit x.storeFault i })

/-- A sync fault on an object (R156, 0x0B). -/
def syncFault (s : State) (c o : Nat) : State := raiseCore (setStoreFault s c 4) c 0x0B (o * 2 ^ 36)

/-- The release counter of an enabled region (R161). -/
def boundRelease (x : Core) (o : Nat) : Bool :=
  (List.range 16).any (fun r => (tget {} x.rings r).enabled && decide (bits (cwEffAt x (0x408 + 16 * r)) 0 8 = o))

/-- The running value of an object under one effect; a signal on a bound release counter wraps (R162). -/
def effVal (free : Bool) (a : Int) : SyncEff → Int
  | .signal 1 => 1
  | .signal 2 => 0
  | .signal 3 => if free then (a + 1) % 2 ^ 32 else a + 1
  | .signal 4 => if free then (a - 1) % 2 ^ 32 else a - 1
  | .signal _ => a
  | .add n => a + n
  | .arrival => a + 1
  | .value v => v.toNat
  | .threshold _ => a

def effThr (t : W32) : SyncEff → W32
  | .threshold v => v
  | _ => t

/-- A parity error that core `c` meets at a read of entry `e` of row `n` of Table 13.2 (R374). -/
def parityCore (s : State) (c n e : Nat) : State := raiseCore s c 0x11 (n * 2 ^ 40 + e % 2 ^ 16 * 2 ^ 24)

/-- The effects of one ac on one object, in the order of R116: their sum is applied once; out of range the value stays and a sync fault is
raised (R156, Table 5.5). -/
def applyEffs (s : State) (c o : Nat) (es : List SyncEff) : State :=
  let x := coreAt s c
  if x.badSync.contains o then parityCore s c 5 o
  else
  let v := es.foldl (effVal (boundRelease x o)) ((syncAt x o).val.toNat : Int)
  let ok := decide (0 ≤ v) && decide (v < 2 ^ 32)
  let s := setCore s c (setSync x o ⟨if ok then BitVec.ofInt 32 v else (syncAt x o).val, es.foldl effThr (syncAt x o).thr⟩)
  if ok then s else syncFault s c o

/-- A signal operation (Table 4.5) that takes effect at once. -/
def signal (s : State) (c sop sobj : Nat) : State :=
  if sop = 0 ∨ 4 < sop then s else applyEffs s c sobj [.signal sop]

/-- Release `n` slots of a region: as many signals 0x3 on its release counter (R162). -/
def addSync (s : State) (c o n : Nat) : State := applyEffs s c o (List.replicate n (.signal 3))

/-! ### Arrivals and statuses (R155, R260, R262) -/

/-- A status owed to the source of a write, by the core at which it ends. -/
def oweStatus (s : State) (c : Nat) (r : Reply) (st : BitVec 4) : State :=
  match r with
  | some (a, m) => updFab s (fun f => { f with due := f.due ++ [⟨a, m, st, if c < 72 then logicalOf s c else 0xFF⟩] })
  | none => s

/-- An arrival waits for the arrival step of its core. -/
def queueArrival (s : State) (c : Nat) (o : Byte) (r : Reply) : State := updCore s c (fun x => { x with arrivals := x.arrivals ++ [⟨o, r⟩] })

/-- A write has ended: its arrival waits for the arrival step, and its status for that; without an arrival the status is owed at once. -/
def arriveThen (s : State) (c : Nat) (a : Option (Nat × Byte)) (r : Reply) : State :=
  match a with
  | some (b, o) => queueArrival s b o r
  | none => oweStatus s c r 0

/-! ### Effects and the ac at whose end they come (R115, R116) -/

/-- The time of a core's units: TRC_AC, and the slips of its own deviations (assumption log 2). -/
def clk (s : State) (c : Nat) : Nat := lockTrc s + (coreAt s c).off

def insertSig (g : SigDue) : List SigDue → List SigDue
  | [] => [g]
  | h :: l => if g.key < h.key then g :: h :: l else h :: insertSig g l

/-- An effect that comes at the end of ac `due` of the core's units: a wait tested in that ac sees the value from before it (R115). Effects of
one ac go by the rank of their source: the access stream, the execute stream, the units, the arrival step (R116). With the array
clock gated, or on a core outside the tempo, it comes at once. -/
def effectAt (s : State) (c rank due : Nat) (e : SyncEff) (o : Nat) : State :=
  if s.lock.gated || (coreAt s c).maint then applyEffs s c o [e]
  else updCore s c (fun x => { x with sigs := insertSig ⟨16 * due + rank, e, o⟩ x.sigs })

def signalAt (s : State) (c rank due sop sobj : Nat) : State :=
  if sop = 0 then s else effectAt s c rank due (.signal sop) sobj

/-- Apply a list of effects object by object, each object's in order. -/
def applyAll (s : State) (c : Nat) (l : List (SyncEff × Nat)) : State :=
  forAll (l.map (·.2)).dedup s (fun s o => applyEffs s c o ((l.filter (fun p => decide (p.2 = o))).map (·.1)))

/-- The end of ac `lim` of a core's units: what is due by then and at most 4 arrivals (R155) take effect, in the order of R116. -/
def effectsEnd (lim : Nat) (s : State) (c : Nat) : State :=
  let x := coreAt s c
  if x.sigs.isEmpty && x.arrivals.isEmpty then s
  else
    let due := x.sigs.takeWhile (fun g => decide (g.key / 16 ≤ lim))
    let came := x.arrivals.take 4
    let s := setCore s c { x with sigs := x.sigs.drop due.length, arrivals := x.arrivals.drop 4 }
    let s := applyAll s c (due.map (fun g => (g.eff, g.sobj)) ++ came.map (fun a => (SyncEff.arrival, a.obj.toNat)))
    forAll came s (fun s a => oweStatus s c a.reply 0)

/-- Every waiting effect of every core comes: no ac of the array clock is left for it. -/
def effectsAll (s : State) : State := forAll (enabledCores s) s (effectsEnd (2 ^ 40))

/-! ### The ac passes -/

/-- `n` ungated ac edges are delivered: wall time passes, the hubs count, and a stretched clock loses time (R31, Table 2.3). -/
def deliverAc (s : State) (n : Nat) : State :=
  let k := s.lock.level
  let hubs := (lockClusters s).foldl (fun t c =>
    tupd {} t c (fun h => { trcAc := h.trcAc + BitVec.ofNat 24 n, trcNc := h.trcNc + BitVec.ofNat 24 (2 * n) })) s.hubs
  { s with
    now := s.now + n * acUnits k, hubs := hubs
    lock := { s.lock with since := s.lock.since + n, loss := s.lock.loss + n * (acUnits k - acUnits0) } }

/-! ### Waits -/

/-- The condition COND[2:0] on an object holds (Table 4.4). -/
def condHolds (x : Core) (k o : Nat) : Bool :=
  let v := syncAt x o
  match k with
  | 0 => true
  | 1 => decide (v.val ≠ 0)
  | 2 => decide (v.val = 0)
  | 3 => decide (v.val ≠ 0)
  | _ => decide (v.thr.toNat ≤ v.val.toNat)

/-- What a consuming condition does at issue (Table 4.4). -/
def condConsume (x : Core) (k o : Nat) : Core :=
  let v := syncAt x o
  match k with
  | 3 => setSync x o { v with val := 0 }
  | 5 => setSync x o { v with val := v.val - v.thr }
  | 7 => setSync x o { v with val := v.val - v.thr }
  | _ => x

/-! ### Lines, CRC and fences (R152, R153) -/

def lineBytes (x : Core) (l : Nat) : List Byte := readBytes x.store (64 * l) 64
def lineData (x : Core) (l : Nat) : Line := BitVec.ofNat 512 (leNat (lineBytes x l))
def bytesOfLine (d : Line) : List Byte := leBytes 64 d.toNat

/-- The FENCE word that names a line, if one does. -/
def fenceOf (x : Core) (l : Nat) : Option Nat :=
  (List.range 8).find? (fun i => decide (tget 0 x.fences i = BitVec.ofNat 32 (2 ^ 31 + l)))

def freeFence (x : Core) : Option Nat := (List.range 8).find? (fun i => !(bit (tget 0 x.fences i) 31))

/-- Whole-line write: data, fresh CRC, and the end of the line's fence; an entry that becomes free ends the withholding for the lines that
found none (R152, R153). -/
def putLine (x : Core) (l : Nat) (bs : List Byte) : Core :=
  let x := { x with store := writeBytes x.store (64 * l) bs, lcrc := tset 0 x.lcrc l 0 }
  match fenceOf x l with
  | some i => { x with fences := tset 0 x.fences i 0, unfenced := [] }
  | none => x

def writeLine (s : State) (c l : Nat) (d : Line) : State := updCore s c (fun x => putLine x l (bytesOfLine d))

/-- Fence a line that failed twice: into a free FENCE word, or, with none free, into the withholding list (R153). -/
def fenceLine (s : State) (c l : Nat) : State :=
  let x := coreAt s c
  match freeFence x with
  | some i =>
    setStoreFault (setCore s c { x with
      fences := tset 0 x.fences i (BitVec.ofNat 32 (2 ^ 31 + l)), unfenced := x.unfenced.filter (fun u => decide (u ≠ l)) }) c 1
  | none =>
    let s := if l ∈ x.unfenced then s else setCore s c { x with unfenced := x.unfenced ++ [l] }
    let s := setStoreFault s c 3
    raiseCore s c 0x0A (c * 2 ^ 36 + l * 2 ^ 17)

/-- The fault of a line that cannot be read (0x09). -/
def storeCrcFault (s : State) (c l : Nat) : State := raiseCore s c 0x09 (l * 2 ^ 27)

/-- What a mismatch and its re-read do: a slip if scheduled, the counts, and on a second mismatch the fence and the fault (R152, R153). -/
def lineReread (s : State) (c l : Nat) (secondMatches scheduled : Bool) : State :=
  let s := if scheduled then slipAc s c 3 else s
  let s := updCore s c (fun x => { x with rereads := satAdd x.rereads 1 })
  if secondMatches then setStoreFault s c 0 else storeCrcFault (fenceLine s c l) c l

/-! ### The gather buffer (R157 to R159) -/

def gatherAt (x : Core) (i : Nat) : Option GEntry := tget none x.gather i
def setGather (x : Core) (i : Nat) (e : Option GEntry) : Core :=
  let g := tset none x.gather i e
  { x with gather := g, gatherHigh := max x.gatherHigh g.length }

/-- The entry that holds a line. -/
def gatherOf (x : Core) (l : Nat) : Option Nat :=
  (List.range 16).find? (fun i => match gatherAt x i with | some e => decide (e.line = l) | none => false)

/-- One of a write's entries has flushed: at its last, the arrival and the status follow (R155, R159). -/
def noteFlushed (s : State) (c : Nat) (bad : Bool) (id : Nat) : State :=
  let x := coreAt s c
  match tget none x.writes id with
  | none => s
  | some w =>
    let w := { w with left := w.left - 1, bad := w.bad || bad }
    if w.left = 0 then
      let s := setCore s c { x with writes := tset none x.writes id none }
      if w.bad then oweStatus s c w.reply 5 else arriveThen s c w.arrive w.reply
    else setCore s c { x with writes := tset none x.writes id (some w) }

/-- Bytes of `new` where the mask is set, else of `old`. -/
def mergeBytes (mask : W64) (new old : List Byte) : List Byte :=
  (List.range 64).map (fun i => if mask.getLsbD i then new.getD i 0 else old.getD i 0)

/-- Entries that hold service-complex bytes. -/
def svcHeld (x : Core) : Nat := ((List.range 16).filter (fun i => match gatherAt x i with | some e => e.svc | none => false)).length

/-- An entry that a source may take: 0 to 3 for the service complex, which holds at most 8; 4 to 15 for all (R158). -/
def gatherFree (x : Core) (svc : Bool) : Option Nat :=
  let cand := if svc then (if svcHeld x < 8 then List.range 16 else []) else (List.range 12).map (· + 4)
  cand.find? (fun i => decide (gatherAt x i = none))

/-- Merge a piece of a write into an entry's line. -/
def gatherMerge (e : GEntry) (off : Nat) (bs : List Byte) (svc : Bool) (id : Option Nat) (now : Nat) : GEntry :=
  let old := bytesOfLine e.data
  let new := old.take off ++ bs ++ old.drop (off + bs.length)
  { e with
    data := BitVec.ofNat 512 (leNat new), mask := e.mask ||| BitVec.ofNat 64 ((2 ^ bs.length - 1) * 2 ^ off),
    svc := e.svc || svc, other := e.other || !svc, at_ := now,
    notes := match id with | some i => if i ∈ e.notes then e.notes else e.notes ++ [i] | none => e.notes }

/-- Put a piece in its place: a whole line that no entry holds goes to its bank; any other piece merges into its line's entry or takes a
free one; none: its source is held (R157, R158). -/
def takePiece (s : State) (c : Nat) (p : HeldPiece) : Option State :=
  let x := coreAt s c
  match gatherOf x p.line with
  | some i => some (setCore s c (setGather x i ((gatherAt x i).map (fun e => gatherMerge e p.off p.data p.svc p.id s.now))))
  | none =>
    if p.data.length = 64 then
      let s := setCore s c (putLine x p.line p.data)
      some (match p.id with | some id => noteFlushed s c false id | none => s)
    else (gatherFree x p.svc).map (fun i => setCore s c (setGather x i (some (gatherMerge ⟨p.line, 0, 0, false, false, [], 0⟩ p.off p.data p.svc p.id s.now))))

/-- A piece of an unscheduled write: behind a held piece of its own class it is held too. -/
def storePiece (s : State) (c : Nat) (p : HeldPiece) : State :=
  let hold := updCore s c (fun x => { x with gatherHeld := x.gatherHeld ++ [p] })
  if (coreAt s c).gatherHeld.any (fun h => decide (h.svc = p.svc)) then hold else (takePiece s c p).getD hold

/-- An entry has become free: the held pieces go on, in order (R158). -/
def resumeHeld (s : State) (c : Nat) : State :=
  match (coreAt s c).gatherHeld with
  | [] => s
  | ps => forAll ps (updCore s c (fun x => { x with gatherHeld := [] })) (fun s p => storePiece s c p)

/-- Flush an entry: a whole line in one write; otherwise read, check, merge and write. On a line that is fenced, or becomes so on this read, the
merge is abandoned; a line that fails while no FENCE word is free delivers zeros, into which the bytes are merged (R153, R159). -/
def flushEntry (s : State) (c i : Nat) : State :=
  let x := coreAt s c
  match gatherAt x i with
  | none => s
  | some e =>
    let s := setCore s c (setGather x i none)
    let l := e.line
    let end_ (s : State) (bad : Bool) : State := resumeHeld (forAll e.notes s (fun s id => noteFlushed s c bad id)) c
    if e.mask = BitVec.allOnes 64 then end_ (writeLine s c l e.data) false
    else if (fenceOf x l).isSome then end_ (storeCrcFault (setStoreFault s c 2) c l) true
    else if tget 0 x.lcrc l ≠ 0 then
      let s := lineReread s c l false false
      if (fenceOf (coreAt s c) l).isSome then end_ s true
      else end_ (updCore s c (fun x => putLine x l (mergeBytes e.mask (bytesOfLine e.data) []))) false
    else end_ (updCore s c (fun x => putLine x l (mergeBytes e.mask (bytesOfLine e.data) (lineBytes x l)))) false

/-- An entry's trigger of Table 5.6 has come: its line is whole, or it holds bytes of a remote or DMA write, whose bytes for the line come
together. -/
def flushDue (e : GEntry) : Bool := decide (e.mask = BitVec.allOnes 64) || e.other

/-- Flush the entry of a line before it is read (Table 5.6). -/
def flushLine (s : State) (c l : Nat) : State :=
  match (coreAt s c).gather with
  | [] => s
  | _ => match gatherOf (coreAt s c) l with | some i => flushEntry s c i | none => s

/-- Read a line: its data, and whether the read delivers data (R152, R153). -/
def readLine (s : State) (c l : Nat) (scheduled : Bool) : Line × Bool × State :=
  let s := flushLine s c l
  let x := coreAt s c
  if (fenceOf x l).isSome then (0, false, storeCrcFault (setStoreFault s c 2) c l)
  else if tget 0 x.lcrc l ≠ 0 then (0, false, lineReread s c l false scheduled)
  else (lineData x l, true, s)

/-- Read lines in order: their data, whether all delivered, and the machine after. -/
def readLines (s : State) (c : Nat) (scheduled : Bool) : List Nat → List Line × Bool × State
  | [] => ([], true, s)
  | l :: ls =>
    let (d, ok, s) := readLine s c l scheduled
    let (ds, oks, s) := readLines s c scheduled ls
    (d :: ds, ok && oks, s)

/-- The bytes of consecutive lines. -/
def bytesOfLines (ds : List Line) : List Byte := ds.flatMap bytesOfLine

/-- Read `n` bytes from byte address `a` of the own store. -/
def readStore (s : State) (c a n : Nat) (scheduled : Bool) : List Byte × Bool × State :=
  let l0 := a / 64
  let cnt := if n = 0 then 0 else (a + n - 1) / 64 - l0 + 1
  let (ds, ok, s) := readLines s c scheduled ((List.range cnt).map (fun i => l0 + i))
  (slice (bytesOfLines ds) (a % 64) n, ok, s)

/-- The pieces of a byte range, line by line: line, offset within it, length. -/
def linePieces : Nat → Nat → Nat → List (Nat × Nat × Nat)
  | 0, _, _ => []
  | _, _, 0 => []
  | k + 1, a, n => let m := min n (64 - a % 64); (a / 64, a % 64, m) :: linePieces k (a + m) (n - m)

/-- An unscheduled write of bytes to the own store: whole lines go to their bank, parts through the gather buffer (R157). -/
def storeWrite (s : State) (c a : Nat) (bs : List Byte) (svc : Bool) (id : Option Nat) : State :=
  forAll (linePieces (bs.length / 64 + 2) a bs.length) s (fun s p =>
    storePiece s c ⟨p.1, p.2.1, (bs.drop (p.1 * 64 + p.2.1 - a)).take p.2.2, svc, id⟩)

/-- A remote write or host DMA write into the own store: it completes, with its arrival and status, when its last line has reached its bank;
one of no bytes is a no-op with success, and a poisoned one makes no arrival (R12, R155, R157, R262). -/
def remoteStoreWrite (s : State) (c a : Nat) (bs : List Byte) (arrive : Option (Nat × Byte)) (reply : Reply) (poison : Bool) : State :=
  let x := coreAt s c
  if bs.isEmpty then oweStatus s c reply 0
  else
    let id := x.nextWrite
    let n := (linePieces (bs.length / 64 + 2) a bs.length).length
    let s := setCore s c { x with nextWrite := id + 1, writes := tset none x.writes id (some ⟨n, arrive, reply, poison⟩) }
    storeWrite s c a bs false (some id)

/-- Flush every entry whose trigger has come; `n` bounds the rounds in which held pieces take the entries that become free. -/
def flushAllDue : Nat → State → Nat → State
  | 0, s, _ => s
  | n + 1, s, c =>
    flushAllDue n (forAll (List.range 16) s (fun s i => match gatherAt (coreAt s c) i with
      | some e => if flushDue e then flushEntry s c i else s
      | none => s)) c

/-- A write whose source waits for its end: all of its bytes reach their banks. False: a merge of it was abandoned (R158, R159). -/
def flowStoreWrite (s : State) (c a : Nat) (bs : List Byte) : Bool × State :=
  let x := coreAt s c
  let id := x.nextWrite
  let n := (linePieces (bs.length / 64 + 2) a bs.length).length
  let s := setCore s c { x with nextWrite := id + 1, writes := tset none x.writes id (some ⟨n + 1, none, none, false⟩) }
  let s := storeWrite s c a bs false (some id)
  let s := flushAllDue ((coreAt s c).gatherHeld.length + 2) s c
  let x := coreAt s c
  (match tget none x.writes id with | some w => !w.bad | none => true, setCore s c { x with writes := tset none x.writes id none })

/-! ### Circular regions (R161 to R163) -/

def ringAt (x : Core) (r : Nat) : Ring := tget {} x.rings r
def updRing (x : Core) (r : Nat) (f : Ring → Ring) : Core := { x with rings := tupd {} x.rings r f }
def ringBase (x : Core) (r : Nat) : Nat := bits (cwEffAt x (0x400 + 16 * r)) 0 17
def ringSlots (x : Core) (r : Nat) : Nat := bits (cwEffAt x (0x404 + 16 * r)) 0 8 + 1
def ringLines (x : Core) (r : Nat) : Nat := bits (cwEffAt x (0x404 + 16 * r)) 8 12 + 1
def ringArr (x : Core) (r : Nat) : Nat := bits (cwEffAt x (0x408 + 16 * r)) 8 8
def ringRel (x : Core) (r : Nat) : Nat := bits (cwEffAt x (0x408 + 16 * r)) 0 8
/-- Filled slots: (F − Rc) mod 2^32. -/
def ringFilled (x : Core) (r : Nat) : Nat := ((ringAt x r).fill - (syncAt x (ringRel x r)).val).toNat

/-- Fill the slot at TAIL with an accepted write (R162), and record the choice of KIND 0x06 where the region has two sources (R163). -/
def ringFill (s : State) (c r : Nat) (bs : List Byte) (src : W64) (reply : Reply) : State :=
  let x := coreAt s c
  let slot := (ringAt x r).fill.toNat % ringSlots x r
  let l0 := ringBase x r + slot * ringLines x r
  let s := forAll (List.range (ringLines x r)) s (fun s i =>
    let s := (takePiece s c ⟨l0 + i, 0, slice bs (64 * i) 64, false, none⟩).getD s
    match gatherOf (coreAt s c) (l0 + i) with | some e => flushEntry s c e | none => s)
  let s := updCore s c (fun x => updRing x r (fun g => { g with
    fill := g.fill + 1, sources := if src ∈ g.sources then g.sources else g.sources ++ [src] }))
  let s := queueArrival s c (BitVec.ofNat 8 (ringArr x r)) reply
  if 2 ≤ (ringAt (coreAt s c) r).sources.length then
    choice s 6 ((ctxOfCore s c).getD 0) (logicalOf s c) (logicalOf s c * 2 ^ 24 + r * 2 ^ 16 + slot) src
  else s

/-- A write of a whole slot to ring aperture `r` (R162): filled, or held while the ring is full. The caller has checked its form. -/
def ringWrite (s : State) (c r : Nat) (bs : List Byte) (src : W64) (reply : Reply) : State :=
  let x := coreAt s c
  if ringFilled x r < ringSlots x r ∧ (ringAt x r).heldWrites = [] then ringFill s c r bs src reply
  else updCore s c (fun x => updRing x r (fun g => { g with heldWrites := g.heldWrites ++ [⟨bs, src, reply⟩] }))

/-- The oldest held write of a ring goes on once a slot is free (R162). -/
def ringResume (s : State) (c r : Nat) : State :=
  let x := coreAt s c
  match (ringAt x r).heldWrites with
  | [] => s
  | h :: rest =>
    if ringFilled x r < ringSlots x r then
      ringFill (setCore s c (updRing x r (fun g => { g with heldWrites := rest }))) c r h.data h.src h.reply
    else s

/-! ### Neighbours (R150) -/

/-- The neighbour of a core: 0 north, 1 east, 2 south, 3 west (R22); none beyond the mesh edge. -/
def neighbourOf (c d : Nat) : Option Nat :=
  match d with
  | 0 => if coreY c < 5 then some (c + 12) else none
  | 1 => if coreX c < 11 then some (c + 1) else none
  | 2 => if 0 < coreY c then some (c - 12) else none
  | 3 => if 0 < coreX c then some (c - 1) else none
  | _ => none

/-- A neighbour that NEIGH_EN may name (R150). -/
def neighbourOk (s : State) (c d : Nat) : Bool :=
  match neighbourOf c d with
  | none => false
  | some n => enabledCore s n && clusterInLock s (clusterOf n) &&
      decide (ctxOfCore s n = ctxOfCore s c) && (ctxOfCore s c).isSome

/-- The store a line number of the local map names, as a core and its own line (Table 5.1); none: an access fault. -/
def lineTarget (s : State) (c l : Nat) : Option (Nat × Nat) :=
  if l < Config.storeLines then some (c, l)
  else if l < 5 * Config.storeLines then
    let d := l / Config.storeLines - 1
    if bit (cwEffAt (coreAt s c) 8) d && neighbourOk s c d then (neighbourOf c d).map (fun n => (n, l % Config.storeLines)) else none
  else none

end Sys2Proof.Machine
end

