-- ==== Sys2Proof/Machine/TierOps.lean ====
section
/-! DEFINITION. Tier blocks: where a column block lives, its CRC, fencing, repair, retirement and spares (06). -/

namespace Sys2Proof.Machine

/-- The slice block of a core and tier, as a physical block number. -/
def slicePb (c t sl : Nat) : Nat := c * Config.columnBlocks + t * Config.sliceBlocks + sl

def spareBase : Nat := 72 * Config.columnBlocks
/-- A spare block as a physical block number. -/
def sparePb (t i : Nat) : Nat := spareBase + t * Config.spareBlocks + i

/-- The tier of a physical block. -/
def tierOfPb (pb : Nat) : Nat :=
  if pb < spareBase then pb % Config.columnBlocks / Config.sliceBlocks else (pb - spareBase) / Config.spareBlocks

def remapKey (c b : Nat) : Nat := c * Config.columnBlocks + b

/-- The substitute core of a native core and tier (R174). -/
def substituteOf (s : State) (c t : Nat) : Option Nat :=
  (List.range 16).findSome? (fun i =>
    let w := tget 0 s.tiers.subs i
    if bit w 31 && decide (bits w 16 2 = t) && decide (bits w 8 7 = c) then some (bits w 0 7) else none)

/-- Where a column block lives (R172). -/
def resolve (s : State) (c b : Nat) : Nat :=
  match tget 0 s.tiers.remap (remapKey c b) with
  | n + 1 => n
  | 0 => slicePb ((substituteOf s c (b % 4)).getD c) (b % 4) (b / 4)

def pbBytes (t : Tiers) (pb : Nat) : List Byte := readBytes t.mem (512 * pb) 512
/-- The stored CRC of a physical block. -/
def pbCrc (t : Tiers) (pb : Nat) : W32 := crc32c (pbBytes t pb) ^^^ tget 0 t.crc pb
/-- Whole-block write with a fresh CRC (R179). -/
def putPb (t : Tiers) (pb : Nat) (bs : List Byte) : Tiers := { t with mem := writeBytes t.mem (512 * pb) bs, crc := tset 0 t.crc pb 0 }
/-- A block of zeros with a valid CRC. -/
def zeroPb (t : Tiers) (pb : Nat) : Tiers := { t with mem := zeroBytes t.mem (512 * pb) (512 * pb + 512), crc := tset 0 t.crc pb 0 }

/-- The fence entry of a column block (R181). -/
def fenceEntry (t : Tiers) (c b : Nat) : Option Nat :=
  (List.range 64).find? (fun i => let e := tget {} t.fence i; e.valid && decide (e.core.toNat = c) && decide (e.blk.toNat = b))

def freeFenceEntry (t : Tiers) : Option Nat := (List.range 64).find? (fun i => !(tget {} t.fence i).valid)

/-- Firmware brings the housekeeping areas up to date after a change (R195). -/
def Tiers.keep (t : Tiers) : Tiers := { t with house := { t.house with remap := t.remap, subs := t.subs, fence := t.fence } }

/-- Free a fence entry; withheld contexts without an entry go on (R182). -/
def freeFenceAt (t : Tiers) (i : Nat) : Tiers :=
  { t with fence := tset {} t.fence i {}, unfenced := [], bad := t.bad.filter (fun e => decide (e ≠ 2 ^ 33 + i)) }.keep

/-- Remap entries of a core in use. -/
def remapUsed (t : Tiers) (c : Nat) : Nat := (t.remap.filter (fun p => decide (p.1 / Config.columnBlocks = c))).length

def spareState (t : Tiers) (tr i : Nat) : Nat := tget 0 t.spare (tr * Config.spareBlocks + i)
def setSpare (t : Tiers) (tr i v : Nat) : Tiers := { t with spare := tset 0 t.spare (tr * Config.spareBlocks + i) v }
/-- Free good spares of a tier (TIR_SPARE_FREE). -/
def spareFree (t : Tiers) (tr : Nat) : Nat :=
  Config.spareBlocks - (t.spare.filter (fun p => decide (p.1 / Config.spareBlocks = tr))).length

/-- The lowest free spare of a tier; at most as many steps as the table lists spares. -/
def firstFree (t : Tiers) (tr : Nat) : Nat → Nat → Option Nat
  | 0, i => if i < Config.spareBlocks ∧ spareState t tr i = 0 then some i else none
  | k + 1, i => if i < Config.spareBlocks ∧ spareState t tr i = 0 then some i else firstFree t tr k (i + 1)

def freeSpare (t : Tiers) (tr : Nat) : Option Nat := firstFree t tr t.spare.length 0

/-- The physical block is a spare: mark it with a state. -/
def markPb (t : Tiers) (pb v : Nat) : Tiers :=
  if pb < spareBase then t else setSpare t ((pb - spareBase) / Config.spareBlocks) ((pb - spareBase) % Config.spareBlocks) v

/-- A core's remap table has a free entry (R139, R187, R188). -/
def remapRoom (t : Tiers) (c : Nat) : Bool := decide (remapUsed t c < 1024)

/-- Remap a column block to a spare, which is then in use; a spare it leaves is bad. -/
def remapTo (t : Tiers) (c b tr i : Nat) : Tiers :=
  let old := tget 0 t.remap (remapKey c b)
  let t := if old = 0 then t else markPb t (old - 1) 2
  let t := { t with bad := t.bad.filter (fun e => decide (e ≠ remapKey c b)) }
  (setSpare { t with remap := tset 0 t.remap (remapKey c b) (sparePb tr i + 1) } tr i 1).keep

/-- The armed standby spare of a core and tier (R181). -/
def standbyOf (t : Tiers) (c tr : Nat) : Option Nat :=
  match tget 0 t.standby (c * 4 + tr) with | n + 1 => some n | 0 => none

/-- The fault of a block that cannot be read (0x08). -/
def tierCrcFault (s : State) (c b : Nat) : State := raiseCore s c 0x08 (c * 2 ^ 37 + b * 2 ^ 18)

/-- Fence a column block after a second mismatch: entry, standby remap, or, with the list full, withholding (R181, R182). -/
def fenceBlock (s : State) (c b : Nat) : State :=
  let t := { s.tiers with fences := satAdd s.tiers.fences 1 }
  let pb := resolve s c b
  match freeFenceEntry t with
  | some i =>
    let moves := (standbyOf t c (tierOfPb pb)).isSome && remapRoom t c
    let e : FenceEnt := ⟨true, 0, BitVec.ofNat 7 c, BitVec.ofNat 19 b, pbCrc t pb, moves, 0⟩
    let t := { t with
      fence := tset {} t.fence i e, unfenced := t.unfenced.filter (fun u => !(decide (u.core = c) && decide (u.blk = b))) }
    let tr := tierOfPb pb
    let t := match standbyOf t c tr with
      | some sp =>
        if remapRoom t c then
          { remapTo (zeroPb t (sparePb tr sp)) c b tr sp with standby := tset 0 t.standby (c * 4 + tr) 0 }
        else t
      | none => t
    setTirStatus { s with tiers := t.keep } 1
  | none =>
    let u : Unfenced := ⟨c, b, ctxOfCore s c⟩
    let t := { t with unfenced := if u ∈ t.unfenced then t.unfenced else t.unfenced ++ [u] }
    raiseCore (setTirStatus { s with tiers := t } 5) c 0x0A (2 ^ 43 + c * 2 ^ 36 + b * 2 ^ 17)

/-- Put an operation into a core's boundary-wait queue, or into the service store while it is full (R185, R357). -/
def queueBq (s : State) (c : Nat) (o : BqOp) : State :=
  updCore s c (fun x => if x.bq.length < 16 then { x with bq := x.bq ++ [o] } else { x with bqOver := x.bqOver ++ [o] })

/-- RESERVE × 64 of TIR_RETIRE_CFG. -/
def reserveSpares (t : Tiers) : Nat := bits t.retireCfg 4 12 * 64

/-- A weak block reaches THRESH: its retirement is queued, or the status says why not (R187). -/
def tryRetire (s : State) (c b pb : Nat) : State :=
  if !(bit s.tiers.ctrl 2) then s
  else if ¬ reserveSpares s.tiers < spareFree s.tiers (tierOfPb pb) then setTirStatus s 7
  else if !(remapRoom s.tiers c) then setTirStatus s 6
  else queueBq s c (.retire b)

/-- Time units of one hour. -/
def unitsPerHour : Nat := 3600 * 2400000000 * Config.unitsPerSc

/-- A weak entry is within its window: WINDOW hours from its first re-read (R187). -/
def weakLive (s : State) (e : WeakEnt) : Bool := decide (s.now - e.first < bits s.tiers.retireCfg 16 16 * unitsPerHour)

/-- A successful re-read enters the weak list (R187). -/
def weakHit (s : State) (owner : Option (Nat × Nat)) (pb : Nat) : State :=
  let t := { s.tiers with rereads := satAdd s.tiers.rereads 1, weak := s.tiers.weak.filter (weakLive s) }
  let n := ((t.weak.find? (fun e => decide (e.loc = pb))).map (·.count)).getD 0 + 1
  let weak :=
    if n = 1 then
      let e : WeakEnt := ⟨pb, 1, s.now⟩
      if t.weak.length < 256 then t.weak ++ [e]
      else
        let oldest := t.weak.foldl (fun m w => min m w.first) s.now
        t.weak.eraseP (fun w => decide (w.first = oldest)) ++ [e]
    else t.weak.map (fun e => if e.loc = pb then { e with count := n } else e)
  let s := setTirStatus { s with tiers := { t with weak := weak } } 0
  match owner with
  | some (c, b) => if n = bits t.retireCfg 0 4 then tryRetire s c b pb else s
  | none => s

/-- A mismatch and its re-read of a column block (R180, R181). -/
def blockReread (s : State) (c b : Nat) (secondMatches scheduled : Bool) : State :=
  let s := if scheduled then slipAc s c 24 else s
  let s := updCore s c (fun x => { x with rereads := satAdd x.rereads 1 })
  if secondMatches then weakHit s (some (c, b)) (resolve s c b) else tierCrcFault (fenceBlock s c b) c b

/-- An entry that governs a column block has bad parity: its remap or fence entry, or its slice's substitution (R374, Table 13.2). -/
def tierBad (s : State) (c b : Nat) : Option Nat :=
  s.tiers.bad.find? (fun e =>
    if e < 2 ^ 32 then decide (e = remapKey c b)
    else if e < 2 ^ 33 then
      let w := tget 0 s.tiers.subs (e - 2 ^ 32)
      bit w 31 && decide (bits w 16 2 = b % 4) && decide (bits w 8 7 = c)
    else decide (fenceEntry s.tiers c b = some (e - 2 ^ 33)))

/-- Read a column block: its bytes, whether the read delivers data, and the machine after (R179 to R182). -/
def readBlock (s : State) (c b : Nat) (scheduled : Bool) : List Byte × Bool × State :=
  let zeros := List.replicate 512 (0 : Byte)
  if (tierBad s c b).isSome then (zeros, false, raise s 0x11 (moduleScope s) 3 0 0 (8 * 2 ^ 40 + (tierBad s c b).getD 0 % 2 ^ 16 * 2 ^ 24))
  else if (fenceEntry s.tiers c b).isSome then (zeros, false, tierCrcFault s c b)
  else if tget 0 s.tiers.crc (resolve s c b) ≠ 0 then (zeros, false, blockReread s c b false scheduled)
  else (pbBytes s.tiers (resolve s c b), true, s)

def readBlocks (s : State) (c : Nat) (scheduled : Bool) : List Nat → List (List Byte) × Bool × State
  | [] => ([], true, s)
  | b :: bs =>
    let (d, ok, s) := readBlock s c b scheduled
    let (ds, oks, s) := readBlocks s c scheduled bs
    (d :: ds, ok && oks, s)

/-- A queued repair of the block. -/
def repairs (b : Nat) (o : BqOp) : Bool := match o with | .repair k _ _ => decide (k = b) | .retire _ => false

/-- Whole-block write of a column block: it ends the block's fence, and a pending repair of the block is discarded (R182). -/
def writeBlock (s : State) (c b : Nat) (bs : List Byte) : State :=
  let t := putPb s.tiers (resolve s c b) bs
  match fenceEntry t c b with
  | some i =>
    updCore { s with tiers := freeFenceAt t i } c (fun x => { x with
      bq := x.bq.filter (fun o => !(repairs b o)), bqOver := x.bqOver.filter (fun o => !(repairs b o)) })
  | none => { s with tiers := t }

/-- Read `n` bytes from column offset `a`. -/
def readColumn (s : State) (c a n : Nat) (scheduled : Bool) : List Byte × Bool × State :=
  let b0 := a / 512
  let cnt := if n = 0 then 0 else (a + n - 1) / 512 - b0 + 1
  let (ds, ok, s) := readBlocks s c scheduled ((List.range cnt).map (fun i => b0 + i))
  (slice ds.flatten (a % 512) n, ok, s)

/-- Write bytes at column offset `a`; part of a block is read, merged and written whole (R179). False: a merge met a fenced block. -/
def writeColumn (s : State) (c a : Nat) (bs : List Byte) : Bool × State :=
  let b0 := a / 512
  let cnt := if bs.length = 0 then 0 else (a + bs.length - 1) / 512 - b0 + 1
  (List.range cnt).foldl (fun (r : Bool × State) i =>
    let blk := b0 + i
    let lo := max a (512 * blk)
    let hi := min (a + bs.length) (512 * blk + 512)
    let part := (bs.drop (lo - a)).take (hi - lo)
    if hi - lo = 512 then (r.1, writeBlock r.2 c blk part)
    else
      let (old, ok, s) := readBlock r.2 c blk false
      if ok then (r.1, writeBlock s c blk (old.take (lo - 512 * blk) ++ part ++ old.drop (hi - 512 * blk))) else (false, s))
    (true, s)

/-- A remote write or host DMA write into the tier column, with its arrival and status (R155, R193). -/
def remoteTierWrite (s : State) (c a : Nat) (bs : List Byte) (arrive : Option (Nat × Byte)) (reply : Reply) (poison : Bool) : State :=
  if bs.isEmpty then oweStatus s c reply 0
  else
    let (ok, s) := writeColumn s c a bs
    if ok && !poison then arriveThen s c arrive reply else oweStatus s c reply 5

/-- Operations move from the service store into the boundary-wait queue as it has room (R357). -/
def refillBq (x : Core) : Core :=
  let n := 16 - x.bq.length
  { x with bq := x.bq ++ x.bqOver.take n, bqOver := x.bqOver.drop n }

/-- A repair takes over the standby's remap entry, or adds one where a spare and a table entry are free (R185). -/
def repairPlace (t : Tiers) (moved : Bool) (c b tr : Nat) : Tiers :=
  if moved ∨ !(remapRoom t c) then t
  else match freeSpare t tr with
    | some i => remapTo t c b tr i
    | none => t

/-- One operation of the boundary-wait queue (R185, R187). -/
def boundaryOp (s : State) (c : Nat) (o : BqOp) : State :=
  match o with
  | .repair b data fromHost =>
    match fenceEntry s.tiers c b with
    | none => s
    | some i =>
      let t := repairPlace s.tiers (tget {} s.tiers.fence i).moved c b (tierOfPb (resolve s c b))
      let s := writeBlock { s with tiers := t } c b (leBytes 512 data.toNat)
      let s := updTiers s (fun t => { t with repaired := satAdd t.repaired 1 })
      choice (setTirStatus s 3) 8 ((ctxOfCore s c).getD 0) (logicalOf s c) (logicalOf s c * 2 ^ 19 + b) (if fromHost then 1 else 0)
  | .retire b =>
    let pb := resolve s c b
    let tr := tierOfPb pb
    match freeSpare s.tiers tr with
    | none => setTirStatus s 7
    | some i =>
      if !(remapRoom s.tiers c) then setTirStatus s 6
      else
        let (d, ok, s) := readBlock s c b false
        if ok then
          let t := putPb s.tiers (sparePb tr i) d
          let t := markPb (remapTo t c b tr i) pb 4
          { s with tiers := { t with
              retiredN := satAdd t.retiredN 1, retired := if pb < spareBase then t.retired ++ [pb] else t.retired,
              weak := t.weak.filter (fun e => decide (e.loc ≠ pb)) } }
        else s

end Sys2Proof.Machine
end

