-- ==== Sys2Proof/Machine/Tweed.lean ====
section
/-! DEFINITION. The Tweed codec as functions on bytes: the decoder with its fault causes and the canonical encoder (07). -/

namespace Sys2Proof.Machine

/-- A codable format (Table 7.1): exponent position and width, mantissa width, element bytes. -/
structure TwFmt where
  code : Nat
  mw : Nat
  ew : Nat
  bytes : Nat

def twFmt (code : Nat) : Option TwFmt :=
  if code = 0 then some ⟨0, 3, 4, 1⟩ else if code = 1 then some ⟨1, 2, 5, 1⟩
  else if code = 8 then some ⟨8, 7, 8, 2⟩ else if code = 9 then some ⟨9, 10, 5, 2⟩ else none

/-- Sign-mantissa bits w (Table 7.1). -/
def TwFmt.w (f : TwFmt) : Nat := f.mw + 1

/-- Exponent field of an element. -/
def twExp (f : TwFmt) (x : Nat) : Nat := x / 2 ^ f.mw % 2 ^ f.ew
/-- Sign-mantissa part of an element, S at the top. -/
def twSm (f : TwFmt) (x : Nat) : Nat := x / 2 ^ (f.mw + f.ew) % 2 * 2 ^ f.mw + x % 2 ^ f.mw
/-- An element from its exponent and its sign-mantissa part. -/
def twJoin (f : TwFmt) (e sm : Nat) : Nat := sm / 2 ^ f.mw % 2 * 2 ^ (f.mw + f.ew) + e * 2 ^ f.mw + sm % 2 ^ f.mw

def ceilDiv (a b : Nat) : Nat := (a + b - 1) / b

/-- Line counts of the sections of a coded block (R204): index, escape map, escape values, sign-mantissa. -/
structure TwSizes where
  elems : Nat
  groups : Nat
  stripes : Nat
  idx : Nat
  map : Nat
  esc : Nat
  sm : Nat

def twSizes (f : TwFmt) (ulines esc : Nat) : TwSizes :=
  let e := ulines * 64 / f.bytes
  let g := e / 4
  let s := ceilDiv g 64
  ⟨e, g, s, ceilDiv (12 * g) 512, ceilDiv s 64, ceilDiv esc 16, ceilDiv (f.w * e) 512⟩

def TwSizes.total (z : TwSizes) : Nat := 1 + z.idx + z.map + z.esc + z.sm

/-- A packed field of a section read as a number (R202). -/
def fieldAt (n off len : Nat) : Nat := n / 2 ^ off % 2 ^ len

/-- A word of the codebook layout has a bit above the exponent width (R203). -/
def twWordBad (f : TwFmt) (w : Nat) : Bool := (List.range 4).any (fun k => decide (2 ^ f.ew ≤ fieldAt w (8 * k) 8))

/-! ### Decoder -/

/-- The lowest cause of a list of checks, each a failure test with its code (R213). -/
def lowestCause (l : List (Bool × Nat)) : Option Nat :=
  (l.filter (·.1)).foldl (fun m p => match m with | none => some p.2 | some c => some (min c p.2)) none

/-- The elements of a coded block, once its sections are known. -/
def twElems (f : TwFmt) (z : TwSizes) (book : List Nat) (idxN mapN escN smN : Nat) : List Nat :=
  let escOf (s : Nat) : Nat := ((List.range s).filter (fun i => decide (128 ≤ fieldAt mapN (8 * i) 8))).length
  (List.range z.groups).flatMap (fun g =>
    let m := fieldAt mapN (8 * (g / 64)) 8
    let vec := if 128 ≤ m ∧ m % 64 = g % 64 then fieldAt escN (32 * escOf (g / 64)) 32 else book.getD (fieldAt idxN (12 * g) 12) 0
    (List.range 4).map (fun k => twJoin f (fieldAt vec (8 * k) 8 % 2 ^ f.ew) (fieldAt smN (f.w * (4 * g + k)) f.w)))

/-- What a block's decoding gives: its output or a cause, and its coded lines. -/
structure TwBlock where
  out : List Byte
  cause : Option Nat
  lines : Nat

/-- Decode the block at line `p` of the segment, with `remain` uncompressed lines to come (R204, R210, Table 7.5). -/
def twBlock (f : TwFmt) (book : List Nat) (seg : List Byte) (segLines p remain : Nat) : TwBlock :=
  if segLines ≤ p then ⟨[], some 8, 0⟩ else
  let h := slice seg (64 * p) 64
  let w0 := sliceNat h 0 4
  let w1 := sliceNat h 4 4
  let w2 := sliceNat h 8 4
  let raw := decide (2 ^ 31 ≤ w0)
  let ul := w0 % 1024 + 1
  let cl := w1 % 2048 + 1
  let esc := w2 % 512
  let want := min remain 1024
  let z := twSizes f ul esc
  let total := if raw then ul + 1 else z.total
  let headBad := decide (w0 / 1024 % 2 ^ 21 ≠ 0) || decide (w1 / 2048 ≠ 0) || decide (w2 / 512 ≠ 0) ||
    decide (sliceNat h 16 48 ≠ 0) || (raw && decide (esc ≠ 0))
  let shape := [(decide (ul < want), 5), (decide (want < ul), 6), (decide (total < cl), 7),
    (decide (cl < total) || decide (segLines < p + cl), 8), (headBad, 9)]
  match lowestCause shape with
  | some c => ⟨[], some c, cl⟩
  | none =>
    let sec (line n : Nat) : Nat := sliceNat seg (64 * (p + line)) (64 * n)
    if raw then
      let out := slice seg (64 * (p + 1)) (64 * ul)
      ⟨out, if (crc32c out).toNat = sliceNat h 12 4 then none else some 0xC, cl⟩
    else
      let idxN := sec 1 z.idx
      let mapN := sec (1 + z.idx) z.map
      let escN := sec (1 + z.idx + z.map) z.esc
      let smN := sec (1 + z.idx + z.map + z.esc) z.sm
      let m (s : Nat) : Nat := fieldAt mapN (8 * s) 8
      let present := (List.range z.stripes).filter (fun s => decide (128 ≤ m s))
      let groupsIn (s : Nat) : Nat := min 64 (z.groups - 64 * s)
      let escaped (g : Nat) : Bool := decide (128 ≤ m (g / 64)) && decide (m (g / 64) % 64 = g % 64)
      let padBad := decide (idxN / 2 ^ (12 * z.groups) ≠ 0) || decide (mapN / 2 ^ (8 * z.stripes) ≠ 0) ||
        decide (escN / 2 ^ (32 * esc) ≠ 0) || decide (smN / 2 ^ (f.w * z.elems) ≠ 0) ||
        (List.range z.stripes).any (fun s => decide (m s / 64 % 2 = 1)) ||
        (List.range z.groups).any (fun g => escaped g && decide (fieldAt idxN (12 * g) 12 ≠ 0)) ||
        (List.range esc).any (fun i => twWordBad f (fieldAt escN (32 * i) 32))
      let mapBad := decide (present.length ≠ esc) || present.any (fun s => decide (groupsIn s ≤ m s % 64))
      let idxBad := (List.range z.groups).any (fun g => !escaped g && decide (book.length ≤ fieldAt idxN (12 * g) 12))
      let out := (twElems f z book idxN mapN escN smN).flatMap (leBytes f.bytes)
      let crcBad := decide ((crc32c out).toNat ≠ sliceNat h 12 4)
      ⟨out, lowestCause [(padBad, 9), (mapBad, 0xA), (idxBad, 0xB), (crcBad, 0xC)], cl⟩

/-- A tier block of the input that covers lines p to p + n − 1 was not delivered (cause 0x0D). -/
def twFenced (ok : List Bool) (p n : Nat) : Bool := (List.range (ceilDiv (p % 8 + max n 1) 8)).any (fun i => !(ok.getD (p / 8 + i) true))

/-- Decode blocks from line `p`; the outputs of verified blocks and the first fault. -/
def twBlocks : Nat → TwFmt → List Nat → List Byte → List Bool → Nat → Nat → Nat → List Byte × Option Nat
  | 0, _, _, _, _, _, _, _ => ([], none)
  | k + 1, f, book, seg, ok, segLines, p, remain =>
    if remain = 0 then
      ([], lowestCause [(decide (p < segLines), 7), (decide (sliceNat seg (64 * segLines) (seg.length - 64 * segLines) ≠ 0), 9)])
    else
      let b := twBlock f book seg segLines p remain
      if twFenced ok p b.lines then ([], some 0xD)
      else match b.cause with
        | some c => ([], some c)
        | none =>
          let r := twBlocks k f book seg ok segLines (p + b.lines) (remain - min remain 1024)
          (b.out ++ r.1, r.2)

/-- The header's check (cause 0x01): the fields of Table 7.2. -/
def twHeadOk (h : List Byte) : Bool :=
  decide (sliceNat h 0 2 = 0x5457) && decide (sliceNat h 2 1 = 1) && decide (sliceNat h 3 1 / 16 = 0) &&
  (twFmt (sliceNat h 3 1 % 16)).isSome && decide (sliceNat h 4 4 / 2 ^ 18 = 0) && decide (sliceNat h 8 4 / 2 ^ 19 = 0) &&
  decide (sliceNat h 12 2 / 4096 = 0) && decide (sliceNat h 14 46 = 0) && decide ((crc32c (h.take 60)).toNat = sliceNat h 60 4)

def twUlines (h : List Byte) : Nat := sliceNat h 4 4 % 2 ^ 18 + 1
def twClines (h : List Byte) : Nat := sliceNat h 8 4 % 2 ^ 19 + 1
def twEntries (h : List Byte) : Nat := sliceNat h 12 2 % 4096 + 1

/-- Causes found at the segment header (0x01 to 0x03). -/
def twHeadCause (h : List Byte) (maxBlocks roomLines : Nat) : Option Nat :=
  if !(twHeadOk h) then some 1
  else lowestCause [(decide (maxBlocks < ceilDiv (twClines h) 8), 2), (decide (roomLines < twUlines h), 3)]

/-- Decode a segment whose header has passed; `ok` says which of its tier blocks were delivered. -/
def twDecode (seg : List Byte) (ok : List Bool) : List Byte × Option Nat :=
  match twFmt (sliceNat seg 3 1 % 16) with
  | none => ([], some 1)
  | some f =>
    let n := twEntries seg
    let lines := ceilDiv n 16
    let book := (List.range n).map (fun i => sliceNat seg (64 + 4 * i) 4)
    if twFenced ok 0 (1 + lines) then ([], some 0xD)
    else if book.any (twWordBad f) || decide (sliceNat seg (64 + 4 * n) (64 * lines - 4 * n) ≠ 0) then ([], some 4)
    else twBlocks (ceilDiv (twUlines seg) 1024 + 1) f book seg ok (twClines seg) (1 + lines) (twUlines seg)

/-! ### Canonical encoder (R205) -/

/-- The exponent vectors of the groups of source bytes, as codebook words. -/
def twVectors (f : TwFmt) (src : List Byte) : List Nat :=
  (List.range (src.length / (4 * f.bytes))).map (fun g =>
    (List.range 4).foldl (fun a k => a + twExp f (sliceNat src ((4 * g + k) * f.bytes) f.bytes) * 2 ^ (8 * k)) 0)

/-- Count a vector among the candidates: at most 8,192. -/
def twCount (cand : List (Nat × Nat)) (v : Nat) : List (Nat × Nat) :=
  if cand.any (fun p => decide (p.1 = v)) then cand.map (fun p => if p.1 = v then (p.1, p.2 + 1) else p)
  else if cand.length < 8192 then cand ++ [(v, 1)] else cand

/-- The codebook: the 4,096 largest counts, ties to the earlier, in order of first meeting. -/
def twBook (vs : List Nat) : List Nat :=
  let cand := (vs.foldl twCount []).zipIdx
  let rank (p : (Nat × Nat) × Nat) : Nat :=
    (cand.filter (fun q => decide (p.1.2 < q.1.2) || (decide (q.1.2 = p.1.2) && decide (q.2 < p.2)))).length
  (if cand.length ≤ 4096 then cand else cand.filter (fun p => decide (rank p < 4096))).map (·.1.1)

/-- Pack numbers of a width into whole lines of bytes. -/
def twPack (width : Nat) (xs : List Nat) : List Byte :=
  leBytes (64 * ceilDiv (width * xs.length) 512) (xs.zipIdx.foldl (fun a p => a + p.1 * 2 ^ (width * p.2)) 0)

def twBlockHead (raw : Bool) (ul cl esc crc : Nat) : List Byte :=
  leBytes 4 (b2n raw * 2 ^ 31 + (ul - 1)) ++ leBytes 4 (cl - 1) ++ leBytes 4 esc ++ leBytes 4 crc ++ List.replicate 48 0

/-- Encode one block of source bytes. -/
def twEncodeBlock (f : TwFmt) (book : List Nat) (src : List Byte) : List Byte :=
  let ul := src.length / 64
  let vs := twVectors f src
  let groups := vs.zipIdx
  let out := groups.filter (fun p => !(book.contains p.1))
  let stripes := ceilDiv vs.length 64
  let escIn (s : Nat) := out.filter (fun p => decide (p.2 / 64 = s))
  let crc := (crc32c src).toNat
  if (List.range stripes).any (fun s => decide (2 ≤ (escIn s).length)) then twBlockHead true ul (ul + 1) 0 crc ++ src
  else
    let idx := groups.map (fun p => if book.contains p.1 then book.idxOf p.1 else 0)
    let map := (List.range stripes).map (fun s => match escIn s with | p :: _ => 128 + p.2 % 64 | [] => 0)
    let sm := (List.range (src.length / f.bytes)).map (fun i => twSm f (sliceNat src (i * f.bytes) f.bytes))
    twBlockHead false ul (twSizes f ul out.length).total out.length crc ++
      twPack 12 idx ++ twPack 8 map ++ twPack 32 (out.map (·.1)) ++ twPack f.w sm

/-- Encode a segment. -/
def twEncode (f : TwFmt) (src : List Byte) : List Byte :=
  let book := twBook (twVectors f src)
  let body := (List.range (ceilDiv src.length 65536)).flatMap (fun k => twEncodeBlock f book ((src.drop (65536 * k)).take 65536))
  let tail := twPack 32 book ++ body
  let h := leBytes 2 0x5457 ++ [1, BitVec.ofNat 8 f.code] ++ leBytes 4 (src.length / 64 - 1) ++ leBytes 4 (tail.length / 64) ++
    leBytes 2 (book.length - 1) ++ List.replicate 46 0
  h ++ leBytes 4 (crc32c h).toNat ++ tail

/-- Tier blocks a TWR of `blocks` reserves (R200). -/
def twReserve (blocks : Nat) : Nat :=
  let u := blocks * 512
  ceilDiv (16448 + u + 64 * ceilDiv u 65536) 512

end Sys2Proof.Machine
end

