-- ==== Sys2Proof/Machine/Operands.lean ====
section
/-! DEFINITION. The operand fields of a core instruction word and the checks at issue: what makes a word malformed (R113, R114,
R117, R128) and which addresses leave their region (R120, R141, R150). -/

namespace Sys2Proof.Machine

/-! ### The instruction word (Table 4.3) -/

def wCond (w : W128) : Nat := bits w 124 4
def wObj (w : W128) : Nat := bits w 116 8
def wSop (w : W128) : Nat := bits w 112 4
def wSobj (w : W128) : Nat := bits w 104 8
def wOp (w : W128) : Nat := bits w 96 8

/-- COND and WOBJ are well formed (R113). -/
def condOk (w : W128) : Bool :=
  let k := wCond w % 8
  let dec := decide (8 ≤ wCond w)
  let o := wObj w
  if k = 0 then !dec && decide (o = 0)
  else if k ≤ 3 then isFlag o
  else if k ≤ 5 then isCounter o
  else isArrival o && dec

/-- SOP and SOBJ are well formed (R114). -/
def sopOk (w : W128) : Bool :=
  match wSop w with
  | 0 => decide (wSobj w = 0)
  | 1 | 2 => isFlag (wSobj w)
  | 3 | 4 => isCounter (wSobj w)
  | _ => false

/-- What the checks at issue find. -/
inductive Check where
  | ok
  | malformed
  /-- the first local byte address out of range -/
  | access (addr : Nat)
  deriving DecidableEq, Repr

/-- The first check that fails decides; malformed words are not looked at further. -/
def Check.and (a : Check) (b : Check) : Check :=
  match a, b with
  | .ok, b => b
  | .malformed, _ => .malformed
  | .access _, .malformed => .malformed
  | .access x, .access y => .access (min x y)
  | .access x, .ok => .access x

def mustBe (c : Bool) : Check := if c then .ok else .malformed

/-! ### Ranges -/

/-- The smallest of the own-store lines that a set of runs of `len` lines reaches beyond the store. -/
def ownLines (starts : List Nat) (len : Nat) : Check :=
  let bad := starts.filterMap (fun l =>
    if len = 0 then none else if Config.storeLines ≤ l then some l else if Config.storeLines < l + len then some Config.storeLines else none)
  match bad with
  | [] => .ok
  | b :: bs => .access (64 * bs.foldl min b)

/-- A strided range of the 20-bit line space: it lies in one reachable window (R120, R128, R150). -/
def lineRange (s : State) (c l n stride : Nat) : Check :=
  if n = 0 then .ok
  else
    let wb := l / Config.storeLines
    if (lineTarget s c l).isNone then .access (64 * l)
    else if (l + stride * (n - 1)) / Config.storeLines = wb then .ok
    else
      let i := ((wb + 1) * Config.storeLines - l + stride - 1) / stride
      .access (64 * (l + stride * i))

/-- A run of tier blocks ends at or below block 393,216 (R120). -/
def tierRange (b n : Nat) : Check :=
  if b + n ≤ Config.columnBlocks then .ok else .access (0x10000000 + 512 * max b Config.columnBlocks)

/-! ### Fields per class (Tables 4.8 to 4.11, 4.15) -/

def reEng (w : W128) : Nat := bits w 92 4
def reWblk (w : W128) : Nat := bits w 73 19
def reRows (w : W128) : Nat := bits w 66 7 + 1
def reSline (w : W128) : Nat := bits w 49 17
def reEstride (w : W128) : Nat := bits w 37 12
def trTblk (w : W128) : Nat := bits w 77 19
def trLaddr (w : W128) : Nat := bits w 57 20
def trBlocks (w : W128) : Nat := bits w 41 16
def trCodec (w : W128) : Bool := bit w 40
def ldQueue (w : W128) : Nat := bits w 94 2
def ldLaddr (w : W128) : Nat := bits w 74 20
def ldLines (w : W128) : Nat := bits w 62 12 + 1
def ldStride (w : W128) : Nat := bits w 50 12
def ldTrans (w : W128) : Bool := bit w 49
def stQueue (w : W128) : Nat := bits w 95 1
def stLaddr (w : W128) : Nat := bits w 75 20
def stLines (w : W128) : Nat := bits w 63 12 + 1
def stStride (w : W128) : Nat := bits w 51 12
def cpSrc (w : W128) : Nat := bits w 76 20
def cpDst (w : W128) : Nat := bits w 56 20
def cpLines (w : W128) : Nat := bits w 40 16
def cpTrans (w : W128) : Bool := bit w 39
def putDesc (w : W128) : Nat := bits w 79 17
def wiEng (w : W128) : Nat := bits w 92 4
def wiTgt (w : W128) : Bool := bit w 91
def wiWord (w : W128) : W64 := BitVec.ofNat 64 (bits w 0 64)
def psGang (w : W128) : Nat := bits w 94 2
def psEng (w : W128) : Nat := bits w 90 4
def psRows (w : W128) : Nat := bits w 82 8 + 1
def psSwap (w : W128) : Bool := bit w 81
def psAdd (w : W128) : Bool := bit w 80
def psAline (w : W128) : Nat := bits w 63 17
def psAstride (w : W128) : Nat := bits w 51 12
def psEoff (w : W128) : Nat := bits w 39 12
def psAscale (w : W128) : Nat := bits w 22 17
def drFirst (w : W128) : Nat := bits w 74 8
def drOline (w : W128) : Nat := bits w 57 17
def drOstride (w : W128) : Nat := bits w 45 12
def drEoff (w : W128) : Nat := bits w 33 12
def ewOp (w : W128) : Nat := bits w 90 6
def ewFmt (w : W128) : Nat := bits w 86 4
def ewAk (w : W128) : Bool := bit w 85
def ewA (w : W128) : Nat := bits w 68 17
def ewBk (w : W128) : Bool := bit w 67
def ewB (w : W128) : Nat := bits w 50 17
def ewDk (w : W128) : Bool := bit w 49
def ewD (w : W128) : Nat := bits w 32 17
def ewLines (w : W128) : Nat := bits w 20 12 + 1
def ewImm (w : W128) : Nat := bits w 4 16
def syObj (w : W128) : Nat := bits w 88 8
def syAct (w : W128) : Nat := bits w 84 4
def syVal (w : W128) : Nat := bits w 0 32
def tiM (w : W128) : Nat := bits w 85 11 + 1
def tiK (w : W128) : Nat := bits w 72 13 + 1
def tiN (w : W128) : Nat := bits w 59 13 + 1
def tiWblk (w : W128) : Nat := bits w 40 19
def tiAline (w : W128) : Nat := bits w 23 17
def tiOline (w : W128) : Nat := bits w 6 17
def tiDrain (w : W128) : Bool := bit w 5
def tiAcc (w : W128) : Bool := bit w 4

/-- The engines of a mask, in order. -/
def maskEngines (m : Nat) : List Nat := (List.range 4).filter (fun e => decide (m / 2 ^ e % 2 = 1))

/-- Bytes of a refill row of a weight format (R121). -/
def rowBytes (wfmt : Nat) : Nat := if fmt4bit wfmt then 64 else 128

/-- Refill time in ac (Table 3.7, R101). -/
def refillAc (wfmt rows : Nat) : Nat :=
  let t := if fmt4bit wfmt then (rows + 3) / 4 else (rows + 1) / 2
  if fmtScaled wfmt then max t 16 else t

/-- Gang code and engine mask agree (Table 4.10). -/
def gangOk (gang eng eoff : Nat) : Bool :=
  if gang = 0 then decide (eng ≠ 0) else decide (eng = 0xF) && decide (eoff = 0)

/-- Drain interval of an output format in ac (R98). -/
def drainAc (ofmt : Nat) : Nat := if ofmt = 0xC then 2 else if ofmt = 0xF then 8 else 1

/-- Lines of an output row of C values, the header of LONG included (R125, R149). -/
def outLines (ofmt cols : Nat) : Nat := if ofmt = 0xF then 1 + cols / 4 + (if cols % 4 = 0 then 0 else 1) else (cols * outBytes ofmt + 63) / 64

/-! ### Checks of each class -/

def chkRsv (w : W128) (lo len : Nat) : Check := mustBe (decide (bits w lo len = 0))

def chkSync (w : W128) : Check :=
  let o := syObj w
  let fits := match syAct w with
    | 0 => isCounter o || isArrival o
    | 1 | 2 => isCounter o
    | 3 => isArrival o && decide (syVal w = 0)
    | _ => false
  (chkRsv w 32 52).and (mustBe fits)

/-- The shadow window of an engine gives the weight format a refill uses (R121). -/
def refillFmt (x : Core) (e : Nat) : Nat := winWfmt (engineAt x e).shadowWin

def chkRefill (x : Core) (w : W128) : Check :=
  let es := maskEngines (reEng w)
  let quad := es.any (fun e => fmtQuad (refillFmt x e))
  let blk (k e : Nat) : Check := tierRange (reWblk w + k * reEstride w) ((reRows w * rowBytes (refillFmt x e) + 511) / 512)
  let scl (k e : Nat) : Check := if fmtScaled (refillFmt x e) then ownLines [reSline w + 8 * k] 8 else .ok
  let per := es.zipIdx.foldl (fun c p => c.and ((blk p.2 p.1).and (scl p.2 p.1))) .ok
  (chkRsv w 0 37).and ((mustBe (decide (reEng w ≠ 0) && !(quad && decide (64 < reRows w)))).and per)

/-- LADDR of TRD and TWR lies in the own store (R141). -/
def chkTierLines (w : W128) (lines : Nat) : Check :=
  if lines = 0 then .ok else ownLines [trLaddr w] lines

def chkTrd (w : W128) : Check :=
  (chkRsv w 0 40).and
    (if trBlocks w = 0 then .ok
     else if trCodec w then (tierRange (trTblk w) (trBlocks w)).and (chkTierLines w 1)
     else (tierRange (trTblk w) (trBlocks w)).and (chkTierLines w (8 * trBlocks w)))

def chkTwr (x : Core) (w : W128) : Check :=
  let coded := trCodec w
  (chkRsv w 0 40).and
    ((mustBe (!coded || (twFmt (winOfmt (engineAt x 0).activeWin)).isSome)).and
      (if trBlocks w = 0 then .ok
       else (tierRange (trTblk w) (if coded then twReserve (trBlocks w) else trBlocks w)).and (chkTierLines w (8 * trBlocks w))))

/-- Element size code of transposed reads (TRANS_CFG). -/
def transElem (x : Core) : Nat := bits (cwEffAt x 0x48) 0 2
/-- Lines of a transposed tile (Table 5.8). -/
def transTile (x : Core) : Nat := 64 / 2 ^ transElem x

/-- A transposed read of whole, aligned tiles of the own store (R167). -/
def chkTrans (x : Core) (trans : Bool) (l n : Nat) : Check :=
  if !trans then .ok
  else mustBe (decide (l % transTile x = 0) && decide (n % transTile x = 0) && !(decide (Config.storeLines ≤ l) && decide (l < 5 * Config.storeLines)))

def chkLdq (s : State) (c : Nat) (w : W128) : Check :=
  let x := coreAt s c
  (chkRsv w 0 49).and ((chkTrans x (ldTrans w) (ldLaddr w) (ldLines w)).and
    ((mustBe (!(ldTrans w) || decide (ldStride w = 1))).and (lineRange s c (ldLaddr w) (ldLines w) (ldStride w))))

def chkStq (s : State) (c : Nat) (w : W128) : Check :=
  (chkRsv w 0 51).and (lineRange s c (stLaddr w) (stLines w) (stStride w))

def chkCopy (s : State) (c : Nat) (w : W128) : Check :=
  (chkRsv w 0 39).and ((chkTrans (coreAt s c) (cpTrans w) (cpSrc w) (cpLines w)).and
    ((lineRange s c (cpSrc w) (cpLines w) 1).and (lineRange s c (cpDst w) (cpLines w) 1)))

def chkWin (w : W128) : Check := (chkRsv w 64 27).and (mustBe (decide (wiEng w ≠ 0)))

/-- The window word a pass runs under: the shadow word where it swaps (R81, R122). -/
def passWin (x : Core) (e : Nat) (swap : Bool) : W64 := if swap then (engineAt x e).shadowWin else (engineAt x e).activeWin

/-- Reduction elements of a gang row per engine block, as multiples of an engine's rows (Table 3.10). -/
def gangRed (gang : Nat) : Nat := match gang with | 1 => 2 | 3 => 4 | _ => 1

/-- The block of the reduction that engine e of a gang holds. -/
def gangPart (gang e : Nat) : Nat := match gang with | 1 => e / 2 | 3 => e | _ => 0

/-- First byte of row r's scales for engine e, from the start of the store (R124). -/
def scaleByte (w : W128) (e r : Nat) : Nat :=
  64 * (psAscale w + if psGang w = 0 then e * psEoff w else 0) + r * (4 * gangRed (psGang w)) + 4 * gangPart (psGang w) e

/-- First activation line of row r for engine e (R124). -/
def rowLine (w : W128) (e r : Nat) : Nat :=
  psAline w + r * psAstride w + (if psGang w = 0 then e * psEoff w else 0) + 2 * gangPart (psGang w) e

def chkPass (x : Core) (w : W128) : Check :=
  let es := maskEngines (psEng w)
  let rs := List.range (psRows w)
  let acts := ownLines (es.flatMap (fun e => rs.map (fun r => rowLine w e r))) 2
  let scaled := es.filter (fun e => fmtScaled (winAfmt (passWin x e (psSwap w))))
  let scls := ownLines (scaled.flatMap (fun e => rs.map (fun r => scaleByte w e r / 64))) 1
  (chkRsv w 0 22).and ((mustBe (gangOk (psGang w) (psEng w) (psEoff w))).and (acts.and scls))

/-- Columns of an engine under a window word: 128, or 64 logical columns in the quad class (R86). -/
def winCols (w : W64) : Nat := if fmtQuad (winWfmt w) then 64 else 128

/-- The engines whose entries an output row of a gang takes, in column order (Table 3.10, assumption log 8). -/
def gangOuts (gang : Nat) : List Nat := match gang with | 1 => [0, 1] | 2 => [0, 1, 2, 3] | _ => [0]

/-- C, the outputs of a row drained by a gang. -/
def gangCols (x : Core) (gang e : Nat) : Nat :=
  if gang = 0 then winCols (engineAt x e).activeWin else (gangOuts gang).length * winCols (engineAt x 0).activeWin

def chkDrain (x : Core) (w : W128) : Check :=
  let gang := psGang w
  let es := if gang = 0 then maskEngines (psEng w) else [0]
  let rng := es.foldl (fun c e => c.and (ownLines
    ((List.range (psRows w)).map (fun i => drOline w + i * drOstride w + (if gang = 0 then e * drEoff w else 0)))
    (outLines (winOfmt (engineAt x e).activeWin) (gangCols x gang e)))) .ok
  (chkRsv w 0 33).and ((mustBe (gangOk gang (psEng w) (drEoff w) && decide (drFirst w + psRows w ≤ 256))).and rng)

def chkTcfg (w : W128) : Check := chkRsv w 0 38

/-- EW operations: whether source B is used. -/
def ewBinary (op : Nat) : Bool := decide (op ≤ 4)
def ewOpOk (op : Nat) : Bool := decide (op ≤ 6) || (decide (8 ≤ op) && decide (op ≤ 0xC)) || (decide (0x10 ≤ op) && decide (op ≤ 0x12)) ||
  decide (op = 0x18) || decide (op = 0x19)
/-- IMM bits that the operation does not use are zero (R127). -/
def ewImmOk (op imm : Nat) : Bool :=
  if op = 5 ∨ op = 6 then true else if op = 0x10 ∨ op = 0x11 then decide (imm < 1024)
  else if op = 0x18 ∨ op = 0x19 then decide (imm ≤ 2) else decide (imm = 0)
/-- Destination lines. -/
def ewDstLines (op lines : Nat) : Nat :=
  if op = 0x10 ∨ op = 0x11 then 2 else if op = 0x12 then 1 else if op = 0x18 then (lines + 1) / 2 else if op = 0x19 then 2 * lines else lines

def chkEw (w : W128) : Check :=
  let op := ewOp w
  let form := decide (bits w 0 4 = 0) && ewOpOk op && (decide (ewFmt w = 8) || decide (ewFmt w = 9)) && ewImmOk op (ewImm w) &&
    (ewBinary op || (!(ewBk w) && decide (ewB w = 0)))
  (mustBe form).and (((if ewAk w then .ok else ownLines [ewA w] (ewLines w)).and
    (if ewBinary op && !(ewBk w) then ownLines [ewB w] (ewLines w) else .ok)).and
    (if ewDk w then .ok else ownLines [ewD w] (ewDstLines op (ewLines w))))

/-! ### Tile shapes (R130, R131) -/

/-- Footprint of a gang shape in engine blocks: reduction, columns. -/
def gangFoot (g : Nat) : Nat × Nat := match g with | 1 => (2, 2) | 2 => (1, 4) | _ => (4, 1)

/-- What R130 chooses for a tile: block size, gang, reduction groups, column groups. -/
structure TileShape where
  b : Nat
  gang : Nat
  kgs : Nat
  ngs : Nat

def tileShape (wfmt k n : Nat) : TileShape :=
  let b := if fmtQuad wfmt then 64 else 128
  let kb := ceilDiv k b
  let nb := ceilDiv n b
  let loads (g : Nat) : Nat := ceilDiv kb (gangFoot g).1 * ceilDiv nb (gangFoot g).2
  let g := if loads 2 ≤ loads 3 ∧ loads 2 ≤ loads 1 then 2 else if loads 3 ≤ loads 1 then 3 else 1
  ⟨b, g, ceilDiv kb (gangFoot g).1, ceilDiv nb (gangFoot g).2⟩

/-- Tier blocks of a load's slot (R131). -/
def tileSlot (wfmt : Nat) : Nat := if fmtQuad wfmt || fmt4bit wfmt then 64 else 128

/-- Reduction and column block of engine e within a load of a shape. -/
def gangPlace (g e : Nat) : Nat × Nat := match g with | 1 => (e / 2, e % 2) | 2 => (0, e) | _ => (e, 0)

def chkTile (x : Core) (w : W128) : Check :=
  match x.tcfg with
  | none => .malformed
  | some t =>
    let win := (engineAt x 0).shadowWin
    let sh := tileShape (winWfmt win) (tiK w) (tiN w)
    let single := !(tiDrain w) || tiAcc w
    let form := decide (bits w 0 4 = 0) && !(single && (decide (256 < tiM w) || decide (1 < sh.ngs)))
    let esz := if fmtQuad (winAfmt win) then 2 else 1
    let loads := sh.kgs * sh.ngs
    let rows := List.range (tiM w)
    let acts := ownLines (rows.map (fun m => tiAline w + m * t.astride)) ((tiK w * esz + 63) / 64)
    let scl := if fmtScaled (winAfmt win) then ownLines [t.ascale] ((tiM w * ceilDiv (tiK w) 32 + 63) / 64) else .ok
    let wscl := if fmtScaled (winWfmt win) then ownLines [t.sline] (32 * loads) else .ok
    let outs := if tiDrain w then ownLines (rows.map (fun m => tiOline w + m * t.ostride)) (outLines (winOfmt win) (tiN w)) else .ok
    (mustBe form).and ((acts.and scl).and ((wscl.and outs).and (tierRange (tiWblk w) (loads * tileSlot (winWfmt win)))))

end Sys2Proof.Machine
end

