-- ==== Sys2Proof/Machine/Engine.lean ====
section
/-! DEFINITION. The matrix engine: refill, swap, rows of a pass, the accumulators and the drain (03). -/

namespace Sys2Proof.Machine

/-! ### What an engine holds -/

/-- Weight (k, j) is at key 128 k + j. -/
def Engine.weights (e : Engine) : List (Nat × Dy) :=
  if e.activeUndef = 0 then e.active
  else (List.range 16384).map (fun i => (i, ⟨Config.freeWeight e.activeUndef i, Config.freeWeight e.activeUndef (i + 16384)⟩))

/-- The row weight sums of the check cells. -/
def Engine.rowSum (e : Engine) (k : Nat) : Dy :=
  if e.activeUndef = 0 then tget Dy.zero e.activeSum k
  else ⟨Config.freeWeight e.activeUndef (k + 32768), Config.freeWeight e.activeUndef (k + 32896)⟩

def accHalf (r j : Nat) : Nat := 2 * r + j / 64

/-- Accumulator entry r of column j. -/
def Engine.accAt_ (e : Engine) (r j : Nat) : Long :=
  if e.accUndef = 0 ∨ accHalf r j ∈ e.accKnown then tget {} e.acc (128 * r + j)
  else ⟨Config.freeAcc e.accUndef (128 * r + j), Config.freeBase e.accUndef (128 * r + j)⟩

/-- Entry r of the columns of `vs`, in order: columns 0 on. The 64 logical columns of a quad-class pass have the files of columns 0 to 63
(assumption log 61). -/
def Engine.setAcc (e : Engine) (r : Nat) (vs : List Long) : Engine :=
  let acc := vs.zipIdx.foldl (fun a p => tset {} a (128 * r + p.2) p.1) e.acc
  let known := if e.accUndef = 0 then [] else
    ((List.range ((vs.length + 63) / 64)).map (fun h => 2 * r + h)).foldl (fun l h => if h ∈ l then l else h :: l) e.accKnown
  { e with acc := acc, accKnown := known }

/-- Engine state becomes undefined at the RUN that follows a STOP (R355): the free values of occasion `n`. -/
def Engine.undefine (e : Engine) (n : Nat) : Engine :=
  { e with
    active := [], shadow := [], activeSum := [], shadowSum := [], acc := [], accKnown := [],
    activeUndef := n, shadowUndef := n, accUndef := n,
    activeWin := Config.freeWindow n 0, shadowWin := Config.freeWindow n 1, level := Config.freeLevel n 0 % 5 }

/-- The engines of a core become undefined, each on an occasion of its own. -/
def undefineCore (s : State) (c : Nat) : State :=
  let n := s.freeCtr
  { updCore s c (fun x => [0, 1, 2, 3].foldl (fun (x : Core) (e : Nat) => updEngine x e (fun g => g.undefine (n + 1 + e))) x) with freeCtr := n + 4 }

/-! ### Faults of an engine (R107) -/

/-- A fault of a pass: the first of the pass is named, the others are counted. -/
def engineFault (s : State) (c e code low pass : Nat) : State :=
  if pass ∈ (engineAt (coreAt s c) e).named then updSaf s (fun x => { x with faults := satAdd x.faults 1 })
  else raiseCore (updCore s c (fun x => updEngine x e (fun g => { g with named := g.named ++ [pass] }))) c code low

/-! ### Exact values -/

/-- −2^127 ≤ v < 2^127 (Table 3.4). -/
def longOk (v : Int) : Bool := decide (-(2 ^ 127 : Int) ≤ v) && decide (v < 2 ^ 127)
/-- −2^63 ≤ v < 2^63. -/
def int64Ok (v : Int) : Bool := decide (-(2 ^ 63 : Int) ≤ v) && decide (v < 2 ^ 63)

/-- The value lies in a check cell's 128-bit register on the grid 2^g (R95). -/
def gridOk (x : Dy) (g : Int) : Bool :=
  x.lt (Dy.two (127 + g)) && !(x.lt (Dy.two (127 + g)).neg)

/-! ### Refill (R95, R101, R103, R121) -/

/-- One row's weights: value per column, with scales; a non-finite element or scale gives zero. -/
def refillRow (win : W64) (row scales : List Byte) (k : Nat) : List (Option Dy) :=
  let f := winWfmt win
  let cols := winCols win
  let n := leNat row
  (List.range cols).map (fun j =>
    let v := if fmt4bit f then fieldAt n (4 * j) 4 else if fmtQuad f then fieldAt n (16 * j) 16 else fieldAt n (8 * j) 8
    match elemValue f v with
    | none => none
    | some x =>
      if fmtScaled f then
        (match scaleValue (scales.getD (4 * j + k / 32) 0).toNat with
         | none => some Dy.zero
         | some sc => some (flush (x.mul sc) (winFlw win)))
      else some (flush x (winFlw win)))

/-- The exact sum of a row's weights, and whether it or a weight lies outside the check cell's register (R95). -/
def weightSum (win : W64) (xs : List Dy) : Dy × Bool :=
  let grid := winFlw win - fmtM (winWfmt win)
  let sum := Dy.sum xs
  (sum, !(gridOk sum grid) || xs.any (fun x => !(gridOk x grid)))

/-- Row k of the shadow weights and of their row sums. -/
def Engine.putRow (g : Engine) (k : Nat) (xs : List Dy) (sum : Dy) : Engine :=
  { g with
    shadow := g.shadow ++ (xs.zipIdx.filter (fun p => decide (p.1 ≠ Dy.zero))).map (fun p => (128 * k + p.2, p.1))
    shadowSum := tset Dy.zero g.shadowSum k sum }

/-- A refill begins: rows that it does not load are zero (R101). -/
def Engine.emptyShadow (g : Engine) : Engine := { g with shadow := [], shadowSum := [], shadowUndef := 0 }

/-- The detail of a refill fault: operand (0x05) or weight range (0x06). -/
def refillLow (e code row : Nat) : Nat :=
  if code = 5 then e * 2 ^ 40 + row * 2 ^ 32 + 2 ^ 31 else e * 2 ^ 42 + row * 2 ^ 34

/-- Row k of a refill under a window word, once its bytes and, for a scaled format, all its scales are there: its weights and its row sum;
a sum out of range is a fault, and the check cell then holds a free value (assumption log 6). -/
def fillRow (s : State) (c e : Nat) (win : W64) (row scales : List Byte) (k : Nat) : State :=
  let xs := (refillRow win row scales k).map (·.getD Dy.zero)
  let (sum, bad) := weightSum win xs
  if bad then
    let n := s.freeCtr + 1
    let s := updCore { s with freeCtr := n } c (fun x => updEngine x e (fun g => g.putRow k xs ⟨Config.freeWeight n k, Config.freeWeight n (k + 128)⟩))
    raiseCore s c 6 (refillLow e 6 k)
  else updCore s c (fun x => updEngine x e (fun g => g.putRow k xs sum))

/-- A refill ac writes row k: a NaN or infinity among its elements is an operand fault (R103). -/
def rowOperands (s : State) (c e : Nat) (win : W64) (row : List Byte) (k : Nat) : State :=
  if (refillRow win row (List.replicate 512 127) k).any (·.isNone) then raiseCore s c 5 (refillLow e 5 k) else s

/-- Scale piece i of a refill has arrived: its columns' scales 0xFF are operand faults, one for each block of 32 rows, named by its first row
(R101, R103, assumption log 61). -/
def pieceFaults (s : State) (c e i : Nat) (line : Line) : State :=
  let bs := (leBytes 64 line.toNat).drop (i % 2 * 32) |>.take 32
  forAll ((List.range 4).filter (fun q => (List.range 8).any (fun j => decide (bs.getD (4 * j + q) 0 = 0xFF)))) s
    (fun s q => raiseCore s c 5 (refillLow e 5 (32 * q)))

/-- The swap: shadow weights, sums and window become active as well (R81, R122). -/
def swapEngine (g : Engine) : Engine :=
  { g with active := g.shadow, activeSum := g.shadowSum, activeUndef := g.shadowUndef, activeWin := g.shadowWin }

/-! ### Rows of a pass (R80, R88, R89, R96) -/

/-- Activations of a row: the values, and whether an element or scale was non-finite. -/
def actRow (win : W64) (bytes scales : List Byte) : List Dy × Bool :=
  let f := winAfmt win
  let n := leNat bytes
  let xs := (List.range (winCols win)).map (fun k =>
    let v := if fmtQuad f then fieldAt n (16 * k) 16 else fieldAt n (8 * k) 8
    let sc := if fmtScaled f then scaleValue (scales.getD (k / 32) 0).toNat else some ⟨1, 0⟩
    match elemValue f v, sc with
    | some x, some y => (flush (x.mul y) (winFla win), false)
    | _, _ => (Dy.zero, true))
  (xs.map (·.1), xs.any (·.2))

/-- Column sums, check column sum and the columns of the overflowing products of a row. -/
structure RowSums where
  sums : List Int
  check : Dy
  ovf : List Nat

/-- Sums over the listed weights: a weight that is absent is zero and adds nothing. -/
def rowSums (g : Engine) (win : W64) (acts : List Dy) : RowSums :=
  let base := winBase win
  let cols := winCols win
  let parts := g.weights.filterMap (fun p =>
    let a := acts.getD (p.1 / 128) Dy.zero
    if a.isZero ∨ cols ≤ p.1 % 128 then none
    else
      let x := a.mul p.2
      let r := x.round base
      some (p.1 % 128, r, x.sub ⟨r, base⟩))
  let sums := parts.foldl (fun (t : Tbl Int) p => tset 0 t p.1 (tget 0 t p.1 + p.2.1)) []
  let head := Dy.sum (acts.zipIdx.map (fun p => p.1.mul (g.rowSum p.2)))
  let res := Dy.sum (parts.map (·.2.2))
  { sums := (List.range cols).map (fun j => tget 0 sums j)
    check := head.sub res
    ovf := (parts.filter (fun p => !(int64Ok p.2.1))).map (·.1) }

/-- A gang's combined sums (R92, Table 3.10): for the engine that takes them, those of its group added as long values. -/
def gangGroup (gang e : Nat) : Option (List Nat) :=
  match gang with
  | 1 => if e < 2 then some [e, e + 2] else none
  | 3 => if e = 0 then some [0, 1, 2, 3] else none
  | _ => some [e]

def addLists (a b : List Int) : List Int := List.zipWith (· + ·) a b

/-! ### A row's result (R82, R91, R92, R96, R97) -/

/-- The accumulator takes a row's sums, column by column: opened, or added under the base rule and the range check. An entry of another base
keeps what it holds (assumption log 61); one whose sum leaves 128 bits takes a free value (assumption log 6). Each such column is a fault. -/
def accumulate (s : State) (c e : Nat) (r : PassRow) (vs : List Int) : State :=
  let g := engineAt (coreAt s c) e
  let n := s.freeCtr + 1
  let new := vs.zipIdx.map (fun p =>
    let old := g.accAt_ r.row p.2
    if !r.add then ((⟨p.1, r.base⟩ : Long), 0)
    else if old.base ≠ r.base then (old, 4)
    else if longOk (old.v + p.1) then (⟨old.v + p.1, r.base⟩, 0)
    else (⟨Config.freeAcc n p.2, r.base⟩, 3))
  let s := if new.any (fun p => decide (p.2 = 3)) then { s with freeCtr := n } else s
  let s := updCore s c (fun x => updEngine x e (fun g => g.setAcc r.row (new.map (·.1))))
  forAll new.zipIdx s (fun s p =>
    if p.1.2 = 0 then s else engineFault s c e p.1.2 (e * 2 ^ 40 + (if p.1.2 = 3 then p.2 * 2 ^ 32 else 0)) r.passIndex)

/-- The checks of a row, 137 ac after its issue (R96, R97): the comparison, and each product or column sum outside its width, which is a
fault of its own, named by its column (R91). The exact sums go on (assumption log 61). -/
def rowCheck (s : State) (c e : Nat) (r : PassRow) : State :=
  let at_ := e * 2 ^ 42 + r.row * 2 ^ 34
  let total := r.sums.foldl (· + ·) 0
  let s := if (r.check.add ⟨r.delta - total, r.base⟩).isZero then s else engineFault s c e 1 (at_ + r.passIndex % 2 ^ 18 * 2 ^ 16) r.passIndex
  let colOver := (r.sums.zipIdx.filter (fun p => !(int64Ok p.1))).map (·.2)
  forAll (r.overs ++ colOver) s (fun s j => engineFault s c e 2 (at_ + j * 2 ^ 26) r.passIndex)

/-- A row in flight at unit time `t` (Table 3.8): compared at 137 ac, accumulated at 138. -/
def rowStep (s : State) (c e t : Nat) (r : PassRow) : State × PassRow :=
  let (s, r) := if r.stage = 0 ∧ r.at_ + 137 ≤ t then (rowCheck s c e r, { r with stage := 1 }) else (s, r)
  if r.stage = 1 ∧ r.at_ + 138 ≤ t then
    (match r.into with | some vs => accumulate s c e r vs | none => s, { r with stage := 2 })
  else (s, r)

/-- The rows of an engine at unit time `t`: an entry may be drained, and its row forgotten, at 139 ac (R98). -/
def rowsStep (s : State) (c e t : Nat) : State :=
  match (engineAt (coreAt s c) e).rows with
  | [] => s
  | rows =>
    let (s, rs) := rows.foldl (fun (a : State × List PassRow) r =>
      let (s, r) := rowStep a.1 c e t r
      (s, if r.at_ + 139 ≤ t then a.2 else a.2 ++ [r])) (s, [])
    updCore s c (fun x => updEngine x e (fun g => { g with rows := rs }))

/-! ### Draining (R98 to R100, R125) -/

/-- The 16 bytes of a long value. -/
def longBytes (v : Int) : List Byte := leBytes 16 (v % 2 ^ 128).toNat

/-- Bytes of one value under an output format, and whether it saturated. -/
def outValue (win : W64) (l : Long) : List Byte × Bool :=
  let f := winOfmt win
  if f = 0xF then (longBytes l.v, false)
  else
    let r := convert (outFmt f) ⟨l.v, l.base + winOshift win⟩
    (leBytes (outBytes f) r.1, r.2)

/-- The header line of a LONG row (R125). -/
def longHead (base : Int) (cols : Nat) : List Byte :=
  leBytes 2 (base % 65536).toNat ++ leBytes 2 cols ++ List.replicate 60 0

/-- Whole lines of an output row, zeros at its end (R149). -/
def rowLines (bs : List Byte) : List Line :=
  (List.range ((bs.length + 63) / 64)).map (fun i => BitVec.ofNat 512 (sliceNat bs (64 * i) 64))

def writeLines (s : State) (c l : Nat) (ds : List Line) : State := forAll ds.zipIdx s (fun s p => writeLine s c (l + p.2) p.1)

def addSat (s : State) (c e n : Nat) : State :=
  if n = 0 then s else updCore s c (fun x => updEngine x e (fun g => { g with satCount := satAdd g.satCount n }))

/-- The bytes of entry r of the engines `es` in column order, and the saturations of each. -/
def drainRow (x : Core) (es : List Nat) (wins : List W64) (r : Nat) : List Byte × List (Nat × Nat) × Bool :=
  let parts := es.map (fun e =>
    let win := wins.getD e 0
    let ls := (List.range (winCols win)).map (fun j => (engineAt x e).accAt_ r j)
    let vs := ls.map (outValue win)
    (vs.flatMap (·.1), (e, (vs.filter (·.2)).length), ls))
  let bases := (parts.flatMap (·.2.2)).map (·.base)
  let bytes := parts.flatMap (·.1)
  let win := wins.getD (es.headD 0) 0
  let head := if winOfmt win = 0xF then longHead (bases.headD 0) bases.length else []
  (head ++ bytes, parts.map (·.2.1), bases.any (fun b => decide (b ≠ bases.headD 0)))

/-! ### A row enters the arrays (R80, R103, R106) -/

/-- The bases of an engine's gang group differ, so its sums cannot be added (R92, R106). -/
def gangDiffers (x : Core) (es : List Nat) : Bool :=
  es.any (fun e => decide (winBase (engineAt x e).activeWin ≠ winBase (engineAt x (es.headD 0)).activeWin))

def noSums : RowSums := ⟨[], Dy.zero, []⟩

/-- Combine the sums of a row over the gang: for each engine, what enters its accumulator. A group whose windows differ raises a
mismatch and keeps its own sums (assumption log 8). -/
def gangInto (x : Core) (gang : Nat) (sums : Tbl RowSums) (e : Nat) : Option (List Int) :=
  let own := (tget noSums sums e).sums
  match gangGroup gang e with
  | none => none
  | some es =>
    if gangDiffers x es then some own
    else some (es.foldl (fun (a : List Int) k => if k = e then a else addLists a (tget noSums sums k).sums) own)

/-- Row r enters the arrays of the engines `es` at unit time `t` with the activations `acts` (and whether one was not finite) of each. -/
def enterRow (s : State) (c : Nat) (es : List Nat) (gang r t : Nat) (add : Bool) (acts : List (Nat × List Dy × Bool)) : State × Tbl RowSums :=
  let (sums, s) := acts.foldl (fun (a : Tbl RowSums × State) p =>
    let g := engineAt (coreAt a.2 c) p.1
    let s := if p.2.2 then engineFault a.2 c p.1 5 (p.1 * 2 ^ 40 + r * 2 ^ 32) g.passes else a.2
    (a.1 ++ [(p.1, rowSums g g.activeWin p.2.1)], s)) ([], s)
  let x := coreAt s c
  let s := if gang ≠ 0 ∧ es.any (fun e => match gangGroup gang e with | some g => gangDiffers x g | none => false) then raiseCore s c 4 (4 * 2 ^ 40)
    else s
  (forAll es s (fun s e =>
    let q := tget noSums sums e
    updCore s c (fun x => updEngine x e (fun g => { g with
      rows := g.rows ++ [⟨r, add, winBase g.activeWin, q.sums, q.check, q.ovf, gangInto (coreAt s c) gang sums e, g.passes, t, 0, 0⟩]
      lastRowAt := t }))), sums)

end Sys2Proof.Machine
end

