-- ==== Sys2Proof/Machine/Sigs.lean ====
section
/-! DEFINITION. Opposition: pass records, pass logs, tempo signatures, the SIG exchange and its comparison (R379 to R381). -/

namespace Sys2Proof.Machine

/-- CRC-32C of a list of words, 4 B each. -/
def crcWords (ws : List W32) : W32 := crc32c (ws.flatMap (fun w => leBytes 4 w.toNat))

/-- The pass signature: column sums of every row in row order, 8 B each, and the window base as 2 B (R380). -/
def passSig (rows : List (List Int)) (base : Int) : W32 :=
  crc32c (rows.flatten.flatMap (fun v => leBytes 8 (v % 2 ^ 64).toNat) ++ leBytes 2 (base % 65536).toNat)

def recordPass (s : State) (c e : Nat) (rows : List (List Int)) (base : Int) : State :=
  updCore s c (fun x => { x with passLog := x.passLog ++ [passSig rows base], passEng := x.passEng ++ [e] })

/-- The 4,096 entries at most of a pass log: the last one covers every record from 4,095 on (R380). -/
def logEntries (sigs : List W32) : List W32 :=
  if sigs.length ≤ 4095 then sigs else sigs.take 4095 ++ [crcWords (sigs.drop 4095)]

def tempoSig (sigs : List W32) : W32 := crcWords (logEntries sigs)

/-- An OPPOSE frame (Table 13.4). -/
def opposeFrame (count : W64) (kind part index arg : Nat) (vals : List W32) : Nat :=
  leNat (leBytes 8 count.toNat ++ leBytes 1 kind ++ leBytes 1 part ++ leBytes 2 index ++ leBytes 4 arg ++ List.replicate 16 0 ++
    (vals.take 32).flatMap (fun v => leBytes 4 v.toNat))

/-- Send a frame to the opposition peer on port 15. -/
def sendOppose (s : State) (payload : Nat) : State := sendControl s 15 0xA payload

/-- The serving signature: the tokens decided for every sampled row, in group and row order (R380). -/
def servSig (s : State) : W32 := crcWords (s.srv.sigToks.map (·.2))

/-- The pass log of the signatures sent, with the engine of each record: the running one, or the one of the ended tempo. -/
def sigLog (s : State) (core : Nat) : List W32 × List Nat :=
  match physicalOf s core with
  | none => ([], [])
  | some c =>
    let x := coreAt s c
    if s.tmp.working && decide (s.tmp.t = s.saf.sigCount) then (logEntries x.passLog, x.passEng) else (logEntries x.passLogOld, x.passEngOld)

/-- The frozen log goes out in LOG frames (R381). -/
def sendLog (s : State) (core : Nat) : State :=
  forAll (List.range 128) s (fun s i =>
    sendOppose s (opposeFrame s.saf.sigCount 1 core i 0 ((List.range 32).map (fun k => s.saf.oppLog.getD (32 * i + k) 0))))

/-- Once both sides' signatures are present they are compared; a difference raises 0x20, freezes the log and sends it (R380, R381).
`peerParts` 4 says that the comparison is done. -/
def compareSigs (s : State) : State :=
  let x := s.saf
  if x.oppActive && x.sigSent && decide (x.peerParts = 3) && decide (x.peerCount = x.sigCount) then
    let s := updSaf s (fun x => { x with peerParts := 4, sigDone := some x.sigCount })
    let diff := (List.range 64).filter (fun n => decide (x.ownSigs.getD n 0 ≠ tget 0 x.peerSigs n))
    let servDiff := decide (x.peerServ ≠ some x.ownServ)
    if diff.isEmpty && !servDiff then s
    else
      let core := diff.headD 0
      let s := raiseModule s 0x20 (core * 2 ^ 38)
      let s := updSaf s (fun x => { x with oppMismatch := satAdd x.oppMismatch 1 })
      if s.saf.frozen then s
      else
        let l := sigLog s core
        sendLog (updSaf s (fun x => { x with
          frozen := true, oppCore := core, oppLog := l.1, oppEng := l.2, oppFirstCnt := x.sigCount, peerLog := [], peerChunks := 0 })) core
  else s

/-- In opposition the module sends its SIG frames once every core is in the boundary wait (R380). -/
def sendSigs (s : State) : State :=
  if s.saf.oppActive && s.tmp.working then
    let sigs := (enabledCores s).map (fun c => tempoSig (coreAt s c).passLog)
    let serv := servSig s
    let s := updSaf s (fun x => { x with ownSigs := sigs, ownServ := serv, sigSent := true, sigCount := s.tmp.t })
    let s := sendOppose s (opposeFrame s.tmp.t 0 0 0 serv.toNat ((List.range 32).map (fun n => sigs.getD n 0)))
    let s := sendOppose s (opposeFrame s.tmp.t 0 1 0 0 ((List.range 32).map (fun n => sigs.getD (32 + n) 0)))
    compareSigs s
  else s

end Sys2Proof.Machine
end

