-- ==== Sys2Proof/Machine/Flow.lean ====
section
/-! DEFINITION. What the queue, copy and element units do with lines: the runs of lines they read, transposed or not, and the element
operations (R109, R126, R127, R148, R167). -/

namespace Sys2Proof.Machine

/-! ### Lines of the local map -/

/-- Bank-arbiter rank of an access to the store of core `n` by core `c`: its own rank, or the neighbour port's (Table 5.2). -/
def accessRank (c n l own : Nat) : Nat := if n = c then own else 9 * 16 + (l / Config.storeLines + 1) % 4

/-- The request of core `c` for a line of its 20-bit line space. -/
def reqAt (s : State) (c own l tag : Nat) (data : Option Line) : List Req :=
  match lineTarget s c l with
  | some (n, m) => [⟨accessRank c n l own, n, m, tag, data⟩]
  | none => []

/-- The line of a range lies in a neighbour window. -/
def isNeigh (l : Nat) : Bool := decide (Config.storeLines ≤ l)

/-- Transpose a tile of lines with elements of `size` bytes (R167). -/
def transpose (size : Nat) (tile : List Line) : List Line :=
  (List.range (64 / size)).map (fun i =>
    BitVec.ofNat 512 (tile.zipIdx.foldl (fun a p => a + bits p.1 (8 * size * i) (8 * size) * 2 ^ (8 * size * p.2)) 0))

/-! ### Element operations (R126, R127, Table 4.13) -/

def lanes (d : Line) : List Nat := (List.range 32).map (fun i => bits d (16 * i) 16)
def ofLanes (vs : List Nat) : Line := BitVec.ofNat 512 (vs.zipIdx.foldl (fun a p => a + p.1 % 65536 * 2 ^ (16 * p.2)) 0)

/-- What one source line gives: destination lines, the running state, and the faults and saturations. -/
structure EwOut where
  lines : List Line := []
  half : Option (List Byte) := none
  total : Int := 0
  best : Option W16 := none
  fault : Bool := false
  sats : Nat := 0

def mapLanes (rs : List LaneRes) : List Nat × Bool × Nat := (rs.map (·.enc), rs.any (·.fault), (rs.filter (·.sat)).length)

/-- Conversion of a lane to an 8-bit format, or of an 8-bit element to a lane: a NaN or infinity gives +0 and a fault; −0 gives a zero
whose sign the manual leaves open (assumption log 20). -/
def convElem (o : OutFmt) (op : Nat) (top : Nat) (v : Option Dy) (neg : Bool) : LaneRes :=
  match v with
  | none => { enc := 0, fault := true }
  | some x =>
    if x.isZero then { enc := if neg && Config.negZeroSign op && decide (top ≠ 0) then top else 0 }
    else
      let r := convert o x
      { enc := if r.1 = 0 ∧ x.m < 0 then top else r.1, sat := r.2 }

/-- The sign position of an output format's zero: none for integers. -/
def zeroTop (code : Nat) : Nat := if code = 2 then 0 else 128

/-- The larger lane of two for MAXR: −0 is the smaller. -/
def maxLane (fmt : Nat) (b : Option W16) (v : Nat) : Option W16 :=
  match b with
  | none => some (BitVec.ofNat 16 v)
  | some u =>
    let x := lane16 fmt u.toNat
    let y := lane16 fmt v
    match x.val, y.val with
    | some p, some q => if laneLess x y p q then some (BitVec.ofNat 16 v) else b
    | _, _ => b

/-- One source line through an operation; the unused upper bits of a queue-kind field are ignored (assumption log 61). -/
def ewLine (w : W128) (r : EwRun) (a b : Line) : EwOut :=
  let op := ewOp w
  let fmt := ewFmt w
  let keep : EwOut := { half := r.half, total := r.total, best := r.best }
  let as := lanes a
  if op ≤ 6 then
    let bs := if op ≤ 4 then lanes b else List.replicate 32 (ewImm w)
    let o := if op = 5 then 2 else if op = 6 then 0 else op
    let (vs, f, n) := mapLanes (List.zipWith (fun u v => laneBinary fmt o (lane16 fmt u) (lane16 fmt v)) as bs)
    { keep with lines := [ofLanes vs], fault := f, sats := n }
  else if op ≤ 0xC then
    let (vs, f, n) := mapLanes (as.map (fun u => laneUnary fmt op (lane16 fmt u)))
    { keep with lines := [ofLanes vs], fault := f, sats := n }
  else if op ≤ 0x11 then
    let g := signed 10 (ewImm w)
    let xs := as.map (fun u => elemValue fmt u)
    let part := xs.foldl (fun t v => match v with | some y => t + (if op = 0x11 then y.mul y else y).round g | none => t) 0
    { keep with total := r.total + part, fault := xs.any (·.isNone) }
  else if op = 0x12 then
    { keep with
        best := as.foldl (fun m u => maxLane fmt m (if (elemValue fmt u).isSome then u else 0)) r.best,
        fault := as.any (fun u => (elemValue fmt u).isNone) }
  else if op = 0x18 then
    let code := ewImm w
    let rs := as.map (fun u => convElem (outFmt code) op (zeroTop code) (elemValue fmt u) (decide (32768 ≤ u)))
    let bs := rs.map (fun x => BitVec.ofNat 8 x.enc)
    let (_, f, n) := mapLanes rs
    match r.half with
    | none => { keep with half := some bs, fault := f, sats := n }
    | some h => { keep with half := none, lines := [BitVec.ofNat 512 (leNat (h ++ bs))], fault := f, sats := n }
  else
    let code := ewImm w
    let rs := (bytesOfLine a).map (fun v =>
      convElem (ewOut fmt) op 32768 (elemValue code v.toNat) (decide (128 ≤ v.toNat) && decide (code ≠ 2)))
    let (vs, f, n) := mapLanes rs
    { keep with lines := [ofLanes (vs.take 32), ofLanes (vs.drop 32)], fault := f, sats := n }

/-- Latency L (Table 4.12). -/
def ewLatency (op : Nat) : Nat := if op ≤ 6 ∨ op = 0x18 ∨ op = 0x19 then 6 else if op ≤ 0xC then 14 else 12

/-- What the last source line adds: the reductions' lines, or a half line of CVT8 filled with zeros (R127, R149). -/
def ewFinish (w : W128) (r : EwRun) (free : Nat) : List Line × Bool :=
  let op := ewOp w
  if op = 0x10 ∨ op = 0x11 then
    let ok := longOk r.total
    let v := if ok then r.total else Config.freeAcc free 0
    ([BitVec.ofNat 512 (leNat (longHead (signed 10 (ewImm w)) 1)), BitVec.ofNat 512 (leNat (longBytes v))], !ok)
  else if op = 0x12 then ([ofLanes [(r.best.getD 0).toNat]], false)
  else match r.half with
    | some h => ([BitVec.ofNat 512 (leNat h)], false)
    | none => ([], false)

end Sys2Proof.Machine
end

