-- ==== Sys2Proof/Machine/Units.lean ====
section
/-! DEFINITION. The timelines of the scheduled units: what each operation does in each ac after its issue (Tables 4.1, 5.3, 6.1; R109, R121 to
R127, R145, R148, R167, R176, R208 to R213). A unit answers with the machine, the operation and the requests it posts for its banks; none: it
holds the operation for this ac. -/

namespace Sys2Proof.Machine

/-- What a unit answers for a step of an operation. -/
abbrev Fired : Type := Option (State × Op × List Req)

/-- The line that an operation has read under a name of its own; a line that was not delivered is zero. -/
def Op.line (o : Op) (tag : Nat) : Line := match o.lines.find? (fun p => decide (p.1 = tag)) with | some p => p.2 | none => 0

/-- The tier block that an operation has read under a name. -/
def Op.blk (o : Op) (tag : Nat) : Option (List Byte × Bool) := (o.blks.find? (fun p => decide (p.1 = tag))).map (·.2)

def Op.dropBelow (o : Op) (tag : Nat) : Op := { o with lines := o.lines.filter (fun p => decide (tag ≤ p.1)) }

/-- Requests for the lines that the operation writes at step `k`. -/
def outReqs (s : State) (c own : Nat) (o : Op) (k : Nat) : List Req :=
  (o.outs.filter (fun u => decide (u.step = k))).flatMap (fun u => reqAt s c own u.line u.line (some u.data))

def Op.dropOuts (o : Op) (k : Nat) : Op := { o with outs := o.outs.filter (fun u => decide (k < u.step)) }

/-! ### Runs of lines (R148, R167) -/

/-- A run of line reads: first line, lines, stride, and whether it is transposed. -/
structure LineRun where
  l : Nat
  n : Nat
  stride : Nat
  trans : Bool

/-- Requests of a run at step `k` (Tables 5.3, 5.8). -/
def runReads (s : State) (c own : Nat) (r : LineRun) (k : Nat) : List Req :=
  if r.trans then
    let tile := transTile (coreAt s c)
    let g := (k - 1) / tile
    let j := (k - 1) % tile
    if 1 ≤ k ∧ g * tile < r.n ∧ 32 * j < tile then
      (List.range (min 32 tile)).flatMap (fun i => let n := g * tile + 32 * j + i; reqAt s c own (r.l + n) n none)
    else []
  else
    let first := if isNeigh r.l then 3 else 1
    if first ≤ k ∧ k < first + r.n then reqAt s c own (r.l + r.stride * (k - first)) (k - first) none else []

/-- The step at which a run delivers its first line to the unit. -/
def runLag (x : Core) (r : LineRun) : Nat :=
  if isNeigh r.l then 5 else if r.trans && decide (transTile x = 64) then 3 else 2

/-- Line i that a run delivers. -/
def runLine (x : Core) (o : Op) (r : LineRun) (i : Nat) : Line :=
  if r.trans then
    let tile := transTile x
    (transpose (2 ^ transElem x) ((List.range tile).map (fun j => o.line (i / tile * tile + j)))).getD (i % tile) 0
  else o.line i

/-- What a run still needs after line i. -/
def runDrop (x : Core) (o : Op) (r : LineRun) (i : Nat) : Op :=
  o.dropBelow (if r.trans then (i + 1) / transTile x * transTile x else i + 1)

/-- The step of a run's last read. -/
def runLastRead (x : Core) (r : LineRun) : Nat :=
  if r.trans then
    let tile := transTile x
    (r.n / tile - 1) * tile + (if tile = 64 then 2 else 1)
  else (if isNeigh r.l then 2 else 0) + r.n

def ldqRun (w : W128) : LineRun := ⟨ldLaddr w, ldLines w, ldStride w, ldTrans w⟩
def copyRun (w : W128) : LineRun := ⟨cpSrc w, cpLines w, 1, cpTrans w⟩

/-! ### The queue and copy units (R109, R148) -/

def fireLdq (s : State) (c : Nat) (o : Op) (k : Nat) : Fired :=
  let x := coreAt s c
  let r := ldqRun o.word
  let q := ldQueue o.word
  let i := k - runLag x r
  if runLag x r ≤ k ∧ i < r.n then
    if 16 ≤ (tget [] x.qin q).length then none
    else
      let s' := setCore s c { x with qin := tset [] x.qin q (tget [] x.qin q ++ [⟨runLine x o r i, clk s c⟩]) }
      some (s', runDrop x o r i, runReads s c (6 * 16 + q) r k)
  else some (s, o, runReads s c (6 * 16 + q) r k)

def fireCopy (s : State) (c : Nat) (o : Op) (k : Nat) : Fired :=
  let x := coreAt s c
  let r := copyRun o.word
  let lag := runLag x r + (if isNeigh (cpDst o.word) then 2 else 0)
  let i := k - lag
  let reads := runReads s c (7 * 16) r k
  if lag ≤ k ∧ i < r.n then
    let l := cpDst o.word + i
    some (s, runDrop x o r i, reads ++ reqAt s c (7 * 16 + 1) l (2 ^ 20 + l) (some (runLine x o r i)))
  else some (s, o, reads)

/-- The head of an X→A or A→X queue that a pop at this ac sees. -/
def headAt (q : List QEntry) (t : Nat) : Option (Line × List QEntry) :=
  match q with
  | e :: rest => if e.at_ < t then some (e.data, rest) else none
  | [] => none

def fireStq (s : State) (c : Nat) (o : Op) (k : Nat) : Fired :=
  let x := coreAt s c
  let w := o.word
  let q := stQueue w
  let own := 6 * 16 + 4 + q
  if 1 ≤ k ∧ k ≤ stLines w then
    match headAt (tget [] x.qout q) (clk s c) with
    | none => none
    | some (d, rest) =>
      let l := stLaddr w + stStride w * (k - 1)
      let o := { o with outs := o.outs ++ [⟨k + (if isNeigh l then 3 else 1), l, d⟩] }
      some (setCore s c { x with qout := tset [] x.qout q rest }, o.dropOuts k, outReqs s c own o k)
  else some (s, o.dropOuts k, outReqs s c own o k)

/-! ### The element unit (R126, R127) -/

/-- Add destination lines at a step. -/
def ewEmit (w : W128) (o : Op) (r : EwRun) (step : Nat) (ds : List Line) : Op × EwRun :=
  ({ o with outs := o.outs ++ ds.zipIdx.map (fun p => ⟨step, ewD w + r.written + p.2, p.1⟩) }, { r with written := r.written + ds.length })

/-- Source line i, now read, goes through the operation; the last one ends the reductions. -/
def ewTake (s : State) (c : Nat) (o : Op) (r : EwRun) (i : Nat) : State × Op :=
  let w := o.word
  let n := ewLines w
  let y := ewLine w r (o.line (2 * i)) (o.line (2 * i + 1))
  let s := if y.fault then raiseCore s c 5 (5 * 2 ^ 40 + i % 256 * 2 ^ 32) else s
  let s := addSat s c 0 y.sats
  let (o, r) := ewEmit w (o.dropBelow (2 * i + 2)) { r with line := i + 1, half := y.half, total := y.total, best := y.best } (1 + i + ewLatency (ewOp w)) y.lines
  if i + 1 < n then (s, { o with prog := .element r })
  else
    let (ds, over_) := ewFinish w r (s.freeCtr + 1)
    let s := if over_ then raiseCore { s with freeCtr := s.freeCtr + 1 } c 3 (5 * 2 ^ 40) else s
    let red := decide (0x10 ≤ ewOp w) && decide (ewOp w ≤ 0x12)
    let (o, r) := ewEmit w o r (if red then n + 12 else n + ewLatency (ewOp w)) ds
    (s, { o with prog := .element r })

/-- The step of the element operation's last destination line. -/
def ewLast (w : W128) : Nat :=
  ewLines w + (if 0x10 ≤ ewOp w ∧ ewOp w ≤ 0x12 then 12 else ewLatency (ewOp w))

/-- A source of an EW: popped now, or requested from its bank. -/
def ewGet (s : State) (c : Nat) (queue : Bool) (f i tag : Nat) : Option (State × List (Nat × Line) × List Req) :=
  if queue then
    let x := coreAt s c
    match headAt (tget [] x.qin (f % 4)) (clk s c) with
    | none => none
    | some (d, rest) => some (setCore s c { x with qin := tset [] x.qin (f % 4) rest }, [(tag, d)], [])
  else some (s, [], reqAt s c (5 * 16) (f + i) tag none)

def fireEw (s : State) (c : Nat) (o : Op) (k : Nat) : Fired :=
  let w := o.word
  match o.prog with
  | .element r =>
    let x := coreAt s c
    let n := ewLines w
    let q := ewD w % 2
    let have_ := tget [] x.qout q
    let (s1, o1) := if 2 ≤ k ∧ k - 2 < n then ewTake s c o r (k - 2) else (s, o)
    let due := o1.outs.filter (fun u => decide (u.step = k))
    if ewDk w && decide (16 < have_.length + due.length) then none
    else
      let got : Option (State × List (Nat × Line) × List Req) :=
        if 1 ≤ k ∧ k ≤ n then
          match ewGet s1 c (ewAk w) (ewA w) (k - 1) (2 * (k - 1)) with
          | none => none
          | some (s2, la, ra) =>
            if ewBinary (ewOp w) then
              (ewGet s2 c (ewBk w) (ewB w) (k - 1) (2 * (k - 1) + 1)).map (fun p => (p.1, la ++ p.2.1, ra ++ p.2.2))
            else some (s2, la, ra)
        else some (s1, [], [])
      got.map (fun (s2, ls, rs) =>
        let s3 := if ewDk w then updCore s2 c (fun x => { x with qout := tset [] x.qout q (tget [] x.qout q ++ due.map (fun u => ⟨u.data, clk s2 c⟩)) })
          else s2
        (s3, { o1.dropOuts k with lines := o1.lines ++ ls }, rs ++ (if ewDk w then [] else outReqs s2 c (5 * 16 + 1) o1 k)))
  | _ => some (s, o, [])

/-! ### The tier unit: TRD and TWR without Tweed (R176, Table 6.1) -/

/-- The lines of a block under their names from `tag` on. -/
def blockLines (tag : Nat) (bs : List Byte) : List (Nat × Line) :=
  (List.range 8).map (fun i => (tag + i, BitVec.ofNat 512 (sliceNat bs (64 * i) 64)))

def fireTrd (s : State) (c : Nat) (o : Op) (k : Nat) : Fired :=
  let w := o.word
  let n := trBlocks w
  let m := ceilDiv n 2
  let (s, o) := if 1 ≤ k ∧ k ≤ m then
      ([2 * (k - 1), 2 * (k - 1) + 1].filter (fun b => decide (b < n))).foldl (fun (a : State × Op) b =>
        let (d, _, s) := readBlock a.1 c (trTblk w + b) true
        (s, { a.2 with lines := a.2.lines ++ blockLines (8 * b) d })) (s, o)
    else (s, o)
  if 13 ≤ k ∧ k < 13 + m then
    let first := 16 * (k - 13)
    let ws := ((List.range 16).map (first + ·)).filter (fun i => decide (i < 8 * n))
    some (s, o.dropBelow (first + 16), ws.flatMap (fun i => reqAt s c (4 * 16) (trLaddr w + i) (2 ^ 20 + i) (some (o.line i))))
  else some (s, o, [])

/-- The bytes of `n` lines that an operation has read, from name `tag` on. -/
def Op.bytes (o : Op) (tag n : Nat) : List Byte := (List.range n).flatMap (fun i => leBytes 64 (o.line (tag + i)).toNat)

/-- Requests for 16 source lines of a TWR, from line `first` of its source on. -/
def sourceReads (s : State) (c : Nat) (w : W128) (first : Nat) : List Req :=
  (((List.range 16).map (first + ·)).filter (fun i => decide (i < 8 * trBlocks w))).flatMap (fun i => reqAt s c (4 * 16) (trLaddr w + i) i none)

def fireTwr (s : State) (c : Nat) (o : Op) (k : Nat) : Fired :=
  let w := o.word
  let n := trBlocks w
  let m := ceilDiv n 2
  let reads := if 1 ≤ k ∧ k ≤ m then sourceReads s c w (16 * (k - 1)) else []
  if 5 ≤ k ∧ k < 5 + m then
    let b := 2 * (k - 5)
    let s := forAll ([b, b + 1].filter (fun b => decide (b < n))) s (fun s b => writeBlock s c (trTblk w + b) (o.bytes (8 * b) 8))
    some (s, o.dropBelow (8 * b + 16), reads)
  else some (s, o, reads)

/-! ### Refills (R95, R101 to R103, R121, R122) -/

/-- The window word of one part of a refill: the shadow window until its first shadow-weight write, then the word it had there. -/
def refillWin (x : Core) (r : RefillRun) : W64 := r.win.getD (engineAt x r.engine).shadowWin

/-- Refill time over the parts of a refill (R101). -/
def refillTime (x : Core) (rs : List RefillRun) : Nat := (rs.map (fun r => refillAc (winWfmt (refillWin x r)) r.rows)).foldl max 0

/-- Rows that an ac writes. -/
def rowsPerAc (win : W64) : Nat := if fmt4bit (winWfmt win) then 4 else 2

def refillTag (r : RefillRun) (b : Nat) : Nat := (r.engine * 2 ^ 20 + r.blk) * 256 + b

/-- The tier block that shadow-write ac j of a part starts, crosses the port: 256 B an ac. -/
def refillCross (s : State) (c : Nat) (o : Op) (r : RefillRun) (j : Nat) : State × Op :=
  let bytes := r.rows * rowBytes (winWfmt (refillWin (coreAt s c) r))
  if j % 2 = 0 ∧ 256 * j < bytes ∧ (o.blk (refillTag r (j / 2))).isNone then
    let (d, ok, s) := readBlock s c (r.blk + j / 2) true
    (s, { o with blks := o.blks ++ [(refillTag r (j / 2), d, ok)] })
  else (s, o)

/-- The scale piece that a part reads in ac j of its writes. -/
def refillScale (s : State) (c : Nat) (r : RefillRun) (j : Nat) : List Req :=
  if fmtScaled (winWfmt (refillWin (coreAt s c) r)) ∧ j < 16 then reqAt s c (2 * 16) (r.sline + j / 2) (r.engine * 16 + j) none else []

/-- A refill's writes begin: the shadow windows are fixed and the shadow weights are empty. -/
def refillBegin (s : State) (c : Nat) (o : Op) : State × Op :=
  let x := coreAt s c
  let o := { o with refills := o.refills.map (fun r => { r with win := some (refillWin x r) }) }
  (forAll o.refills s (fun s r => updCore s c (fun x => updEngine x r.engine Engine.emptyShadow)), o)

/-- Row k of a part of a refill: its bytes and the machine after the read, should its block not have crossed under the word in force. -/
def refillRowBytes (s : State) (c : Nat) (o : Op) (r : RefillRun) (k : Nat) : List Byte × State :=
  let n := rowBytes (winWfmt (refillWin (coreAt s c) r))
  let b := k * n / 512
  match o.blk (refillTag r b) with
  | some (d, _) => (slice d (k * n % 512) n, s)
  | none => let (d, _, s) := readBlock s c (r.blk + b) true; (slice d (k * n % 512) n, s)

/-- What one part of a refill has of rows and scales is put into the engine: rows written by ac j, complete once all 16 scale pieces of a
scaled format are there (R95, R101). -/
def refillPart (s : State) (c : Nat) (o : Op) (r : RefillRun) (j : Nat) : State × RefillRun :=
  match r.win with
  | none => (s, r)
  | some win =>
    let avail := min r.rows (rowsPerAc win * j)
    let pieces := (List.range 16).map (fun i => (o.lines.find? (fun p => decide (p.1 = r.engine * 16 + i))).map (·.2))
    let scaled := fmtScaled (winWfmt win)
    let full := if scaled && pieces.any (·.isNone) then r.full else avail
    let scales := if scaled then pieces.zipIdx.flatMap (fun p => ((leBytes 64 (p.1.getD 0).toNat).drop (p.2 % 2 * 32)).take 32) else []
    let s := (List.range (avail - r.seen)).foldl (fun s i =>
      let (bs, s) := refillRowBytes s c o r (r.seen + i)
      rowOperands s c r.engine win bs (r.seen + i)) s
    let s := (List.range (full - r.full)).foldl (fun s i =>
      let (bs, s) := refillRowBytes s c o r (r.full + i)
      fillRow s c r.engine win bs scales (r.full + i)) s
    (s, { r with seen := avail, full := full })

/-- The parts of an operation's refill after the ac of its write j − 1. -/
def refillParts (s : State) (c : Nat) (o : Op) (j : Nat) : State × Op :=
  let (s, rs) := o.refills.foldl (fun (a : State × List RefillRun) r =>
    let (s, r) := refillPart a.1 c o r j
    (s, a.2 ++ [r])) (s, [])
  (s, { o with refills := rs })

/-- A swapping pass of engine e that stands before place i in the core's order has not swapped yet (R102). -/
def swapWaits (x : Core) (i e : Nat) : Bool :=
  (x.ops.take i).any (fun p => match p.prog with
    | .pass start _ => psSwap p.word && decide (e ∈ maskEngines (psEng p.word)) && (match start with | some t => decide (p.step ≤ t) | none => true)
    | _ => false)

def fireRefill (s : State) (c i : Nat) (o : Op) (k : Nat) : Fired :=
  if k = 13 ∧ o.refills.any (fun r => swapWaits (coreAt s c) i r.engine) then none
  else
    let (s, o) := if 1 ≤ k ∧ k ≤ refillTime (coreAt s c) o.refills then
        o.refills.foldl (fun (a : State × Op) r => refillCross a.1 c a.2 r (k - 1)) (s, o)
      else (s, o)
    let (s, o) := if k = 13 then
        let (s, o) := refillBegin s c o
        (s, { o with last := some (12 + refillTime (coreAt s c) o.refills) })
      else (s, o)
    some (s, o, if 13 ≤ k then o.refills.flatMap (fun r => refillScale s c r (k - 13)) else [])

/-! ### Passes (R80 to R82, R104, R106, R124) -/

/-- The active window of an engine at the end of this ac: a WIN of the ac comes with it (R122). -/
def winSoon (x : Core) (e : Nat) (active : Bool) : W64 :=
  let g := engineAt x e
  let now := if active then g.activeWin else g.shadowWin
  match x.winDue with
  | some w => if wiTgt w = active ∧ e ∈ maskEngines (wiEng w) then wiWord w else now
  | none => now

/-- The lowest activity level of engines (R104). -/
def minLevel (x : Core) (es : List Nat) : Nat := (es.map (fun e => (engineAt x e).level)).foldl min 4

/-- The requests of row r of a PASS under the windows it will enter with: an engine's lines, lower first, then its scales; in a gang a line
is read once and sent to every engine that takes it (Table 3.10). -/
def passReads (s : State) (c : Nat) (w : W128) (r : Nat) : List Req :=
  let x := coreAt s c
  let per (e : Nat) : List (Nat × Nat) :=
    let l := rowLine w e r
    let sc := if fmtScaled (winAfmt (winSoon x e (!(psSwap w && decide (r = 0))))) then [scaleByte w e r / 64] else []
    ([l, l + 1] ++ sc).map (fun l => (e, l))
  let all := (maskEngines (psEng w)).flatMap per
  let once := if psGang w = 0 then all else all.foldl (fun a p => if a.any (fun q => decide (q.2 = p.2)) then a else a ++ [p]) []
  once.flatMap (fun p => reqAt s c (16 + p.1) p.2 p.2 none)

/-- The activations of row r for engine e of a PASS, from the lines read. -/
def passActs (x : Core) (o : Op) (e r : Nat) : List Dy × Bool :=
  let w := o.word
  let win := (engineAt x e).activeWin
  let b := scaleByte w e r
  actRow win (o.bytes (rowLine w e r) 2) (slice (leBytes 64 (o.line (b / 64)).toNat) (b % 64) 4)

/-- The swap of engines: weights, sums and window (R81). -/
def swapEngines (s : State) (c : Nat) (es : List Nat) : State := forAll es s (fun s e => updCore s c (fun x => updEngine x e swapEngine))

/-- A row's sums join the signatures of their passes. -/
def noteSums (runs : List PassRun) (sums : Tbl RowSums) : List PassRun :=
  runs.map (fun p => { p with sums := p.sums ++ [(tget noSums sums p.engine).sums] })

/-- The last row of a pass has entered: its record takes its place in the pass log, and the next pass has the next index (R380). -/
def passDone (s : State) (c : Nat) (runs : List PassRun) : State :=
  forAll runs s (fun s p => updCore s c (fun x =>
    let sig := passSig p.sums (winBase (engineAt x p.engine).activeWin)
    updEngine { x with passLog := x.passLog.take p.logAt ++ [sig] ++ x.passLog.drop (p.logAt + 1) } p.engine
      (fun g => { g with passes := g.passes + 1 })))

/-- A refill of engine e is between its first and its last write (R102). -/
def refillRuns (x : Core) (e : Nat) : Bool :=
  x.ops.any (fun o => match o.prog with
    | .refill => decide (13 < o.step) && o.refills.any (fun r => decide (r.engine = e))
    | _ => false)

/-- Engines ramp in: their level in the next ac is at least `lvl` (R104). -/
def setLevel (s : State) (c lvl : Nat) (es : List Nat) : State :=
  forAll es s (fun s e => updCore s c (fun x => updEngine x e (fun g => { g with level := max g.level lvl })))

def firePass (s : State) (c : Nat) (o : Op) (k : Nat) : Fired :=
  match o.prog with
  | .pass start runs =>
    let w := o.word
    let es := maskEngines (psEng w)
    let n := psRows w
    let first := start.getD (1 + 8 * (4 - minLevel (coreAt s c) es))
    let o := { o with prog := .pass (some first) runs, last := some (first + n + 137) }
    if k < first then
      let s := setLevel s c (4 - (first - 1 - k + 7) / 8) es
      some (s, o, if k + 1 = first then passReads s c w 0 else [])
    else if first + n ≤ k then some (s, o, [])
    else if k = first ∧ psSwap w = true ∧ es.any (refillRuns (coreAt s c)) then none
    else
      let r := k - first
      let s := if r = 0 ∧ psSwap w = true then swapEngines s c es else s
      let (s, sums) := enterRow s c es (psGang w) r (clk s c) (psAdd w) (es.map (fun e => (e, passActs (coreAt s c) o e r)))
      let runs := noteSums runs sums
      let s := if r + 1 = n then passDone s c runs else s
      some (s, { o with prog := .pass (some first) runs, lines := [] }, if r + 1 < n then passReads s c w (r + 1) else [])
  | _ => some (s, o, [])

/-! ### Drains (R98 to R100, R125) -/

/-- A row in flight, or one to come of a pass that stands before place i, acts on an entry that may not be drained yet (R98). -/
def entryBusy (x : Core) (i e r t : Nat) : Bool :=
  (engineAt x e).rows.any (fun p => decide (p.row = r) && decide (t < p.at_ + 139)) ||
  (x.ops.take i).any (fun p => match p.prog with
    | .pass start _ => decide (e ∈ maskEngines (psEng p.word)) && decide (r < psRows p.word) &&
        (match start with | some f => decide (p.step ≤ f + r) | none => true)
    | _ => false)

/-- The entry that a run of a drain reads at step `k`. -/
def DrainRun.at_ (r : DrainRun) (k : Nat) : Option Nat :=
  if r.start ≤ k ∧ (k - r.start) % r.interval = 0 ∧ (k - r.start) / r.interval < r.rows then some ((k - r.start) / r.interval) else none

/-- Row i of a run of a DRAIN: its values, the mismatch of a gang's bases, the saturations, and its lines, written 2 ac after (R125). -/
def drainRow1 (s : State) (c : Nat) (o : Op) (r : DrainRun) (i k : Nat) : State × Op :=
  let (bs, sats, differ) := drainRow (coreAt s c) r.es o.wins (r.first + i)
  let s := if differ then raiseCore s c 4 (4 * 2 ^ 40) else s
  let s := forAll sats s (fun s p => addSat s c p.1 p.2)
  let l := drOline o.word + i * drOstride o.word + r.off
  (s, { o with outs := o.outs ++ (rowLines bs).zipIdx.map (fun p => ⟨k + 2, l + p.2, p.1⟩) })

def fireDrain (s : State) (c i : Nat) (o : Op) (k : Nat) : Fired :=
  match o.prog with
  | .drain runs =>
    let x := coreAt s c
    let due := runs.filterMap (fun r => (r.at_ k).map (fun j => (r, j)))
    if due.any (fun p => p.1.es.any (fun e => entryBusy x i e (p.1.first + p.2) (clk s c))) then none
    else
      let (s, o) := due.foldl (fun (a : State × Op) p => drainRow1 a.1 c a.2 p.1 p.2 k) (s, o)
      some (s, o.dropOuts k, outReqs s c (3 * 16) o k)
  | _ => some (s, o, [])

/-! ### Tweed (R198 to R214) -/

/-- A codec fault: the counts, the fault, no signal, and the bypass of its object from the next ac on (R211, R212). -/
def codecFault (s : State) (c : Nat) (w : W128) (cause : Nat) : State :=
  let s := updTiers s (fun t => { t with
    codecFaults := satAdd t.codecFaults 1, codecLast := BitVec.ofNat 32 (logicalOf s c * 2 ^ 16 + cause) })
  let s := raiseCore s c 0x0F (cause * 2 ^ 36)
  if wSop w = 0 then s
  else updCore s c (fun x => { x with bypass := x.bypass ++ [BitVec.ofNat 8 (wSobj w)] })

/-- The first block of a segment as read. -/
def segHead (o : Op) : List Byte := ((o.blk 0).getD ([], false)).1

/-- Tier blocks that the decoder reads: those that the segment occupies, as far as its header holds (R201). -/
def segBlocks (o : Op) : Nat :=
  let n := trBlocks o.word
  match o.blk 0 with
  | none => min n 2
  | some (h, ok) => if ok && twHeadOk h then min n (ceilDiv (twClines h) 8) else min n 2

/-- The segment as read so far, and which of its blocks were delivered. -/
def segBytes (o : Op) : List Byte := o.blks.flatMap (·.2.1)
def segOk (o : Op) : List Bool := o.blks.map (·.2.2)

/-- The decode ends with a cause at step `k`; blocks that verified before it are still written. -/
def decodeFail (s : State) (c : Nat) (o : Op) (r : DecodeRun) (k cause : Nat) : State × Op :=
  (codecFault s c o.word cause,
   { o with noSignal := true, prog := .decode { r with cause := some cause }, last := some (o.outs.foldl (fun m u => max m u.step) k) })

/-- The segment's header and codebook (Table 7.5, causes 1 to 4). -/
def decodeHead (s : State) (c : Nat) (o : Op) (r : DecodeRun) (k : Nat) : State × Op :=
  let h := segHead o
  let lines := ceilDiv (twEntries h) 16
  let hbytes := 64 * (1 + lines)
  if k < 14 then (s, o)
  else if k = 14 then
    if ((o.blk 0).getD ([], false)).2 = false then decodeFail s c o r k 0xD
    else match twHeadCause h (trBlocks o.word) (Config.storeLines - trLaddr o.word) with
      | some cause => decodeFail s c o r k cause
      | none => (s, { o with prog := .decode { r with left := twUlines h, out := ceilDiv hbytes 1024, endAt := 14 + ceilDiv hbytes 1024 } })
  else if k < r.endAt then (s, o)
  else
    let seg := segBytes o
    let n := twEntries h
    match twFmt (sliceNat h 3 1 % 16) with
    | none => (s, o)
    | some f =>
      if twFenced (segOk o) 0 (1 + lines) then decodeFail s c o r k 0xD
      else if (List.range n).any (fun i => twWordBad f (sliceNat seg (64 + 4 * i) 4)) || decide (sliceNat seg (64 + 4 * n) (64 * lines - 4 * n) ≠ 0) then
        decodeFail s c o r k 4
      else (s, { o with prog := .decode { r with line := 1 + lines } })

/-- The next block of the segment: its header is judged when it has arrived, the block at its end; a block that verifies is written at 16
lines an ac from the next ac on (R208, R210). -/
def decodeBlock (s : State) (c : Nat) (o : Op) (r : DecodeRun) (k : Nat) : State × Op :=
  let h := segHead o
  if k < 14 + max (ceilDiv (64 * (r.line + 1)) 1024) r.out then (s, o)
  else
    let seg := segBytes o
    let ul := sliceNat seg (64 * r.line) 4 % 1024 + 1
    let cl := sliceNat seg (64 * r.line + 4) 4 % 2048 + 1
    let want := min r.left 1024
    if twFenced (segOk o) r.line 1 then decodeFail s c o r k 0xD
    else if r.line < twClines h ∧ ul ≠ want then decodeFail s c o r k (if ul < want then 5 else 6)
    else if k < 14 + max (ceilDiv (64 * min (twClines h) (r.line + cl)) 1024) (r.out + ceilDiv (64 * want) 1024) then (s, o)
    else match twFmt (sliceNat h 3 1 % 16) with
      | none => (s, o)
      | some f =>
        let book := (List.range (twEntries h)).map (fun i => sliceNat seg (64 + 4 * i) 4)
        let b := twBlock f book seg (twClines h) r.line r.left
        if twFenced (segOk o) r.line b.lines then decodeFail s c o r k 0xD
        else match b.cause with
          | some cause => decodeFail s c o r k cause
          | none =>
            let outs := (rowLines b.out).zipIdx.map (fun p => (⟨k + 1 + p.2 / 16, trLaddr o.word + r.written + p.2, p.1⟩ : Out))
            (s, { o with
              outs := o.outs ++ outs
              prog := .decode { r with
                line := r.line + b.lines, left := r.left - want, out := r.out + ceilDiv (64 * want) 1024,
                written := r.written + want, endAt := k + ceilDiv want 16 } })

/-- The end of the segment, once its last block is written (causes 7 and 9). -/
def decodeEnd (s : State) (c : Nat) (o : Op) (r : DecodeRun) (k : Nat) : State × Op :=
  if k < r.endAt then (s, o)
  else
    let seg := segBytes o
    let n := twClines (segHead o)
    match lowestCause [(decide (r.line < n), 7), (decide (sliceNat seg (64 * n) (seg.length - 64 * n) ≠ 0), 9)] with
    | some cause => decodeFail s c o r k cause
    | none => (s, { o with last := some k })

/-- The blocks that cross the port at step `k` of a TRD with CODEC = 1. -/
def decodeCross (s : State) (c : Nat) (o : Op) (k : Nat) : State × Op :=
  if k = 0 then (s, o)
  else [2 * (k - 1), 2 * (k - 1) + 1].foldl (fun (a : State × Op) b =>
    if b < segBlocks a.2 then
      let (d, ok, s) := readBlock a.1 c (trTblk a.2.word + b) true
      (s, { a.2 with blks := a.2.blks ++ [(b, d, ok)] })
    else a) (s, o)

def fireDecode (s : State) (c : Nat) (o : Op) (k : Nat) : Fired :=
  match o.prog with
  | .decode r =>
    let (s, o) := if r.cause.isSome then (s, o) else
      let (s, o) := decodeCross s c o k
      if r.line = 0 then decodeHead s c o r k
      else if 0 < r.left then decodeBlock s c o r k
      else decodeEnd s c o r k
    some (s, o.dropOuts k, outReqs s c (4 * 16) o k)
  | _ => some (s, o, [])

/-- Ac that the encoder takes for its codebook, at most 2,048 (R209). DESIGN CHOICE (log 62). -/
def bookAc : Nat := 1024

/-- The segment header of an encode that has ended. -/
def segHeader (code : Nat) (uBytes cBytes entries : Nat) : List Byte :=
  let h := leBytes 2 0x5457 ++ [1, BitVec.ofNat 8 code] ++ leBytes 4 (uBytes / 64 - 1) ++ leBytes 4 (cBytes / 64) ++
    leBytes 2 (entries - 1) ++ List.replicate 46 0
  h ++ leBytes 4 (crc32c h).toNat

/-- Block b of the source has been read for the second time: it is coded, and the tier blocks that are now whole wait to be written, the one
with its header after those of its body (R205). -/
def encodeBlock (o : Op) (r : EncodeRun) (f : TwFmt) (book : List Nat) (b : Nat) : Op :=
  let n := 8 * trBlocks o.word
  let src := o.bytes (1024 * b) (min 1024 (n - 1024 * b))
  let seg := r.seg ++ twEncodeBlock f book src
  let whole := decide (n ≤ 1024 * (b + 1))
  let upto := if whole then ceilDiv (64 + seg.length) 512 else (64 + seg.length) / 512
  let head := (64 + r.seg.length) / 512
  let new := ((List.range (upto - r.queued)).map (r.queued + ·))
  let order := new.filter (fun t => decide (t ≠ head)) ++ new.filter (fun t => decide (t = head))
  { o.dropBelow (1024 * (b + 1)) with prog := .encode { r with
      seg := seg, queued := max r.queued upto, blocks := b + 1,
      waiting := r.waiting ++ order.map (fun t => (t, slice seg (512 * t - 64) 512)) } }

/-- The tier blocks that an encode writes in an ac: two that wait, and, at the end, the one with the segment header. -/
def encodeWrite (s : State) (c : Nat) (o : Op) (r : EncodeRun) (k : Nat) : State × Op :=
  let w := o.word
  let s := forAll (r.waiting.take 2) s (fun s p => writeBlock s c (trTblk w + p.1) p.2)
  let o := { o with prog := .encode { r with waiting := r.waiting.drop 2 } }
  if r.waiting.length < 2 ∧ 8 * trBlocks w ≤ 1024 * r.blocks then
    let h := segHeader r.code (512 * trBlocks w) r.seg.length ((r.book.getD []).length)
    (writeBlock s c (trTblk w) (slice (h ++ r.seg) 0 512), { o with last := some k })
  else (s, o)

def fireEncode (s : State) (c : Nat) (o : Op) (k : Nat) : Fired :=
  match o.prog with
  | .encode r =>
    let w := o.word
    let m := ceilDiv (trBlocks w) 2
    let first := m + bookAc
    match twFmt r.code with
    | none => some (s, o, [])
    | some f =>
      if k ≤ m then some (s, o, if k = 0 then [] else sourceReads s c w (16 * (k - 1)))
      else if k ≤ first then
        if r.book.isSome then some (s, o, [])
        else
          let book := twBook (twVectors f (o.bytes 0 (8 * trBlocks w)))
          some (s, { o with lines := [], prog := .encode { r with book := some book, seg := twPack 32 book, queued := 1 } }, [])
      else
        let o := match r.book with
          | some book =>
            let end_ := min (8 * trBlocks w) (1024 * (r.blocks + 1))
            if 1024 * r.blocks < 8 * trBlocks w ∧ k = first + ceilDiv end_ 16 + 1 then encodeBlock o r f book r.blocks else o
          | none => o
        let reads := if k ≤ first + m then sourceReads s c w (16 * (k - first - 1)) else []
        match o.prog with
        | .encode r => let (s, o) := encodeWrite s c o r k; some (s, o, reads)
        | _ => some (s, o, reads)
  | _ => some (s, o, [])

end Sys2Proof.Machine
end

