-- ==== Sys2Proof/Machine/Tiles.lean ====
section
/-! DEFINITION. The tile sequencer: how a TILE folds onto refills, passes and drains (R129 to R132). -/

namespace Sys2Proof.Machine

/-- What a TILE works with: its word, its configuration and its shape. -/
structure TileJob where
  w : W128
  cfg : TileCfg
  sh : TileShape
  wfmt : Nat

def tileJob (w : W128) (cfg : TileCfg) (wfmt : Nat) : TileJob := ⟨w, cfg, tileShape wfmt (tiK w) (tiN w), wfmt⟩

/-- Loads of a row group, and of the tile. -/
def TileJob.per (j : TileJob) : Nat := j.sh.ngs * j.sh.kgs
def TileJob.loads (j : TileJob) : Nat := ceilDiv (tiM j.w) 256 * j.per
/-- Row group, column group and reduction group of a load. -/
def TileJob.grp (j : TileJob) (l : Nat) : Nat := l / j.per
def TileJob.ng (j : TileJob) (l : Nat) : Nat := l % j.per / j.sh.kgs
def TileJob.kg (j : TileJob) (l : Nat) : Nat := l % j.per % j.sh.kgs
/-- Rows of the pass of a load. -/
def TileJob.rows (j : TileJob) (l : Nat) : Nat := min 256 (tiM j.w - 256 * j.grp l)

/-- Rows of weights that engine e loads in load l; none where it has no rows or columns in it. -/
def TileJob.rowsOf (j : TileJob) (l e : Nat) : Nat :=
  let (re, ce) := gangPlace j.sh.gang e
  let kb := j.kg l * (gangFoot j.sh.gang).1 + re
  let nb := j.ng l * (gangFoot j.sh.gang).2 + ce
  if nb * j.sh.b < tiN j.w then min j.sh.b (tiK j.w - kb * j.sh.b) else 0

/-- The parts of load l, engine by engine (R131). -/
def TileJob.parts (j : TileJob) (l : Nat) : List RefillRun :=
  let i := l % j.per
  let slot := tileSlot j.wfmt
  [0, 1, 2, 3].map (fun e =>
    ⟨e, tiWblk j.w + i * slot + e * (slot / 4), j.rowsOf l e, j.cfg.sline + 32 * i + 8 * e, none, 0, 0⟩)

/-- Refill time of load l. -/
def TileJob.time (j : TileJob) (l : Nat) : Nat := ([0, 1, 2, 3].map (fun e => refillAc j.wfmt (j.rowsOf l e))).foldl max 0

/-- Load l with its first shadow-weight write at `start`, if there is one. -/
def TileJob.load (j : TileJob) (l start : Nat) : Option TileLoad := if l < j.loads then some ⟨l, start, j.time l⟩ else none

/-- The blocks of a load that cross the port 12 ac before their shadow-weight write at step `k` + 12; what should have crossed and could not is
read with them. -/
def tileCross (s : State) (c : Nat) (o : Op) (j : TileJob) (l : Option TileLoad) (k : Nat) : State × Op :=
  match l with
  | none => (s, o)
  | some t =>
    if t.start ≤ k + 12 ∧ k + 12 < t.start + t.time then
      (j.parts t.load).foldl (fun (a : State × Op) r =>
        (List.range ((k + 12 - t.start) / 2 + 1)).foldl (fun (a : State × Op) b => refillCross a.1 c a.2 r (2 * b)) a) (s, o)
    else (s, o)

/-- A crossing of the port is due at step `k`. -/
def tileCrosses (r : TileRun) (k : Nat) : Bool :=
  [r.cur, r.nxt].any (fun l => match l with | some t => decide (t.start ≤ k + 12) && decide (k + 12 < t.start + t.time) | none => false)

def actTag (l : Nat) : Nat := 2 ^ 20 + l

/-- Bytes of row m that engine e takes in load l: first line and bytes, first scale byte and scales; elements beyond K are zero
(assumption log 12). -/
def TileJob.source (j : TileJob) (afmt l m e : Nat) : (Nat × Nat) × (Nat × Nat) :=
  let kb := j.kg l * (gangFoot j.sh.gang).1 + (gangPlace j.sh.gang e).1
  let n := min 128 (tiK j.w * (if fmtQuad afmt then 2 else 1) - 128 * kb)
  let per := ceilDiv (tiK j.w) 32
  ((tiAline j.w + m * j.cfg.astride + 2 * kb, n),
    (64 * j.cfg.ascale + m * per + 4 * kb, if fmtScaled afmt ∧ 0 < n then min 4 (per - 4 * kb) else 0))

/-- The lines that hold `n` bytes from byte `a` of the store on. -/
def linesOf (a n : Nat) : List Nat := if n = 0 then [] else (List.range ((a + n - 1) / 64 - a / 64 + 1)).map (a / 64 + ·)

/-- The requests of row r of the pass of load l. -/
def tileReads (s : State) (c : Nat) (j : TileJob) (l r : Nat) : List Req :=
  let x := coreAt s c
  let all := [0, 1, 2, 3].flatMap (fun e =>
    let (a, b) := j.source (winAfmt (winSoon x e (decide (r ≠ 0)))) l (256 * j.grp l + r) e
    (linesOf (64 * a.1) a.2 ++ linesOf b.1 b.2).map (fun n => (e, n)))
  (all.foldl (fun a p => if a.any (fun q => decide (q.2 = p.2)) then a else a ++ [p]) []).flatMap (fun p =>
    reqAt s c (16 + p.1) p.2 (actTag p.2) none)

/-- `n` bytes from byte `a` of the store, out of the lines read. -/
def Op.span (o : Op) (a n : Nat) : List Byte := slice ((linesOf a n).flatMap (fun l => leBytes 64 (o.line (actTag l)).toNat)) (a % 64) n

/-- The activations of row r for engine e. -/
def tileActs (x : Core) (o : Op) (j : TileJob) (l r e : Nat) : List Dy × Bool :=
  let win := (engineAt x e).activeWin
  let (a, b) := j.source (winAfmt win) l (256 * j.grp l + r) e
  let (xs, bad) := actRow win (slice (o.span (64 * a.1) a.2) 0 128) (o.span b.1 b.2)
  (xs.take (a.2 / (if fmtQuad (winAfmt win) then 2 else 1)), bad)

/-- An entry of a tile's drain: its values, written to its output row 2 ac after (R131, R132). The header line of a LONG row stands before
its first value, with C = N and the base of column group 0 (assumption log 61). -/
def tileDrainRow (s : State) (c : Nat) (o : Op) (j : TileJob) (d : DrainRun) (i k : Nat) : State × Op :=
  let x := coreAt s c
  let gc := (gangFoot j.sh.gang).2
  let parts := d.es.map (fun e =>
    let col := (d.ng * gc + (gangPlace j.sh.gang e).2) * j.sh.b
    let ls := (List.range (min j.sh.b (tiN j.w - col))).map (fun q => (engineAt x e).accAt_ i q)
    let vs := ls.map (outValue (engineAt x e).activeWin)
    (e, vs.flatMap (fun v => v.1), (vs.filter (fun v => v.2)).length, ls))
  let bases := (parts.flatMap (fun p => p.2.2.2)).map (fun (l : Long) => l.base)
  let ofmt := winOfmt (engineAt x 0).activeWin
  let first := tiOline j.w + (d.row0 + i) * j.cfg.ostride
  let s := if bases.any (fun b => decide (b ≠ bases.headD 0)) then raiseCore s c 4 (4 * 2 ^ 40) else s
  let s := forAll parts s (fun s p => addSat s c p.1 p.2.2.1)
  let head := if ofmt = 0xF ∧ d.ng = 0 then rowLines (longHead (bases.headD 0) (tiN j.w)) else []
  let off := (if ofmt = 0xF then 1 else 0) + d.ng * gc * j.sh.b * outBytes ofmt / 64
  (s, { o with outs := o.outs ++ head.zipIdx.map (fun p => ⟨k + 2, first + p.2, p.1⟩) ++
    (rowLines (parts.flatMap (fun p => p.2.1))).zipIdx.map (fun p => ⟨k + 2, first + off + p.2, p.1⟩) })

def tileDrains (s : State) (c : Nat) (o : Op) (j : TileJob) (ds : List DrainRun) (k : Nat) : State × Op :=
  ds.foldl (fun (a : State × Op) d => match d.at_ k with
    | some i => tileDrainRow a.1 c a.2 j d i k
    | none => a) (s, o)

/-- The first row of a pass of the fold: the swap, the pass's places in the logs, the next refill's first write, the step of the next pass, the
drain of a column group that ends, and, with the last pass, the tile's last step (R132). -/
def tilePass (s : State) (c : Nat) (o : Op) (j : TileJob) (r : TileRun) : State × Op × TileRun × List PassRun :=
  let l := r.load
  let x := coreAt s c
  let runs := [0, 1, 2, 3].map (fun e => (⟨e, x.passLog.length + e, []⟩ : PassRun))
  let s := setCore s c { x with passLog := x.passLog ++ List.replicate 4 0, passEng := x.passEng ++ [0, 1, 2, 3] }
  let s := swapEngines s c [0, 1, 2, 3]
  let d := drainAc (winOfmt (engineAt (coreAt s c) 0).activeWin)
  let n := j.rows l
  let ends := decide (j.kg l + 1 = j.sh.kgs)
  let next := max (r.p + max n (match j.load (l + 1) 0 with | some t => t.time | none => 0)) (if ends then r.p + 2 + (d - 1) * (n - 1) else 0)
  let drains := if ends && tiDrain j.w then
      r.drains.filter (fun q => decide (r.p < q.start + q.interval * q.rows)) ++ [⟨gangOuts j.sh.gang, d, 0, r.p + 139, 0, n, j.ng l, 256 * j.grp l⟩]
    else r.drains
  let last := if l + 1 < j.loads then none else some (if tiDrain j.w then r.p + 139 + (n - 1) * d + 2 else r.p + n + 137)
  (s, { o with last := last }, { r with next := next, cur := r.nxt, nxt := j.load (l + 2) next, drains := drains }, runs)

/-- The first shadow-weight write of a load. -/
def tileBegin (s : State) (c : Nat) (o : Op) (j : TileJob) (l k : Nat) : State × Op :=
  let keep := o.blks.filter (fun p => decide (k ≤ 13) || (j.parts l).any (fun r => (List.range 32).any (fun b => decide (refillTag r b = p.1))))
  refillBegin s c { o with refills := j.parts l, blks := keep, lines := o.lines.filter (fun p => decide (2 ^ 20 ≤ p.1)) }

/-- The engines of a tile ramp together with it, from t0 + 1, and stay at level 4 until it ends (R104, R132). -/
def tileRamp (s : State) (c k : Nat) : State :=
  if k = 0 ∨ k % 8 ≠ 0 then s
  else updCore s c (fun x => [0, 1, 2, 3].foldl (fun x e => updEngine x e (fun g => { g with level := min 4 (g.level + 1) })) x)

def fireTile (s : State) (c : Nat) (o : Op) (k : Nat) : Fired :=
  match o.prog with
  | .tile cfg wfmt run runs =>
    let j := tileJob o.word cfg wfmt
    let s := tileRamp s c k
    match run with
    | none =>
      let p := max (13 + j.time 0) (1 + 8 * (4 - minLevel (coreAt s c) [0, 1, 2, 3]))
      some (s, { o with prog := .tile cfg wfmt (some ⟨0, p, p, j.load 0 13, j.load 1 p, []⟩) [] }, [])
    | some r =>
      let r := if r.p < k ∧ k = r.next ∧ r.load + 1 < j.loads then { r with load := r.load + 1, p := k } else r
      let (s, o) := tileCross s c o j r.cur k
      let (s, o) := tileCross s c o j r.nxt k
      let (s, o, r, runs) := if k = r.p then tilePass s c o j r else (s, o, r, runs)
      let (s, o) := match r.cur with
        | some t => if k = t.start then tileBegin s c o j t.load k else (s, o)
        | none => (s, o)
      let n := j.rows r.load
      let i := k - r.p
      let (s, runs, o) := if r.p ≤ k ∧ i < n then
          let add := decide (0 < j.kg r.load) || tiAcc o.word
          let (s, sums) := enterRow s c [0, 1, 2, 3] j.sh.gang i (clk s c) add ([0, 1, 2, 3].map (fun e => (e, tileActs (coreAt s c) o j r.load i e)))
          let runs := noteSums runs sums
          (if i + 1 = n then passDone s c runs else s, runs, { o with lines := o.lines.filter (fun p => decide (p.1 < 2 ^ 20)) })
        else (s, runs, o)
      let (s, o) := tileDrains s c o j r.drains k
      let reads :=
        if r.p ≤ k ∧ i + 1 < n then tileReads s c j r.load (i + 1)
        else if k + 1 = r.p then tileReads s c j r.load 0
        else if r.p ≤ k ∧ k + 1 = r.next ∧ r.load + 1 < j.loads then tileReads s c j (r.load + 1) 0
        else []
      let scales := match r.cur with | some t => if t.start ≤ k then o.refills.flatMap (fun q => refillScale s c q (k - t.start)) else [] | none => []
      some (s, { o.dropOuts k with prog := .tile cfg wfmt (some r) runs }, reads ++ scales ++ outReqs s c (3 * 16) o k)
  | _ => some (s, o, [])

/-- Ac of a tile's refill written so far, once step `k` has run. -/
def tileWrites (o : Op) (k : Nat) : Nat :=
  match o.prog with
  | .tile _ _ (some r) _ => match r.cur with | some t => if t.start ≤ k then k + 1 - t.start else 0 | none => 0
  | _ => 0

end Sys2Proof.Machine
end

