-- ==== Sys2Proof/Machine/Clock.lean ====
section
/-! DEFINITION. What happens in one ac: the units' steps, the bank arbiter, signals and arrivals, and how ac pass or slip (R31, R50, R52,
R104, R115, R116, R136, R143 to R148, Table 5.2). -/

namespace Sys2Proof.Machine

/-! ### The units of one core -/

/-- The order in which the units of a core act within one ac: rows enter before refills write and drains read; entries are popped before
others are pushed (R98, R102, R109). -/
def unitPhase (u : UnitId) : Nat :=
  match u with
  | .pass _ => 0 | .tile => 1 | .tier => 2 | .drain _ => 3 | .queueOut _ => 4 | .element => 5 | .queueIn _ => 6 | .copy => 7 | .message _ => 8

/-- The place of a unit's signals among the effects of one ac (R116): after the streams, the units in the order of Table 4.1. -/
def unitRank (u : UnitId) : Nat :=
  match u with
  | .tier => 2 | .queueIn _ => 3 | .queueOut _ => 4 | .copy => 5 | .message _ => 6
  | .pass e => 7 + e.val | .drain e => 7 + e.val | .element => 11 | .tile => 12

def isCoded (o : Op) : Bool := match o.prog with | .decode _ | .encode _ => true | _ => false
def isMessage (u : UnitId) : Bool := match u with | .message _ => true | _ => false
def isTile (u : UnitId) : Bool := match u with | .tile => true | _ => false

/-- PUT and GET read their descriptor at their issue; a GET's descriptor range is released an ac later (Tables 5.2, 5.7). -/
def fireMessage (s : State) (c : Nat) (o : Op) (k : Nat) : Fired :=
  if k = 0 then some (s, o, reqAt s c (8 * 16) (putDesc o.word) 0 none)
  else some (s, { o with lines := [], reads := if o.writes.isEmpty then o.reads else [] }, [])

/-- Step `k` of the operation at place `i`. -/
def fireOp (s : State) (c i : Nat) (o : Op) (k : Nat) : Fired :=
  match o.unit with
  | .pass _ => firePass s c o k
  | .tile => fireTile s c o k
  | .drain _ => fireDrain s c i o k
  | .queueOut _ => fireStq s c o k
  | .element => fireEw s c o k
  | .queueIn _ => fireLdq s c o k
  | .copy => fireCopy s c o k
  | .message _ => fireMessage s c o k
  | .tier => match o.prog with
    | .refill => fireRefill s c i o k
    | .decode _ => fireDecode s c o k
    | .encode _ => fireEncode s c o k
    | _ => if wOp o.word = 0x11 then fireTrd s c o k else fireTwr s c o k

/-- A port crossing of the operation is due at step `k` (Table 6.1). -/
def crossDue (x : Core) (o : Op) (k : Nat) : Bool :=
  match o.prog with
  | .refill => decide (1 ≤ k) && decide (k ≤ refillTime x o.refills)
  | .decode r => r.cause.isNone && decide (1 ≤ k) && decide (2 * (k - 1) < segBlocks o)
  | .encode r => decide (r.waiting ≠ [])
  | .tile _ _ (some r) _ => tileCrosses r k
  | .plain =>
    if wOp o.word = 0x11 then decide (1 ≤ k) && decide (k ≤ ceilDiv (trBlocks o.word) 2)
    else decide (wOp o.word = 0x12) && decide (2 ≤ k) && decide (k ≤ 1 + ceilDiv (trBlocks o.word) 2)
  | _ => false

/-- The operation has a step due at unit time `t`. -/
def Op.due (o : Op) (t : Nat) : Bool :=
  decide (o.issue + o.step + o.shift ≤ t) && (match o.last with | some l => decide (o.step ≤ l) | none => !(isMessage o.unit) || decide (o.step ≤ 1))

def updOp (s : State) (c i : Nat) (f : Op → Op) : State := updCore s c (fun x => { x with ops := x.ops.modify i f })

/-- A schedule deviation of a unit's hold, by its case in the list of R75: an engine's, a queue's. -/
def stallKind (u : UnitId) : Nat := match u with | .tier | .pass _ | .drain _ | .tile => 4 | _ => 6

/-- The operation at place `i` takes its next step at unit time `t`: paused by a chunk fetch where it has a crossing due (R136), held by its
unit, or done. -/
def stepOp (s : State) (c i t : Nat) (fetch : Bool) : State × List (Nat × Nat × Req) :=
  match (coreAt s c).ops[i]? with
  | none => (s, [])
  | some o =>
    if !(o.due t) then (s, [])
    else if fetch && crossDue (coreAt s c) o o.step then (updOp s c i (fun o => { o with shift := o.shift + 1 }), [])
    else match fireOp s c i o o.step with
      | none =>
        let s := if o.stalled then s else deviate s c (stallKind o.unit)
        (updOp s c i (fun o => { o with shift := o.shift + 1, stalled := true }), [])
      | some (s, o', rs) => (updOp s c i (fun _ => { o' with step := o.step + 1, stalled := false }), rs.map (fun r => (c, i, r)))

/-- Engine e in the ac after unit time `t`: without a pass or tile in progress it falls a level at 72, 80, 88 and 96 ac after its last row
(R104). -/
def rampOut (x : Core) (e t : Nat) : Core :=
  let g := engineAt x e
  let busy := x.ops.any (fun o => match o.prog with
    | .pass start _ => decide (e ∈ maskEngines (psEng o.word)) && (match start with | some f => decide (o.step < f + psRows o.word) | none => false)
    | .tile .. => true
    | _ => false)
  if g.level = 0 ∨ busy = true ∨ t + 1 < g.lastRowAt + 72 ∨ (t + 1 - g.lastRowAt) % 8 ≠ 0 then x
  else setEngine x e { g with level := g.level - 1 }

/-- The engines of a core in the ac of unit time `t`: activity levels, and the rows in flight. -/
def enginesAc (s : State) (c t : Nat) : State :=
  forAll [0, 1, 2, 3] s (fun s e => rowsStep (updCore s c (fun x => rampOut x e t)) c e t)

/-- The places of a core's operations in the order in which they act. -/
def opOrder (x : Core) : List Nat :=
  (List.range 9).flatMap (fun k => (x.ops.zipIdx.filter (fun p => decide (unitPhase p.1.unit = k))).map (·.2))

/-- The units of a core in one ac of their time, and the requests they post. -/
def coreUnits (s : State) (c : Nat) : State × List (Nat × Nat × Req) :=
  let t := clk s c
  let s := enginesAc s c t
  let x := coreAt s c
  let fetch := decide (0 < x.port)
  let again := x.ops.zipIdx.flatMap (fun p => p.1.again.map (fun r => (c, p.2, r)))
  let s := setCore s c { x with port := x.port - 1, ops := x.ops.map (fun o => { o with again := [] }) }
  (opOrder x).foldl (fun (a : State × List (Nat × Nat × Req)) i =>
    let (s, rs) := stepOp a.1 c i t fetch
    (s, a.2 ++ rs)) (s, again)

/-- In an ac of a slip that freezes the core's units, a Tweed transfer goes on: its tier port keeps its clock (R52). -/
def codedUnits (s : State) (c : Nat) : State × List (Nat × Nat × Req) :=
  let x := coreAt s c
  let again := x.ops.zipIdx.flatMap (fun p => if isCoded p.1 then p.1.again.map (fun r => (c, p.2, r)) else [])
  let s := setCore s c { x with ops := x.ops.map (fun o => if isCoded o then { o with again := [], shift := o.shift - 1, issue := o.issue - (1 - o.shift) } else o) }
  (List.range x.ops.length).foldl (fun (a : State × List (Nat × Nat × Req)) i =>
    match (coreAt a.1 c).ops[i]? with
    | some o => if isCoded o then let (s, rs) := stepOp a.1 c i (clk s c) false; (s, a.2 ++ rs) else a
    | none => a) (s, again)

/-! ### The bank arbiter (R143, R145, Table 5.2) -/

/-- The bank of a line (R143). -/
def bankOf (l : Nat) : Nat := (l % 32) ^^^ (l / 32 % 32)

/-- A request comes before another: by rank, then lower line, then core and earlier operation. -/
def beats (a b : Nat × Nat × Req) : Bool :=
  decide (a.2.2.rank < b.2.2.rank) || (decide (a.2.2.rank = b.2.2.rank) &&
    (decide (a.2.2.line < b.2.2.line) || (decide (a.2.2.line = b.2.2.line) &&
      (decide (a.1 < b.1) || (decide (a.1 = b.1) && decide (a.2.1 < b.2.1))))))

/-- Two requests that one ac cannot serve together: of one bank, unless one unit reads one line twice; or of one neighbour link in one
direction, one line an ac (R148, assumption log 63). -/
def collide (a b : Nat × Nat × Req) : Bool :=
  (decide (a.2.2.core = b.2.2.core) && decide (bankOf a.2.2.line = bankOf b.2.2.line) &&
    !(decide (a.1 = b.1) && decide (a.2.1 = b.2.1) && decide (a.2.2.rank = b.2.2.rank) && decide (a.2.2.line = b.2.2.line) &&
      a.2.2.data.isNone && b.2.2.data.isNone)) ||
  (decide (a.1 = b.1) && decide (a.2.2.core ≠ a.1) && decide (a.2.2.core = b.2.2.core) && decide (a.2.2.data.isNone = b.2.2.data.isNone))

/-- A served request: a read gives the operation its line, a write writes it. -/
def serveReq (s : State) (p : Nat × Nat × Req) : State :=
  let (c, i, r) := p
  match r.data with
  | some d => writeLine s r.core r.line d
  | none =>
    let (d, _, s) := readLine s r.core r.line true
    let s := updOp s c i (fun o => { o with lines := o.lines ++ [(r.tag, d)] })
    if r.rank = 2 * 16 then pieceFaults s c (r.tag / 16) (r.tag % 16) d else s

/-- A delayed request: one conflict, which moves the rest of its operation's timeline by an ac and is counted against its core; it asks again
in the next ac. -/
def loseReq (s : State) (p : Nat × Nat × Req) : State :=
  let (c, i, r) := p
  updCore (updOp s c i (fun o => { o with again := o.again ++ [r], shift := o.shift + 1 })) c (fun x => { x with conflicts := x.conflicts + 1 })

/-- One ac of the arbiters: each bank serves one request; reads see what was written before this ac (R148). -/
def bankAc (s : State) (reqs : List (Nat × Nat × Req)) : State :=
  let all := reqs.dedup
  let lost := all.filter (fun a => all.any (fun q => collide q a && beats q a))
  let won := all.filter (fun a => !(lost.contains a))
  let s := forAll (won.filter (fun p => p.2.2.data.isNone)) s serveReq
  let s := forAll (won.filter (fun p => p.2.2.data.isSome)) s serveReq
  forAll lost s loseReq

/-! ### The end of an ac -/

/-- Its last read has been served: its read ranges are released (Table 5.7). -/
def readsOver (x : Core) (o : Op) : Bool :=
  o.again.all (fun r => r.data.isSome) &&
  match o.unit with
  | .queueIn _ => decide (runLastRead x (ldqRun o.word) < o.step)
  | .copy => decide (runLastRead x (copyRun o.word) < o.step)
  | .element => decide (ewLines o.word < o.step)
  | .pass _ => match o.prog with
    | .pass (some f) _ => decide (f + psRows o.word ≤ o.step + 1)
    | _ => false
  | _ => false

/-- The operation's signal point has come (Table 4.6). -/
def Op.over (o : Op) : Bool :=
  match o.last with
  | some l => decide (l < o.step) && o.again.isEmpty
  | none => isMessage o.unit && o.ready

/-- The signal of an operation at the end of the ac of its core's units. -/
def signalOp (s : State) (c : Nat) (o : Op) : State :=
  if o.noSignal then s else signalAt s c (unitRank o.unit) (clk s c) o.sop.toNat o.sobj.toNat

/-- Operations whose signal point has come signal and are no longer outstanding. -/
def endOps (s : State) (c : Nat) (which : Op → Bool) : State :=
  let x := coreAt s c
  let ended := x.ops.filter (fun o => o.over && which o)
  if ended.isEmpty then s
  else forAll ended (setCore s c { x with ops := x.ops.filter (fun o => !(o.over && which o)) }) (fun s o => signalOp s c o)

/-- WIN writes its word (R122). -/
def winWrite (s : State) (c : Nat) (w : W128) : State :=
  forAll (maskEngines (wiEng w)) s (fun s e => updCore s c (fun x => updEngine x e (fun g =>
    if wiTgt w then { g with activeWin := wiWord w } else { g with shadowWin := wiWord w })))

/-- After the banks have served: refills' rows are complete, read ranges released, WIN's word written, ended operations signal. -/
def coreSettle (s : State) (c : Nat) : State :=
  let s := forAll (List.range (coreAt s c).ops.length) s (fun s i =>
    match (coreAt s c).ops[i]? with
    | none => s
    | some o =>
      if o.refills.isEmpty then s
      else
        let (s, o) := refillParts s c o (match o.prog with | .refill => o.step - 13 | _ => tileWrites o (o.step - 1))
        updOp s c i (fun _ => o))
  let x := coreAt s c
  let s := setCore s c { x with ops := x.ops.map (fun o => if readsOver x o then { o with reads := [] } else o), winDue := none, ranTo := clk s c + 1 }
  let s := match x.winDue with | some w => winWrite s c w | none => s
  endOps s c (fun _ => true)

/-- Nothing of the core needs an ac to pass. -/
def coreQuiet (x : Core) : Bool :=
  x.ops.all (fun o => isMessage o.unit && decide (1 < o.step) && !o.ready && o.again.isEmpty) && x.sigs.isEmpty && x.arrivals.isEmpty &&
  x.winDue.isNone && decide (x.port = 0) && x.engines.all (fun p => decide (p.2.level = 0) && p.2.rows.isEmpty)

/-- The end of the ac in which the lock set stands: the units of every core whose time has moved on act, with one arbitration for all
stores; then messages that are complete signal, and the effects and arrivals of the ac come, on every core (R115, R116, R145). -/
def endAc (s : State) : State :=
  let busy := (lockCores s).filter (fun c => !(coreQuiet (coreAt s c)))
  let run := busy.filter (fun c => decide ((coreAt s c).ranTo ≤ clk s c))
  let coded := busy.filter (fun c => decide (clk s c < (coreAt s c).ranTo) && (coreAt s c).ops.any isCoded)
  let (s, reqs) := run.foldl (fun (a : State × List (Nat × Nat × Req)) c => let (s, rs) := coreUnits a.1 c; (s, a.2 ++ rs)) (s, [])
  let (s, reqs) := coded.foldl (fun (a : State × List (Nat × Nat × Req)) c => let (s, rs) := codedUnits a.1 c; (s, a.2 ++ rs)) (s, reqs)
  let s := bankAc s reqs
  let s := forAll run s coreSettle
  let s := forAll coded s (fun s c => endOps s c isCoded)
  forAll (enabledCores s) s (fun s c => effectsEnd (clk s c) (endOps s c (fun o => isMessage o.unit)) c)

/-! ### Time -/

/-- A unit of the core holds an operation. -/
def unitHolds (x : Core) : Bool := x.ops.any (fun o => o.stalled)

/-- The core holds by a schedule deviation: its units go on while the lock set slips (assumption log 2). -/
def coreDeviates (x : Core) : Bool :=
  unitHolds x || (x.a.held.isSome && x.a.dev) || (x.x.held.isSome && x.x.dev)

/-- The lock set slips an ac, charged to core `c` (R52, R111). -/
def slipOne (s : State) (c : Nat) : State :=
  forAll ((lockCores s).filter (fun c => coreDeviates (coreAt s c))) (slipAc s c 1) (fun s c => updCore s c (fun x => { x with off := x.off + 1 }))

/-- One ac: what it ends with, and then TRC_AC goes on, or, while a unit holds an operation, the lock set slips. -/
def acStep (s : State) : State :=
  let s := endAc s
  match (lockCores s).find? (fun c => unitHolds (coreAt s c)) with
  | some c => slipOne s c
  | none => deliverAc s 1

/-- Ac pass until TRC_AC = t, at most `n` of them; where nothing needs them they pass together. -/
def passTo : Nat → State → Nat → State
  | 0, s, _ => s
  | n + 1, s, t =>
    if t ≤ lockTrc s then s
    else if (lockCores s).all (fun c => coreQuiet (coreAt s c)) then deliverAc s (t - lockTrc s)
    else passTo n (acStep s) t

/-- An action scheduled at `t` comes no earlier than TRC_AC = t (R32). -/
def catchUp (s : State) (t : Nat) : State := if s.lock.gated ∨ t ≤ lockTrc s then s else passTo (t - lockTrc s + 65536) s t

/-- The stream runs: the core is in its worked tempo and the frame has not ended. -/
def streamOf (x : Core) (st : Stream) : StreamSt := match st with | .access => x.a | .execute => x.x

def streamRuns (x : Core) (st : Stream) : Bool :=
  let v := streamOf x st
  !x.maint && !x.barred && !v.done && decide (v.index < v.len)

/-- A stream whose next instruction's schedule time has come: its command is awaited. -/
def streamDue (s : State) (x : Core) (st : Stream) : Bool :=
  streamRuns x st && (streamOf x st).held.isNone && decide ((streamOf x st).sched ≤ lockTrc s)

def coreDue (s : State) (c : Nat) : Bool := streamDue s (coreAt s c) .access || streamDue s (coreAt s c) .execute

/-- A stream of the core holds, or one of its units. -/
def coreHolds (s : State) (c : Nat) : Bool :=
  let x := coreAt s c
  unitHolds x || (streamRuns x .access && x.a.held.isSome) || (streamRuns x .execute && x.x.held.isSome)

/-- One ac: gated, with the store's clock alone (R147); slipped by the core that holds (R52); or delivered. While an instruction is due nothing
passes. -/
def tickAc (s : State) : State :=
  if s.lock.gated then
    let s := { s with now := s.now + acUnits s.lock.level }
    forAll (enabledCores s) s (fun s c => effectsEnd (clk s c) (endOps s c (fun o => isMessage o.unit)) c)
  else if (lockCores s).any (coreDue s) then s
  else
    let s := endAc s
    match (lockCores s).find? (coreHolds s) with
    | some c => slipOne s c
    | none => deliverAc s 1

/-- Ac pass until something has happened, at most `n` of them, and none while an instruction is due. -/
def tickUntil : Nat → State → (State → Bool) → State
  | 0, s, _ => s
  | n + 1, s, p => if p s ∨ (s.lock.gated = false ∧ (lockCores s).any (coreDue s)) then s else tickUntil n (tickAc s) p

end Sys2Proof.Machine
end

