-- ==== Sys2Proof/Machine/Issue.lean ====
section
/-! DEFINITION. How a stream instruction issues: wait, unit, scoreboard, signal, frame end and boundary wait (04, R164, R165). -/

namespace Sys2Proof.Machine

/-! ### The spool and the fetch buffers (R133 to R136) -/

/-- First tier block and chunk count of a core's spool. -/
def spoolBlock (x : Core) : Nat := ((cwEffAt x 0x200).toNat - 0x10000000) / 512
def spoolChunks (x : Core) : Nat := bits (cwEffAt x 0x204) 0 18 + 1
def spoolCyclic (x : Core) : Bool := bit (cwEffAt x 0x204) 31
def spoolTail (x : Core) : Nat := bits (cwEffAt x 0x20C) 0 18

/-- Read a chunk of the spool, modulo its size. -/
def readChunk (s : State) (c chunk : Nat) (scheduled : Bool) : BitVec 8192 × State :=
  let x := coreAt s c
  let b := spoolBlock x + 2 * (chunk % spoolChunks x)
  let (ds, _, s) := readBlocks s c scheduled [b, b + 1]
  (BitVec.ofNat 8192 (leNat ds.flatten), s)

/-- Chunks of a frame. -/
def frameChunks (len : Nat) : Nat := (len + 63) / 64

/-- Read the chunks `ks` of a frame that starts at a chunk of the spool. -/
def fetchChunks (s : State) (c first : Nat) (ks : List Nat) (scheduled : Bool) : List (Nat × BitVec 8192) × State :=
  ks.foldl (fun (r : List (Nat × BitVec 8192) × State) k =>
    let (d, s) := readChunk r.2 c (first + k) scheduled
    (r.1 ++ [(k, d)], s)) ([], s)

/-- Fields of a frame set header (Table 4.18). -/
def hdrWord (h : BitVec 8192) (off : Nat) : Nat := bits h (8 * off) 32
def hdrSetLen (h : BitVec 8192) : Nat := hdrWord h 0 % 2 ^ 24 + 1
def hdrLast (h : BitVec 8192) : Bool := bit h 24
def hdrVariants (h : BitVec 8192) : Nat := bits h 25 2 + 1
def hdrAOff (h : BitVec 8192) (v : Nat) : Nat := hdrWord h (64 + 16 * v) % 2 ^ 24
def hdrALen (h : BitVec 8192) (v : Nat) : Nat := hdrWord h (68 + 16 * v) % 2 ^ 24 + 1
def hdrXOff (h : BitVec 8192) (v : Nat) : Nat := hdrWord h (72 + 16 * v) % 2 ^ 24
def hdrXLen (h : BitVec 8192) (v : Nat) : Nat := hdrWord h (76 + 16 * v) % 2 ^ 24 + 1

/-- The variant in effect at a worked tempo that begins at a count: the latest switch due by then, the higher at one count (R65, R66). -/
def variantAt (s : State) (count : Nat) : BitVec 2 :=
  s.tmp.switches.foldl (fun v p => if p.1 ≤ count then p.2 else v) s.tmp.variant

/-- What a fetch is for: variant, SPOOL_HEAD and SPOOL_TAIL. -/
def fetchKey (x : Core) (v : Nat) : Nat := (v * 2 ^ 18 + x.spoolHead) * 2 ^ 18 + spoolTail x

/-- The count at which the next worked tempo begins, as far as the tempo in progress and a hold tell. -/
def nextBegin (s : State) : Nat :=
  if s.tmp.working then s.tmp.t.toNat + s.tmp.stride + b2n (s.tmp.held || s.tmp.overrunSent || s.tmp.overrunFor.contains s.tmp.t.toNat)
  else s.tmp.count.toNat + 1

/-- The fetch unit's reads before a frame set runs under a variant: its header and the first four chunks of each stream's frame (R136). -/
def fetchSet (s : State) (c v : Nat) : State :=
  let head := (coreAt s c).spoolHead
  let (h, s) := readChunk s c head true
  let read (s : State) (off len : Nat) := fetchChunks s c (head + off) (List.range (min 4 (frameChunks len))) true
  let (ab, s) := read s (hdrAOff h v) (hdrALen h v)
  let (xb, s) := read s (hdrXOff h v) (hdrXLen h v)
  updCore s c (fun x => { x with hdr := some (fetchKey x v, h), a := { x.a with buf := ab }, x := { x.x with buf := xb } })

/-- The fetch for the next worked tempo. -/
def prefetch (s : State) (c : Nat) : State := fetchSet s c (variantAt s (nextBegin s)).toNat

/-! ### Streams -/

def setStream (x : Core) (st : Stream) (v : StreamSt) : Core := match st with | .access => { x with a := v } | .execute => { x with x := v }
def updStream (s : State) (c : Nat) (st : Stream) (f : StreamSt → StreamSt) : State :=
  updCore s c (fun x => setStream x st (f (streamOf x st)))
def streamNo (st : Stream) : Nat := match st with | .access => 0 | .execute => 1

/-! ### Boundary wait and gating (R50, R105, R119) -/

/-- Every enabled core of the lock set is in the boundary wait; cores in maintenance mode and cores barred by R134 count (R437). -/
def allWaiting (s : State) : Bool :=
  (lockCores s).all (fun c => let x := coreAt s c; x.boundary || x.maint || x.barred)

/-- The engines above level 0 keep ramp edges until they reach it, and each counts a shortfall (R105). -/
def rampShortfall (x : Core) : Core :=
  [0, 1, 2, 3].foldl (fun (x : Core) (e : Nat) =>
    if (engineAt x e).level = 0 then x
    else updEngine x e (fun g => { g with rampShort := satAdd g.rampShort 1, level := 0 })) x

/-- Once every core waits, the last ac ends, the stretch unit stops delivering edges, and the signatures go out (R50, R380). -/
def gateIfAll (s : State) : State :=
  if s.lock.gated ∨ !(allWaiting s) then s
  else
    let s := effectsAll (endAc s)
    let s := updLock s (fun l => { l with gated := true, workEndAt := s.now })
    let s := forAll (lockCores s) s (fun s c => updCore s c rampShortfall)
    sendSigs s

/-- Data queues that still hold entries (R109). -/
def queuesHold (x : Core) : Bool := x.qin.any (fun p => decide (p.2 ≠ [])) || x.qout.any (fun p => decide (p.2 ≠ []))

/-- A core enters the boundary wait at the later of its two BOUNDARY issues (R50, R119). -/
def enterBoundary (s : State) (c : Nat) : State :=
  let x := coreAt s c
  if !(x.a.done && x.x.done) || x.boundary then s
  else
    let s := setCore s c { x with boundary := true }
    let w := match ctxOfCore s c with | some k => ctxW s k | none => 0
    let s := if max x.a.sched x.x.sched = w then s else deviate s c 1
    let s := if queuesHold x then deviate s c 7 else s
    gateIfAll (prefetch s c)

/-! ### The scoreboard (R164, R165) -/

def overlap (a b : Range) : Bool := decide (a.lo < b.hi) && decide (b.lo < a.hi)

/-- Scoreboard entries in use. -/
def sbUsed (x : Core) : Nat := x.ops.foldl (fun n o => n + o.reads.length + o.writes.length) 0

/-- The instruction's ranges conflict with outstanding ones, or find no free entries. -/
def sbBlocked (x : Core) (rd wr : List Range) : Bool :=
  x.ops.any (fun o => rd.any (fun r => o.writes.any (overlap r)) || wr.any (fun r => o.writes.any (overlap r) || o.reads.any (overlap r))) ||
  decide (32 < sbUsed x + rd.length + wr.length)

/-- Lines l to l + n − 1 as a range. -/
def linesRange (l n : Nat) : List Sys2Proof.Machine.Range := if n = 0 then [] else [Range.mk (64 * l) (64 * (l + n))]
/-- Tier blocks as a range. -/
def blocksRange (b n : Nat) : List Sys2Proof.Machine.Range := if n = 0 then [] else [Range.mk (0x10000000 + 512 * b) (0x10000000 + 512 * (b + n))]

/-- An operation that issues now: its unit, its word with its signal, its ranges, and its progress. -/
def newOp (s : State) (c : Nat) (w : W128) (u : UnitId) (rd wr : List Range) (last : Option Nat) (prog : Prog) : Op :=
  { unit := u, word := w, sop := BitVec.ofNat 4 (wSop w), sobj := BitVec.ofNat 8 (wSobj w), reads := rd, writes := wr, ready := false,
    noSignal := false, issue := clk s c, step := 0, shift := 0, last := last, stalled := false, again := [], lines := [], blks := [], outs := [],
    wins := (List.range 4).map (fun e => (engineAt (coreAt s c) e).activeWin), refills := [], prog := prog }

def pushOp (s : State) (c : Nat) (o : Op) : State :=
  updCore s c (fun x =>
    let x := { x with ops := x.ops ++ [o] }
    { x with sbHigh := max x.sbHigh (sbUsed x) })

def addOp (s : State) (c : Nat) (w : W128) (u : UnitId) (rd wr : List Range) (last : Option Nat) (prog : Prog) : State :=
  pushOp s c (newOp s c w u rd wr last prog)

def hasOp (x : Core) (p : UnitId → Bool) : Bool := x.ops.any (fun o => p o.unit)

/-- The oldest operation of a unit that is not complete becomes so (a message, R259). -/
def readyOp (s : State) (c : Nat) (u : UnitId) (noSignal : Bool) : State :=
  updCore s c (fun x =>
    match x.ops.findIdx? (fun o => decide (o.unit = u) && !o.ready) with
    | some i => { x with ops := x.ops.modify i (fun o => { o with ready := true, noSignal := noSignal }) }
    | none => x)

/-! ### Issue -/

/-- The condition of a word holds, or a decoupled wait is bypassed after a codec fault (R113, R212). -/
def waitBypassed (x : Core) (w : W128) : Bool := decide (8 ≤ wCond w) && x.bypass.contains (BitVec.ofNat 8 (wObj w))
def waitHolds (x : Core) (w : W128) : Bool := condHolds x (wCond w % 8) (wObj w) || waitBypassed x w
def consume (x : Core) (w : W128) : Core := if waitBypassed x w || x.badSync.contains (wObj w) then x else condConsume x (wCond w % 8) (wObj w)

/-- The stream holds on a word (R111): a deviation of kind `dev` the first time, and a wait slip where decoupled; the lock set slips while the
hold lasts, and the word is offered again. -/
def holdStream (s : State) (c : Nat) (st : Stream) (w : W128) (dev : Option Nat) (decoupled : Bool) : State :=
  let v := streamOf (coreAt s c) st
  if v.held = some w ∧ v.dev = dev.isSome then s
  else
    let s := updStream s c st (fun v => { v with held := some w, dev := dev.isSome })
    let s := if decoupled then updCore s c (fun x => { x with waitSlips := satAdd x.waitSlips 1 }) else s
    match dev with | some k => deviate s c k | none => s

/-- The stream has issued a word: the next schedule time, the chunk fetch, which takes the vertical port for an ac, and the end of the frame
(R110, R134, R136). -/
def advance (s : State) (c : Nat) (st : Stream) (w : W128) (next : Nat) : State :=
  let v := streamOf (coreAt s c) st
  let i := v.index + 1
  let s := updStream s c st (fun v => { v with held := none, dev := false, index := i, sched := next })
  let k := v.index / 64
  let s :=
    if v.index % 64 = 0 ∧ 0 < k ∧ k + 3 < frameChunks v.len then
      let (ds, s) := fetchChunks s c v.chunk [k + 3] true
      updCore (updStream s c st (fun v => { v with buf := v.buf.filter (fun p => decide (k ≤ p.1)) ++ ds })) c (fun x => { x with port := x.port + 1 })
    else s
  if i = v.len ∧ !(streamOf (coreAt s c) st).done then
    let s := raiseCore s c 0x0C (streamNo st * 2 ^ 43 + wOp w * 2 ^ 35)
    enterBoundary (updStream s c st (fun v => { v with done := true })) c
  else s

/-- A malformed word, or one whose range leaves its region: no wait, its slot, its signal in the next ac if well formed, and the fault (R117). -/
def misissue (s : State) (c : Nat) (st : Stream) (w : W128) (code low : Nat) : State :=
  let t := (streamOf (coreAt s c) st).sched
  let s := raiseCore s c code (streamNo st * 2 ^ 43 + wOp w * 2 ^ 35 + low)
  let s := if sopOk w then signalAt s c (streamNo st) (clk s c + 1) (wSop w) (wSobj w) else s
  advance s c st w (t + 1)

/-- What an instruction needs and does at issue. -/
structure Plan where
  /-- its stream may issue its class (R108) -/
  streamOk : Bool
  check : Check
  /-- it cannot issue yet: its unit is not ready (Table 4.1), or the scoreboard conflicts (R164); the case of R75 -/
  blocked : Option Nat
  /-- its effect at issue -/
  act : State → State
  /-- the schedule time of the next instruction -/
  next : Nat

/-- Issue one instruction on a stream under its plan. -/
def issueStream (s : State) (c : Nat) (st : Stream) (w : W128) (p : Plan) : State :=
  let x := coreAt s c
  if !(condOk w && sopOk w && p.streamOk) then misissue s c st w 0x0C 0
  else match p.check with
  | .malformed => misissue s c st w 0x0C 0
  | .access a => misissue s c st w 0x0D (a % 2 ^ 32)
  | .ok =>
    if !(waitHolds x w) then holdStream s c st w (if wCond w < 8 then some 2 else none) (decide (8 ≤ wCond w))
    else match p.blocked with
    | some k => holdStream s c st w (some k) false
    | none => advance (p.act (setCore s c (consume x w))) c st w p.next

/-! ### The maintenance port (R137) -/

/-- The instruction's mstat, valid once it completes (Table 4.22, Table 12.2 BUSY). -/
def setMstat (s : State) (c v : Nat) : State := updCore s c (fun x => { x with mnext := some (BitVec.ofNat 8 v) })

/-- An instruction at the maintenance port: refused while another runs or outside maintenance mode (R345); refused with mstat 4 for
nonzero wait or signal fields or an opcode that is not allowed (R137). -/
def maintPort (s : State) (c : Nat) (w : W128) (act : State → State) : State :=
  let x := coreAt s c
  let op := wOp w
  if !x.maint then setCore s c { x with mpErr := orBit x.mpErr 1 }
  else if x.mnext.isSome then setCore s c { x with mpErr := orBit x.mpErr 0 }
  else if x.clearing then s
  else if bits w 104 24 ≠ 0 ∨ !(decide (op = 0) || decide (op = 0x20) || (decide (0xE0 ≤ op) && decide (op ≤ 0xE8))) then setMstat s c 4
  else act s

/-- The word of the stream's next instruction has bad parity: it is handled as malformed (R374). -/
def badWord (x : Core) (st : Stream) : Bool := (streamOf x st).bad.contains (streamOf x st).index

/-- A stream instruction's command, of opcode `op`; a word of another opcode is malformed (R117). On a core in maintenance mode the word
comes to the maintenance port. Ac pass until its schedule time; where a unit that holds its operation for good keeps TRC_AC from reaching it, it
does not issue. -/
def onCore (op : Nat) (s : State) (c : Nat) (st : Stream) (w : W128) (plan : State → Nat → Plan) (maint : State → State) : State :=
  let x := coreAt s c
  if !(enabledCore s c) then s
  else if x.maint then maintPort s c w (if wOp w = op then maint else fun s => setMstat s c 4)
  else if streamRuns x st then
    let t := (streamOf x st).sched
    let s := catchUp s t
    if s.lock.gated = false ∧ lockTrc s < t then s
    else
      let p := plan s t
      issueStream s c st w { p with check := (mustBe (decide (wOp w = op) && !(badWord x st))).and p.check }
  else s

/-- The signal of an instruction on a stream that has no unit, `after` ac after its issue (Table 4.6, R12). -/
def signalEnd (w : W128) (st : Stream) (after : Nat) (s : State) (c : Nat) : State :=
  signalAt s c (streamNo st) (clk s c + after) (wSop w) (wSobj w)

end Sys2Proof.Machine
end

