-- ==== Sys2Proof/Machine/Flags.lean ====
section
/-! DEFINITION. Status words that are computed when they are read, and the words of the core control region (Tables 4.17, 5.10). -/

namespace Sys2Proof.Machine

/-- CORE_STATUS. -/
def coreStatus (x : Core) : W32 := BitVec.ofNat 32 (b2n x.maint + 2 * b2n x.boundary + 8 * b2n x.clearing)

/-- SB_STATUS: entries in use now, and the highest since clear. -/
def sbStatus (x : Core) : W32 := BitVec.ofNat 32 (sbUsed x + x.sbHigh * 256)

/-- GATHER_STATUS. -/
def gatherStatus (x : Core) : W32 := BitVec.ofNat 32 (x.gather.length + x.gatherHigh * 256)

/-- RING_PTR: filled slots, TAIL, HEAD (R162). -/
def ringPtr (x : Core) (r : Nat) : W32 :=
  if !(ringAt x r).enabled then 0
  else BitVec.ofNat 32 ((syncAt x (ringRel x r)).val.toNat % ringSlots x r + (ringAt x r).fill.toNat % ringSlots x r * 256 + ringFilled x r * 65536)

/-- CORE_ID. -/
def coreId (s : State) (c : Nat) : W32 := BitVec.ofNat 32 (logicalOf s c + c * 256)

/-- A word of the core control region, as its requesters read it (Tables 4.17, 5.10). -/
def coreWord (s : State) (c off : Nat) : W32 :=
  let x := coreAt s c
  if off = 0 then coreId s c
  else if off = 4 then coreStatus x
  else if off = 8 ∨ off = 0x48 ∨ off = 0x200 ∨ off = 0x204 ∨ off = 0x20C then cwAt x off
  else if off = 0xC then x.storeFault
  else if 0x20 ≤ off ∧ off < 0x40 then tget 0 x.fences ((off - 0x20) / 4)
  else if off = 0x40 then sbStatus x
  else if off = 0x44 then gatherStatus x
  else if 0x50 ≤ off ∧ off < 0x60 then (engineAt x ((off - 0x50) / 4)).satCount
  else if 0x60 ≤ off ∧ off < 0x70 then (engineAt x ((off - 0x60) / 4)).rampShort
  else if off = 0x208 then BitVec.ofNat 32 x.spoolHead
  else if 0x400 ≤ off ∧ off < 0x500 then (if off % 16 = 12 then ringPtr x ((off - 0x400) / 16) else cwAt x off)
  else if 0x1000 ≤ off ∧ off < 0x1800 then
    let o := (off - 0x1000) / 8
    if off % 8 = 0 then (syncAt x o).val else if isFlag o then 0 else (syncAt x o).thr
  else 0

/-- A write of SYNC_VAL or SYNC_THR from outside takes effect with the arrival step of the ac (R116, R154, Table 5.5); false where its
description refuses it (R170). -/
def writeSync (s : State) (c off : Nat) (v : W32) : State × Bool :=
  let o := (off - 0x1000) / 8
  if off % 8 = 0 then
    if isFlag o ∧ 1 < v.toNat then (s, false) else (effectAt s c 15 (clk s c) (.value v) o, true)
  else if isFlag o then (s, true)
  else (effectAt s c 15 (clk s c) (.threshold v) o, true)

/-- The offset names SYNC_VAL or SYNC_THR. -/
def isSyncWord (off : Nat) : Bool := decide (0x1000 ≤ off) && decide (off < 0x1800)

end Sys2Proof.Machine
end

