-- ==== Sys2Proof/Machine/Message.lean ====
section
/-! DEFINITION. Messages: headers, routing, delivery at a core, replies and completion (R254 to R265, R192). -/

namespace Sys2Proof.Machine

/-! ### Headers and flits (R258, Table 9.7) -/

/-- A message header. -/
structure Hdr where
  daddr : W64
  saddr : W64
  op : Nat
  hops : Nat
  len : Nat
  job : Nat
  arrive : Option Byte
  coreset : W64
  msgid : W32
  /-- a flit of the message came poisoned (R238); no field of Table 9.7 -/
  poison : Bool

def Hdr.bytes (h : Hdr) : List Byte :=
  leBytes 8 h.daddr.toNat ++ leBytes 8 h.saddr.toNat ++ leBytes 4 (h.len % 2 ^ 24 + h.hops % 16 * 2 ^ 24 + h.op % 16 * 2 ^ 28) ++
  leBytes 4 ((match h.arrive with | some a => 128 + a.toNat * 256 | none => 0) + h.job % 65536 * 65536) ++
  leBytes 8 h.coreset.toNat ++ leBytes 4 h.msgid.toNat ++ List.replicate 28 0

def Hdr.parse (bs : List Byte) : Hdr :=
  let a := sliceNat bs 16 4
  let b := sliceNat bs 20 4
  ⟨BitVec.ofNat 64 (sliceNat bs 0 8), BitVec.ofNat 64 (sliceNat bs 8 8), a / 2 ^ 28, a / 2 ^ 24 % 16, a % 2 ^ 24, b / 65536,
   if b / 128 % 2 = 1 then some (BitVec.ofNat 8 (b / 256)) else none, BitVec.ofNat 64 (sliceNat bs 24 8), BitVec.ofNat 32 (sliceNat bs 32 4), false⟩

/-- Chip ID, core field and offset of a global address (R257). -/
def gaChip (a : W64) : Nat := bits a 52 12
def gaCore (a : W64) : Nat := bits a 44 8
def gaOff (a : W64) : Nat := bits a 0 44
def gaMake (chip core off : Nat) : W64 := BitVec.ofNat 64 (chip % 4096 * 2 ^ 52 + core % 256 * 2 ^ 44 + off % 2 ^ 44)

/-- Mesh sideband (Table 8.3) of a free flit. -/
def freeSide (last : Bool) (ctx dest vc cls seq : Nat) : W64 :=
  BitVec.ofNat 64 (b2n last * 2 ^ 61 + ctx % 16 * 2 ^ 57 + dest % 128 * 2 ^ 50 + vc * 2 ^ 49 + cls * 2 ^ 47 + seq % 65536 * 2 ^ 31)

/-- CRC-32C over the payload and then the sideband (R218). -/
def flitCrc (payload : Flit256) (side : W64) : W32 := crc32c (leBytes 256 payload.toNat ++ leBytes 8 side.toNat)

/-- A mesh flit with its CRC. -/
def meshFlit (payload : Flit256) (side : W64) : MeshFlit := ⟨payload, side, flitCrc payload side⟩

/-- The payloads of a message: the header and up to 192 B of data, then 256 B each. -/
def messagePayloads (h : Hdr) (data : List Byte) : List Flit256 :=
  let all := h.bytes ++ data
  (List.range ((all.length + 255) / 256)).map (fun i => BitVec.ofNat 2048 (sliceNat all (256 * i) 256))

/-- The flits of a message of a context towards a port's egress; the service complex's are of no context, and name context 0 in their sideband
(assumption log 64). -/
def messageFlits (h : Hdr) (data : List Byte) (ctx : Option Nat) (dest vc cls : Nat) : List OutFlit :=
  let ps := messagePayloads h data
  ps.zipIdx.map (fun p =>
    ⟨BitVec.ofNat 12 (gaChip h.daddr), meshFlit p.1 (freeSide (decide (p.2 + 1 = ps.length)) (ctx.getD 0) dest vc cls p.2), ctx⟩)

/-! ### Routes (R255) -/

def portUpAt (s : State) (p : Nat) : Bool := portIsUp (portAt s p)
/-- A chip's entry of the route table; one with bad parity is not used (R374). -/
def routeEntry (s : State) (chip : Nat) : W64 := if s.fab.bad.contains chip then 0 else tget 0 s.fab.route chip
/-- The read of a chip's entry checks its parity (R374). -/
def routeParity (s : State) (chip : Nat) : State :=
  if s.fab.bad.contains chip then raise s 0x11 (moduleScope s) 3 0 0 (7 * 2 ^ 40 + chip % 2 ^ 16 * 2 ^ 24) else s
def lowestUp (s : State) (mask : Nat) : Option Nat := (List.range 16).find? (fun p => decide (mask / 2 ^ p % 2 = 1) && portUpAt s p)

/-- The ports of a mask that are not in I2, where there are any; a port in I2 is not up while another port can carry the message (R431). -/
def awake (s : State) (mask : Nat) : Nat :=
  (List.range 16).foldl (fun m p => m + (if mask / 2 ^ p % 2 = 1 ∧ (portAt s p).idle = 0 then 2 ^ p else 0)) 0

/-- The port by the ports of a mask: MODE 0 the lowest up PRIMARY, then ALT; MODE 1 one up PRIMARY by a hash of source chip, source core and
MSGID. -/
def routeWithin (s : State) (e : W64) (keep : Nat → Nat) (from_ src msgid : Nat) : Option Nat :=
  let prim := keep (bits e 0 16)
  if bits e 60 2 = 1 then
    let up := (List.range 16).filter (fun p => decide (prim / 2 ^ p % 2 = 1) && portUpAt s p)
    if up.isEmpty then none else up[(Config.routeHash from_ src msgid) % up.length]?
  else match lowestUp s prim with
    | some p => some p
    | none => lowestUp s (keep (bits e 16 16))

/-- The port of a message to one chip, by its source chip, source core and MSGID. -/
def routePort (s : State) (chip from_ src msgid : Nat) : Option Nat :=
  let e := routeEntry s chip
  if !(bit e 63) then none
  else match routeWithin s e (awake s) from_ src msgid with
    | some p => some p
    | none => routeWithin s e id from_ src msgid

/-- The entry replicates: MODE 2, of a group ID. -/
def replicates (s : State) (chip : Nat) : Bool := bit (routeEntry s chip) 63 && decide (bits (routeEntry s chip) 60 2 = 2)

/-- The branches of a MODE 2 entry: every up PRIMARY, a down one replaced by the lowest up ALT not in use; and whether one found no port. -/
def branches (s : State) (chip : Nat) : List Nat × Bool :=
  let e := routeEntry s chip
  let prim := (List.range 16).filter (fun p => decide (bits e 0 16 / 2 ^ p % 2 = 1))
  let up := prim.filter (portUpAt s)
  (prim.filter (fun p => !(portUpAt s p))).foldl (fun (r : List Nat × Bool) _ =>
    match (List.range 16).find? (fun p => decide (bits e 16 16 / 2 ^ p % 2 = 1) && portUpAt s p && !(r.1.contains p)) with
    | some p => (r.1 ++ [p], r.2)
    | none => (r.1, true)) (up, false)

def ownModule (s : State) (chip : Nat) : Bool := decide (chip = 0xFFF) || decide (chip = ownChip s)

def queueOut (s : State) (p : Nat) (fs : List OutFlit) : State := updPort s p (fun x => { x with freeOut := x.freeOut ++ fs })

/-! ### Completion (R262) -/

def findMsg (s : State) (src : Nat) (msgid : W32) : Option Msg := s.fab.msgs.find? (fun m => decide (m.src = src) && decide (m.msgid = msgid))
def updMsgs (s : State) (f : List Msg → List Msg) : State := updFab s (fun x => { x with msgs := f x.msgs })
def setMsg (s : State) (m : Msg) : State :=
  updMsgs s (fun l => l.map (fun x => if x.src = m.src ∧ x.msgid = m.msgid then m else x))
def dropMsg (s : State) (src : Nat) (msgid : W32) : State :=
  updMsgs s (fun l => l.filter (fun x => !(decide (x.src = src) && decide (x.msgid = msgid))))

/-- A nonzero status is a message fault at the source (R262). -/
def messageFault (s : State) (m : Msg) (st : BitVec 4) : State :=
  let s := setFabStatus s 4
  let lc := if m.src < 72 then logicalOf s m.src else 0
  let s := updFab s (fun f => { f with
    msgLast := BitVec.ofNat 32 (st.toNat * 2 ^ 24 + lc % 64 * 2 ^ 16 + min (f.msgLast.toNat % 65536 + 1) 65535) })
  let low := st.toNat * 2 ^ 40 + m.msgid.toNat
  if m.src < 72 then raiseCore s m.src 0x15 low else raise s 0x15 m.ctx.toList 3 0 (m.ctx.getD 0) low

/-- SNAP_DONE, once, when the outstanding messages have completed after a snapshot stop, and the event of KIND 0x05 (R272, R330). -/
def snapDone (s : State) : State :=
  if s.fab.snapStop && !s.fab.snapOver && s.fab.msgs.isEmpty then
    postSteward (setFabStatus (updFab s (fun f => { f with snapOver := true })) 9) 5 0 0 0 0
  else s

/-- A GET's data reaches its local destination; a store that is being cleared takes none (R169). -/
def storeLocal (s : State) (c laddr : Nat) (data : List Byte) : State :=
  if laddr < 0x10000000 ∧ (coreAt s c).clearing = true then s
  else if laddr < 0x10000000 then remoteStoreWrite s c laddr data none none false else remoteTierWrite s c (laddr - 0x10000000) data none none false

/-- Where a service-core address outside the TCMs lies: the service store, or a core's local space (Table 12.1). -/
def svcPlace (a : Nat) : Option (Option Nat × Nat) :=
  if 0x2000000 ≤ a ∧ a < 0x3000000 then some (none, a - 0x2000000)
  else if 0x1000000000 ≤ a ∧ a < 0x1000000000 + 72 * 0x100000000 then some (some ((a - 0x1000000000) / 0x100000000), (a - 0x1000000000) % 0x100000000)
  else none

/-- Data of a GET of the service message engine reaches its SLADDR; a column is written as class 3 traffic (R347). -/
def svcDeliver (s : State) (a : Nat) (data : List Byte) : State :=
  match svcPlace a with
  | some (none, o) => updSvc s (fun v => { v with mem := writeBytes v.mem (0x800000 + o) data })
  | some (some c, o) => storeLocal s c o data
  | none => s

/-- An outstanding message of this module ends with a status (and, for a GET, its data). -/
def finishMsg (s : State) (m : Msg) (st : BitVec 4) (data : List Byte) : State :=
  let s := dropMsg s m.src m.msgid
  if m.dead then snapDone s
  else if 72 ≤ m.src then
    let s := if m.src = 72 ∧ m.op = 1 ∧ st = 0 then svcDeliver s m.laddr (data.take m.len) else s
    let s := updFab s (fun f => { f with ended := f.ended ++ [(m.src, m.msgid, st, data)] })
    snapDone (if st = 0 then s else messageFault s m st)
  else
    let s := if m.op = 1 ∧ st = 0 then storeLocal s m.src m.laddr (data.take m.len) else s
    let s := readyOp s m.src (.message m.msgid.toNat) false
    snapDone (if st = 0 then s else messageFault s m st)

/-- A REPLY, a response or a local answer: one of the message's copies has ended; unknown MSGIDs are discarded (R262, R264). -/
def answerMsg (s : State) (src : Nat) (msgid : W32) (st : BitVec 4) (data : List Byte) : State :=
  match findMsg s src msgid with
  | none => s
  | some m =>
    if !m.started then s
    else
      let first := if m.status = 0 then st else m.status
      if 1 < m.copies then setMsg s { m with copies := m.copies - 1, status := first }
      else finishMsg s m first data

/-- The source that a source address and MSGID name on this module. -/
def sourceOf (s : State) (saddr : W64) (msgid : W32) : Option Nat :=
  let c := gaCore saddr
  if c = 0xFF then (s.fab.msgs.find? (fun m => decide (72 ≤ m.src) && decide (m.msgid = msgid))).map (·.src) else physicalOf s c

/-- A REPLY frame's payload: MSGID and status (assumption log 9). -/
def replyPayload (msgid : W32) (st : BitVec 4) (saddr : W64) : Nat := msgid.toNat + st.toNat * 2 ^ 32 + saddr.toNat * 2 ^ 64

/-- An answer to a request of an older part, whose source address names core 0xFE of its own module and whose MSGID is the port: done, or an
error (R249, assumption log 64). -/
def legacyDone (s : State) (p : Nat) (st : BitVec 4) : State :=
  updPort s p (fun x => { x with legacyOut := x.legacyOut ++ [⟨if st = 0 then 2 else 3, 0, 0, []⟩] })

/-- Answer the source of a message from a core: on this module at once, else by a REPLY on its route. -/
def replyTo (s : State) (d : Due) : State :=
  let chip := gaChip d.saddr
  if ownModule s chip then
    if gaCore d.saddr = 0xFE then legacyDone s (d.msgid.toNat % 16) d.st
    else match sourceOf s d.saddr d.msgid with
    | some src => answerMsg s src d.msgid d.st []
    | none => s
  else match routePort s chip (ownChip s) d.core d.msgid.toNat with
    | some p => updPort s p (fun x => { x with
        control := x.control ++ [⟨9, 0, BitVec.ofNat 12 chip, 0, BitVec.ofNat 2048 (replyPayload d.msgid d.st d.saddr)⟩] })
    | none => s

def findJoin (s : State) (saddr : W64) (msgid : W32) : Option Join := s.fab.joins.find? (fun j => decide (j.saddr = saddr) && decide (j.msgid = msgid))

/-- A message has `n` copies more that answer together with it (R264). -/
def joinMore (s : State) (h : Hdr) (n : Nat) : State :=
  if n = 0 then s
  else match findJoin s h.saddr h.msgid with
    | some j => updFab s (fun f => { f with joins := ⟨j.saddr, j.msgid, j.left + n, j.st⟩ :: f.joins.erase j })
    | none => updFab s (fun f => { f with joins := ⟨h.saddr, h.msgid, n + 1, 0⟩ :: f.joins })

/-- One status: copies that answer together are counted down first, and the last sends the first nonzero status (R264). -/
def settleOne (s : State) (d : Due) : State :=
  match findJoin s d.saddr d.msgid with
  | none => replyTo s d
  | some j =>
    let rest := s.fab.joins.erase j
    let st := if j.st = 0 then d.st else j.st
    if j.left ≤ 1 then replyTo (updFab s (fun f => { f with joins := rest })) { d with st := st }
    else updFab s (fun f => { f with joins := ⟨j.saddr, j.msgid, j.left - 1, st⟩ :: rest })

/-- A REPLY frame: one of this module's own messages has ended; on its way to another module it goes on, or, where this module made the copies,
is counted with the others (R262, R264, assumption log 64). -/
def replyArrive (s : State) (saddr : W64) (msgid : W32) (st : BitVec 4) : State :=
  if ownModule s (gaChip saddr) then replyTo s ⟨saddr, msgid, st, 0⟩ else settleOne s ⟨saddr, msgid, st, 0⟩

/-- Answer every owed status. -/
def settleReplies (s : State) : State :=
  s.fab.due.foldl settleOne (updFab s (fun f => { f with due := [] }))

/-! ### Delivery at a core of this module (R140, R161, R170, R261, R262, R265) -/

/-- Where a local byte address of a core lies (Table 5.1). -/
inductive Region where
  | store (a : Nat)
  | column (a : Nat)
  | control (off : Nat)
  | ring (r off : Nat)
  | none_

def regionOf (a : Nat) : Region :=
  if a < 0x800000 then .store a
  else if 0x10000000 ≤ a ∧ a < 0x1C000000 then .column (a - 0x10000000)
  else if 0x40000000 ≤ a ∧ a < 0x40002000 then .control (a - 0x40000000)
  else if 0x48000000 ≤ a ∧ a < 0x48400000 then .ring ((a - 0x48000000) / 0x40000) ((a - 0x48000000) % 0x40000)
  else .none_

/-- The destination core belongs to a context that a message may reach (R261): the sending context's own, or one of its tag; tag 0xFFFF
is accepted everywhere. -/
def tagOk (s : State) (c job : Nat) (sctx : Option Nat) : Bool :=
  if job = 0xFFFF then true
  else match ctxOfCore s c with
    | none => false
    | some k => decide (sctx = some k) || decide (jobTag s k = some job)

/-- Lines of an LADD: header, then 4 values a line; each value's fault is raised at the destination (R265). -/
def laddApply (s : State) (c a : Nat) (data : List Byte) : BitVec 4 × State :=
  let n := sliceNat data 2 2
  if a % 64 ≠ 0 ∨ data.length ≠ 64 + 16 * n then (4, s)
  else
    let (old, ok, s) := readStore s c a data.length false
    if !ok then (5, s)
    else if sliceNat old 2 2 ≠ n then (4, s)
    else if sliceNat old 0 2 ≠ sliceNat data 0 2 then (7, raiseCore s c 4 (7 * 2 ^ 40))
    else
      let val (bs : List Byte) (i : Nat) : Int := signed 128 (sliceNat bs (64 + 16 * i) 16)
      let sums := (List.range n).map (fun i => val old i + val data i)
      let body := sums.zipIdx.flatMap (fun p => if longOk p.1 then longBytes p.1 else slice old (64 + 16 * p.2) 16)
      let all := old.take 64 ++ body
      let s := forAll (List.range ((all.length + 63) / 64)) s (fun s i =>
        let old := lineBytes (coreAt s c) (a / 64 + i)
        let new := (all.drop (64 * i)).take 64
        updCore s c (fun x => putLine x (a / 64 + i) (new ++ old.drop new.length)))
      let bad := (sums.zipIdx.filter (fun p => !(longOk p.1))).map (·.2)
      match bad with
      | [] => (0, s)
      | _ => (7, forAll bad s (fun s i => raiseCore s c 3 (7 * 2 ^ 40 + i % 16 * 2 ^ 32)))

/-- A mesh fault of a router, in the context of the flit (Table 8.10). -/
def meshFault (s : State) (r code ctx low stat : Nat) : State :=
  raise (updRouter s r (fun x => { x with status := orBit x.status stat })) code [ctx] 1 r ctx low

/-- A source router finds no valid entry for a destination: the flit is discarded (R225). -/
def unroutable (s : State) (r ctx dest : Nat) : State := meshFault s r 0x14 ctx (dest * 2 ^ 37) 6

/-- The router has a valid routing entry for a destination (R223). -/
def routes (s : State) (r dest : Nat) : Bool := bit (tget 0 (routerAt s r).route dest) 7 && !((routerAt s r).bad.contains dest)

/-- A write of control-region words from a message: sync words alone, each taking effect with the arrival step unless its description refuses it
(R170, R261, R262). -/
def messageWords (s : State) (c o : Nat) (data : List Byte) : BitVec 4 × State :=
  let n := data.length / 4
  if o % 4 ≠ 0 ∨ data.length % 4 ≠ 0 ∨ 0x2000 < o + data.length then (4, s)
  else if !((List.range n).all (fun i => isSyncWord (o + 4 * i))) then (3, s)
  else (0, forAll (List.range n) s (fun s i => (writeSync s c (o + 4 * i) (BitVec.ofNat 32 (sliceNat data (4 * i) 4))).1))

/-- Deliver a write to one core, with the arrival it names: its status is owed to the source, at once or once its bytes are in their banks. A
poisoned one is written as delivered and ends with a data error and no arrival; of a ring slot it fills none (R238, R262, assumption log 64). -/
def deliverCore (s : State) (h : Hdr) (c off : Nat) (data : List Byte) (sctx : Option Nat) (arrive : Option (Nat × Byte)) : State :=
  let r : Reply := some (h.saddr, h.msgid)
  let x := coreAt s c
  if data.isEmpty then oweStatus s c r 0
  else if 2 ^ 32 ≤ off ∨ !(enabledCore s c) then oweStatus s c r 2
  else if !(tagOk s c h.job sctx) then oweStatus s c r 3
  else match regionOf off with
    | .none_ => oweStatus s c r 2
    | .control o =>
      let (st, s) := messageWords s c o data
      oweStatus s c r (if st = 0 ∧ h.poison then 5 else st)
    | .ring g o =>
      if x.clearing then oweStatus s c r 2
      else if h.op = 3 then oweStatus s c r 4
      else if o ≠ 0 ∨ !(ringAt x g).enabled ∨ data.length ≠ 64 * ringLines x g then oweStatus s c r 4
      else if h.poison then oweStatus s c r 5
      else ringWrite s c g data h.saddr r
    | .store a =>
      if x.clearing then oweStatus s c r 2
      else if 0x800000 < a + data.length then oweStatus s c r 4
      else if h.op = 3 then
        let (st, s) := laddApply s c a data
        if st = 0 ∧ !h.poison then arriveThen s c arrive r else oweStatus s c r (if st = 0 then 5 else st)
      else remoteStoreWrite s c a data arrive r h.poison
    | .column a =>
      if 0xC000000 < a + data.length then oweStatus s c r 4
      else if h.op = 3 then oweStatus s c r 4
      else remoteTierWrite s c a data arrive r h.poison

/-- Read for a GET from a core of this module: status and data. -/
def fetchCore (s : State) (c off len job : Nat) (sctx : Option Nat) : BitVec 4 × List Byte × State :=
  if 2 ^ 32 ≤ off ∨ !(enabledCore s c) then (2, [], s)
  else if !(tagOk s c job sctx) then (3, [], s)
  else match regionOf off with
    | .none_ => (2, [], s)
    | .ring _ _ => (2, [], s)
    | .control o =>
      if 0x2000 < o + len then (4, [], s)
      else
        let ws := (List.range ((o % 4 + len + 3) / 4)).flatMap (fun i => leBytes 4 (coreWord s c (o / 4 * 4 + 4 * i)).toNat)
        (0, slice ws (o % 4) len, s)
    | .store a =>
      if (coreAt s c).clearing then (2, [], s)
      else if 0x800000 < a + len then (4, [], s)
      else let (d, ok, s) := readStore s c a len false; if ok then (0, d, s) else (5, [], s)
    | .column a =>
      if 0xC000000 < a + len then (4, [], s)
      else let (d, ok, s) := readColumn s c a len false; if ok then (0, d, s) else (5, [], s)

/-- The context record of module service space (Table 12.4). -/
def ctxRecord (s : State) (k : Nat) : List Byte :=
  let c := ctxAt s k
  let st := match c.st with | .unbound => 0 | .bound => 1 | .loaded => 2 | .running => 3
  leBytes 2 ((jobTag s k).getD 0) ++ leBytes 1 st ++ List.replicate 29 0 ++
    (match c.bolt with | some b => leBytes 32 b.digest.toNat | none => List.replicate 32 0)

/-- A write to module service space (R348, Table 12.4): the service store, and the serving mailbox (a coded segment is kept, R307; its other
messages have commands of their own). -/
def deliverService (s : State) (h : Hdr) (off : Nat) (data : List Byte) : State :=
  let owe (s : State) (st : BitVec 4) : State := oweStatus s 0xFF (some (h.saddr, h.msgid)) (if st = 0 ∧ h.poison then 5 else st)
  if gaCore h.saddr ≠ 0xFF then owe s 2
  else if off < 0x1000000 then
    if 0x1000000 < off + data.length then owe s 4
    else owe (updSvc s (fun v => { v with mem := writeBytes v.mem (0x800000 + off) data })) 0
  else if off < 0x1001000 then
    if 0x1001000 < off + data.length then owe s 4
    else owe (if sliceNat data 0 8 = 5 then
      updSrv s (fun v => { v with segs := v.segs ++ [(BitVec.ofNat 64 (sliceNat data 8 8), sliceNat data 16 8, data.drop 64)] }) else s) 0
  else owe s 2

/-- A read of module service space: the service store and the context records. -/
def fetchService (s : State) (saddr : W64) (off len : Nat) : BitVec 4 × List Byte × State :=
  if gaCore saddr ≠ 0xFF then (2, [], s)
  else if off < 0x1000000 then
    if 0x1000000 < off + len then (4, [], s) else (0, readBytes s.svc.mem (0x800000 + off) len, s)
  else if 0x1001000 ≤ off ∧ off < 0x1001400 then
    if 0x1001400 < off + len then (4, [], s) else (0, slice ((List.range 16).flatMap (ctxRecord s)) (off - 0x1001000) len, s)
  else (2, [], s)

/-- The cores of a CORESET, as logical numbers. -/
def coresetCores (w : W64) : List Nat := (List.range 64).filter (fun i => bit w i)

/-- Deliver a write that enters the mesh at router `r0`: to one core, a core set, each copy crossing on its own, or service space. A destination that
the router has no entry for is unreachable (R225); a write of no bytes is a no-op with success (R12). -/
def deliver (s : State) (r0 : Nat) (h : Hdr) (data : List Byte) (sctx : Option Nat) : State :=
  let r : Reply := some (h.saddr, h.msgid)
  let f := gaCore h.daddr
  let off := gaOff h.daddr
  let one (s : State) (n : Nat) : State := match physicalOf s n with
    | some c =>
      if routes s r0 c then deliverCore s h c off data sctx (h.arrive.map (fun a => (c, a)))
      else oweStatus (unroutable s r0 (sctx.getD 0) c) c r 1
    | none => oweStatus s 0xFF r 2
  if data.isEmpty then oweStatus s 0xFF r 0
  else if f = 0xFF then
    if routes s r0 90 then deliverService s h off data else oweStatus (unroutable s r0 (sctx.getD 0) 90) 0xFF r 1
  else if f = 0xFE then
    match coresetCores h.coreset with
    | [] => oweStatus s 0xFF r 6
    | cs => forAll cs (joinMore s h (cs.length - 1)) one
  else one s f

/-- Read for a GET on this module whose request enters the mesh at router `r0`. -/
def fetch (s : State) (r0 : Nat) (h : Hdr) (sctx : Option Nat) : BitVec 4 × List Byte × State :=
  let f := gaCore h.daddr
  if h.len = 0 then (0, [], s)
  else if f = 0xFF then
    if routes s r0 90 then fetchService s h.saddr (gaOff h.daddr) h.len else (1, [], unroutable s r0 (sctx.getD 0) 90)
  else match physicalOf s f with
    | some c => if routes s r0 c then fetchCore s c (gaOff h.daddr) h.len h.job sctx else (1, [], unroutable s r0 (sctx.getD 0) c)
    | none => (2, [], s)

/-! ### Headers of this module's messages, and arriving messages -/

def maxHops (s : State) : Nat := bits s.fab.cfg.eff 0 4

/-- The job tag a message carries (R261). -/
def msgJob (s : State) (m : Msg) : Nat := match m.ctx with | some k => bits (tget {} s.fab.job k).eff 0 16 | none => 0xFFFF

/-- The header of a message of this module. -/
def msgHdr (s : State) (m : Msg) : Hdr :=
  let core := if m.src < 72 then logicalOf s m.src else 0xFF
  let op := match m.op with | 1 => 1 | 2 => 3 | 3 => 4 | _ => if gaCore m.gaddr = 0xFE then 5 else 0
  ⟨m.gaddr, gaMake (ownChip s) core (if m.op = 1 then m.laddr else 0), op, maxHops s, m.len, msgJob s m,
   m.arrive, if gaCore m.gaddr = 0xFE then m.coreset else 0, m.msgid, false⟩

/-- The context whose data a GET reads: that of the target core; none for the service complex. -/
def targetCtx (s : State) (h : Hdr) : Option Nat := match physicalOf s (gaCore h.daddr) with | some c => ctxOfCore s c | none => none

/-- Answer a GET request from another module: its response, of the target core and its context, or a REPLY with its status (R258, R260). -/
def respond (s : State) (r0 : Nat) (h : Hdr) : State :=
  let (st, d, s) := fetch s r0 h none
  let chip := gaChip h.saddr
  let core := gaCore h.daddr
  if st ≠ 0 ∨ h.poison then replyTo s ⟨h.saddr, h.msgid, if st = 0 then 5 else st, core⟩
  else match routePort s chip (ownChip s) core h.msgid.toNat with
    | some p =>
      let r : Hdr := ⟨h.saddr, gaMake (ownChip s) core 0, 2, maxHops s, h.len, h.job, none, 0, h.msgid, false⟩
      queueOut s p (messageFlits r d (targetCtx s h) (72 + p) 1 1)
    | none => s

/-- A whole message that has reached this module at router `r0` (R262): a write, a GET request, or the response to one of its own GETs; one that came poisoned
leaves that GET's destination as it was. -/
def acceptMessage (s : State) (r0 : Nat) (h : Hdr) (data : List Byte) : State :=
  match h.op with
  | 1 => respond s r0 h
  | 2 =>
    match sourceOf s h.daddr h.msgid with
    | some src => if h.poison then answerMsg s src h.msgid 5 [] else answerMsg s src h.msgid 0 data
    | none => s
  | 0 | 3 | 4 | 5 => deliver s r0 h data none
  | _ => s

end Sys2Proof.Machine
end

