-- ==== Sys2Proof/Machine/MeshOps.lean ====
section
/-! DEFINITION. The mesh: routing tables, weft and free flits through a router, seams, and delivery at a local port (08). -/

namespace Sys2Proof.Machine

/-! ### Routing from the enabled-core map (R223) -/

/-- The edge core and port that an attachment link of a selvedge router joins (Table 8.2). -/
def attach (p : Nat) (second : Bool) : Nat × Nat :=
  let rx : List ((Nat × Nat) × (Nat × Nat)) :=
    [((0, 5), (0, 6)), ((0, 7), (1, 5)), ((1, 6), (1, 7)), ((2, 5), (2, 6)), ((3, 5), (3, 6)), ((4, 5), (4, 6)), ((4, 7), (5, 5)), ((5, 6), (5, 7))]
  let e := rx.getD (p / 2) ((0, 5), (0, 6))
  let v := if second then e.2 else e.1
  (12 * v.1 + (if p % 2 = 0 then 0 else 11), v.2)

/-- The mesh neighbour of a core router on a compass port: 1 N, 2 E, 3 S, 4 W. -/
def meshNeighbour (c port : Nat) : Option Nat := if 1 ≤ port ∧ port ≤ 4 then neighbourOf c (port - 1) else none

/-- The edge agents: destination number, core and port (R217). -/
def edgeAgents : List (Nat × Nat × Nat) := [(88, 0, 3), (89, 11, 3), (90, 63, 1), (90, 68, 1)]

/-- The edge agent on a port of a core router. -/
def agentOf (r port : Nat) : Option Nat := (edgeAgents.find? (fun e => decide (e.2.1 = r) && decide (e.2.2 = port))).map (·.1)

/-- The selvedge router and port at the far end of an attachment port of a core router (Table 8.2). -/
def attached (r port : Nat) : Option (Nat × Nat) :=
  (List.range 16).findSome? (fun q =>
    if attach q false = (r, port) then some (72 + q, 1) else if attach q true = (r, port) then some (72 + q, 2) else none)

/-- The router and input at the far end of an output's link (Table 8.1); none at a local port, a fabric side, an edge agent or an absent port. -/
def linkEnd (r out : Nat) : Option (Nat × Nat) :=
  if r < 72 then
    match meshNeighbour r out with
    | some n => some (n, (out + 1) % 4 + 1)
    | none => attached r out
  else if out = 1 then some (attach (r - 72) false)
  else if out = 2 then some (attach (r - 72) true)
  else none

/-- The router exists: of an enabled core, or a selvedge router (R215, R239). -/
def routerExists (s : State) (r : Nat) : Bool := (decide (72 ≤ r) && decide (r < 88)) || enabledCore s r

/-- The port exists, and does not lead to a disabled router (R215 to R217). -/
def portLeads (s : State) (r p : Nat) : Bool :=
  decide (p = 0) ||
  match linkEnd r p with
  | some (n, _) => routerExists s n
  | none => (agentOf r p).isSome

/-- The port is one of Table 8.1's for the router, whether or not its neighbour is enabled. -/
def portThere (r p : Nat) : Bool := decide (p = 0) || (linkEnd r p).isSome || (agentOf r p).isSome

/-- The offset is of a slot table of an output port that is there; those of absent ports are reserved (Table 8.11). -/
def slotOffset (r off : Nat) : Bool := decide (0x10000 ≤ off) && decide (off < 0x50000) && portThere r ((off - 0x10000) / 0x8000)

/-- The places at which a destination leaves the core mesh: core and output port. -/
def exits (s : State) (d : Nat) : List (Nat × Nat) :=
  let all := if d < 72 then [(d, 0)]
    else if d < 88 then [attach (d - 72) false, attach (d - 72) true]
    else (edgeAgents.filter (fun e => decide (e.1 = d))).map (fun e => (e.2.1, e.2.2))
  all.filter (fun e => enabledCore s e.1)

def unreached : Nat := 1000

/-- One round of relaxation of distances over the enabled routers. -/
def relax (s : State) (dist : List Nat) (f : List Nat → Nat → Nat → Nat → Bool × Nat) : List Nat :=
  (List.range 72).map (fun c =>
    if !(enabledCore s c) then unreached
    else [1, 2, 3, 4].foldl (fun m p =>
      match meshNeighbour c p with
      | some n => if enabledCore s n then (let r := f dist c n p; if r.1 then min m (r.2 + 1) else m) else m
      | none => m) (dist.getD c unreached))

/-- Rounds until nothing changes, at most `n`. -/
def iterate : Nat → (List Nat → List Nat) → List Nat → List Nat
  | 0, _, x => x
  | n + 1, f, x => let y := f x; if y = x then x else iterate n f y

/-- Hop distances from the root over enabled routers. -/
def levels (s : State) : List Nat :=
  let root := if enabledCore s 63 then 63 else 68
  iterate 72 (fun d => relax s d (fun d _ n _ => (true, d.getD n unreached)))
    ((List.range 72).map (fun c => if c = root then 0 else unreached))

/-- The link from c to n leads up. -/
def leadsUp (lv : List Nat) (c n : Nat) : Bool :=
  decide (lv.getD n unreached < lv.getD c unreached) || (decide (lv.getD n unreached = lv.getD c unreached) && decide (n < c))

/-- Down-only and up-then-down distances of every core router to a destination. -/
def distances (s : State) (lv : List Nat) (d : Nat) : List Nat × List Nat :=
  let ex := exits s d
  let start := (List.range 72).map (fun c => if ex.any (fun e => decide (e.1 = c)) then 1 else unreached)
  let down := iterate 72 (fun x => relax s x (fun x c n _ => (!(leadsUp lv c n), x.getD n unreached))) start
  (down, iterate 72 (fun x => relax s x (fun x c n _ => (leadsUp lv c n, x.getD n unreached))) down)

/-- The routing entry of a core router for a destination. -/
def coreRoute (s : State) (lv down ud : List Nat) (d c : Nat) : Byte :=
  if !(enabledCore s c) then 0
  else match ((exits s d).filter (fun e => decide (e.1 = c))).map (·.2) with
  | p :: ps => BitVec.ofNat 8 (128 + ps.foldl min p)
  | [] =>
    let best := ud.getD c unreached
    if unreached ≤ best then 0
    else match [1, 2, 3, 4].find? (fun p => match meshNeighbour c p with
        | some n => enabledCore s n && decide ((if leadsUp lv c n then ud.getD n unreached else down.getD n unreached) + 1 = best)
        | none => false) with
      | some p => BitVec.ofNat 8 (128 + p)
      | none => 0

/-- Every routing table, as firmware loads them at start (R223). -/
def loadRoutes (s : State) : State :=
  let lv := levels s
  let table := (List.range 91).map (fun d => let (dn, ud) := distances s lv d; (List.range 72).map (fun c => coreRoute s lv dn ud d c))
  let s := forAll (enabledCores s) s (fun s c =>
    let es := (List.range 91).foldl (fun (t : Tbl Byte) d => tset 0 t d ((table.getD d []).getD c 0)) []
    updRouter s c (fun r => { r with route := es, routeStaged := es }))
  forAll (List.range 16) s (fun s p =>
    let out := if enabledCore s (attach p false).1 then 1 else 2
    let es := (List.range 91).foldl (fun (t : Tbl Byte) d =>
      let ok := decide (d = 72 + p) || (!(exits s d).isEmpty)
      tset 0 t d (if !ok then 0 else if d = 72 + p then 128 else BitVec.ofNat 8 (128 + out))) []
    updRouter s (72 + p) (fun r => { r with route := es, routeStaged := es }))

/-! ### Flits (Table 8.3) -/

def sideWeft (w : W64) : Bool := bit w 63
def sideLast (w : W64) : Bool := bit w 61
def sideCtx (w : W64) : Nat := bits w 57 4
def sideStream (w : W64) : Nat := bits w 47 10
def sideDest (w : W64) : Nat := bits w 50 7
def sideVc (w : W64) : Nat := bits w 49 1
def sideCls (w : W64) : Nat := bits w 47 2
def sideSeq (w : W64) : Nat := bits w 31 16
def sideBase (w : W64) : Nat := bits w 21 10

/-- The core routers stand still: in a worked tempo, while the lock set slips and in the boundary wait (R50, R52, R220). -/
def meshStopped (s : State) : Bool := s.tmp.working && (s.lock.gated || (lockCores s).any (coreHolds s))

/-- The router applies weft entries: enabled, and not in a cluster in I1 or deeper (R232). -/
def weftActive (s : State) (r : Nat) : Bool :=
  bit (routerAt s r).ctrl 0 && (decide (72 ≤ r) || clusterInLock s (clusterOf r))

/-- An entry with bad parity (R238): the fault, in the flit's context. -/
def parityFault (s : State) (r ctx entry : Nat) : State := meshFault s r 0x11 ctx (6 * 2 ^ 40 + entry * 2 ^ 24) 1

def badEntry (s : State) (r entry : Nat) : Bool := (routerAt s r).bad.contains entry

/-! ### Seams (R235, R236) -/

/-- Mesh sideband of a weft flit (Table 8.3). -/
def weftSide (last : Bool) (ctx stream seq base : Nat) : W64 :=
  BitVec.ofNat 64 (2 ^ 63 + b2n last * 2 ^ 61 + ctx % 16 * 2 ^ 57 + stream % 1024 * 2 ^ 47 + seq % 65536 * 2 ^ 31 + base % 1024 * 2 ^ 21)

def seamValid (e : W64) : Bool := bit e 63
def seamIn (e : W64) : Nat := bits e 55 8
def seamOutMask (e : W64) : Nat := bits e 47 8
def seamOutStream (e : W64) : Nat := bits e 37 10
def seamBase (e : W64) : Nat := bits e 31 6
def seamDepth (e : W64) : Nat := bits e 25 6 + 1

def flitLanes (p : Flit256) : List Int := (List.range 16).map (fun i => signed 128 (bits p (128 * i) 128))
def lanesFlit (ls : List Int) : Flit256 := BitVec.ofNat 2048 (leNat (ls.flatMap longBytes))

/-- The flit of a complete seam entry: faulting lanes zero, POISON where there was a fault (R236). -/
def seamFlit (e : W64) (n : SeamEnt) : MeshFlit :=
  let side := weftSide n.lastSeen n.ctx.toNat (seamOutStream e) n.seq.toNat n.base.toNat
  meshFlit (lanesFlit (n.lanes.zipIdx.map (fun p => if bit n.dead p.2 then 0 else p.1))) (if n.poison then orBit side 62 else side)

/-- An operand flit enters its seam buffer entry, is added into it, or overruns; with the last input the result moves to the seam output and
the entry is free (R236). -/
def seamOperand (s : State) (r seam inp : Nat) (f : MeshFlit) : State :=
  let x := routerAt s r
  let e := tget 0 x.seam seam
  let ctx := sideCtx f.side
  let at_ := seamBase e + sideSeq f.side % seamDepth e
  let put (s : State) (n : SeamEnt) : State :=
    if n.seen.toNat &&& seamIn e = seamIn e then
      updRouter s r (fun x => { x with
        seamBuf := tset none x.seamBuf at_ none
        seamOut := x.seamOut ++ [(seam, ⟨8, 0, seamFlit e n, BitVec.ofNat 8 (seamOutMask e), s.now⟩)] })
    else updRouter s r (fun x => { x with seamBuf := tset none x.seamBuf at_ (some n) })
  let fault (s : State) (kind stat : Nat) : State :=
    meshFault (updRouter s r (fun x => { x with seamFaults := satAdd x.seamFaults 1 })) r 0x13 ctx (seam * 2 ^ 38 + kind * 2 ^ 36) stat
  if badEntry s r (1152 + seam) then parityFault s r ctx (1152 + seam)
  else match tget none x.seamBuf at_ with
  | none =>
    put s ⟨BitVec.ofNat 16 (sideSeq f.side), BitVec.ofNat 10 (sideBase f.side), BitVec.ofNat 4 ctx, BitVec.ofNat 8 (2 ^ inp),
      flitLanes f.payload, sideLast f.side, bit f.side 62, 0⟩
  | some n =>
    if n.seq.toNat ≠ sideSeq f.side ∨ bit n.seen inp then fault s 2 5
    else
      let n' := { n with seen := orBit n.seen inp, lastSeen := n.lastSeen || sideLast f.side, poison := n.poison || bit f.side 62 }
      if n.base.toNat ≠ sideBase f.side then fault (put s { n' with dead := BitVec.allOnes 16, poison := true }) 0 3
      else
        let sums := addLists n.lanes (flitLanes f.payload)
        let past := sums.zipIdx.filter (fun p => !(longOk p.1) && !(bit n.dead p.2))
        let s := put s { n' with
          lanes := sums.map (fun v => if longOk v then v else 0), dead := past.foldl (fun d p => orBit d p.2) n.dead
          poison := n'.poison || !past.isEmpty }
        if past.isEmpty then s else fault s 1 4

/-! ### A router receives a flit (R218, R225, R226) -/

/-- A flit with POISON set and its CRC fresh. -/
def poisoned (f : MeshFlit) : MeshFlit := meshFlit f.payload (orBit f.side 62)

/-- A stray weft flit is discarded (R226). -/
def strayFlit (s : State) (r : Nat) (f : MeshFlit) : State :=
  meshFault (updRouter s r (fun x => { x with strayCount := satAdd x.strayCount 1 })) r 0x12 (sideCtx f.side) (sideStream f.side * 2 ^ 34) 2

/-- A flit at a router input. -/
def routerReceive (s : State) (r inp : Nat) (f : MeshFlit) : State :=
  if !(routerExists s r) then s
  else
    let ctx := sideCtx f.side
    let good := decide (flitCrc f.payload f.side = f.crc)
    let s := if good then s else
      meshFault (updRouter s r (fun x => { x with crcCount := satAdd x.crcCount 1 })) r 0x10 ctx (inp * 2 ^ 41) 0
    let f := if good then f else poisoned f
    if sideWeft f.side then
      let e := tget 0 (routerAt s r).stream (sideStream f.side)
      if badEntry s r (128 + sideStream f.side) then parityFault s r ctx (128 + sideStream f.side)
      else if !(weftActive s r) ∨ !(bit e 31) ∨ bits e 26 4 ≠ ctx ∨ bits e 23 3 ≠ inp then strayFlit s r f
      else if bit e 30 then seamOperand s r (bits e 9 6) inp f
      else updRouter s r (fun x => { x with weft := x.weft ++ [⟨inp, 0, f, BitVec.ofNat 8 (bits e 15 8), s.now⟩] })
    else
      let e := tget 0 (routerAt s r).route (sideDest f.side)
      if badEntry s r (sideDest f.side) then parityFault s r ctx (sideDest f.side)
      else if bit e 7 then updRouter s r (fun x => { x with free := x.free ++ [⟨inp, bits e 0 3, f, 0, s.now⟩] })
      else unroutable s r ctx (sideDest f.side)

/-! ### Delivery at a core's local port (R237, R260) -/

/-- A complete weft message at a local port: an SPUT's header gives its destination; values of a seam go to their stream's destination
in the LONG layout. A message from another module is accepted by its job tag alone (R261). -/
def weftDeliver (s : State) (c : Nat) (fs : List MeshFlit) : State :=
  let side := (fs.headD ⟨0, 0, 0⟩).side
  let data := fs.flatMap (fun f => leBytes 256 f.payload.toNat)
  let poison := fs.any (fun f => bit f.side 62)
  let d := tget {} s.fab.streamTo (sideCtx side * 1024 + sideStream side)
  if d.at_ ≠ 0 then
    let all := longHead (signed 10 (sideBase side)) d.values ++ data.take (16 * d.values)
    deliverCore s ⟨0, gaMake 0xFFF 0xFE 0, 4, 0, all.length, 0xFFFF, d.arrive, 0, 0, poison⟩ c (d.at_ - 1) all none (d.arrive.map (fun a => (c, a)))
  else
    let h := { Hdr.parse data with poison := poison }
    deliverCore s h c (gaOff h.daddr) ((data.drop 64).take h.len) (if ownModule s (gaChip h.saddr) then some (sideCtx side) else none)
      (h.arrive.map (fun a => (c, a)))

/-- Every flit of a message has come: their SEQ run from 0 (R238). -/
def wholeMessage (fs : List MeshFlit) : Bool := decide (fs.map (fun f => sideSeq f.side) = List.range fs.length)

/-- A flit leaves on the local port; with the last one of its message, the message is delivered; one that lacks a discarded flit never
completes (R238). -/
def localArrive (s : State) (c : Nat) (f : MeshFlit) : State :=
  let x := routerAt s c
  let same (g : MeshFlit) : Bool := (sideWeft g.side == sideWeft f.side) && decide (sideCtx g.side = sideCtx f.side) &&
    (if sideWeft f.side then decide (sideStream g.side = sideStream f.side)
     else decide (sideVc g.side = sideVc f.side) && decide (sideCls g.side = sideCls f.side))
  if sideLast f.side then
    let fs := x.delivered.filter same ++ [f]
    let s := setRouter s c { x with delivered := x.delivered.filter (fun g => !(same g)) }
    if !(wholeMessage fs) then s
    else if sideWeft f.side then weftDeliver s c fs
    else
      let bs := fs.flatMap (fun g => leBytes 256 g.payload.toNat)
      let h := { Hdr.parse bs with poison := fs.any (fun g => bit g.side 62) }
      acceptMessage s c h ((bs.drop 64).take h.len)
  else setRouter s c { x with delivered := (if sideSeq f.side = 0 then x.delivered.filter (fun g => !(same g)) else x.delivered) ++ [f] }

/-! ### A router output sends (R224, R227, R228) -/

/-- The slot entry applies at an nc of the worked tempo: variant, phase, and its reserved nc (R227). -/
def slotApplies (s : State) (e : W64) (ctx nc : Nat) : Bool :=
  let start := bits e 40 24
  let m := 2 ^ bits e 18 3
  s.tmp.working && bit e (24 + s.tmp.variant.toNat) && decide ((ctxAt s ctx).w % m = bits e 11 7 % m) && decide (start ≤ nc) &&
    decide (nc < start + bits e 28 12 + 1)

/-- The slot entries of an output up to the end of its table: an entry after the first whose START and VMASK are zero. -/
def slotEntries (x : Router) (out : Nat) : List W64 :=
  let n := (x.slot.filter (fun (p : Nat × W64) => decide (p.1 / 4096 = out))).foldl (fun m p => max m (p.1 % 4096 + 1)) 0
  (((List.range n).map (fun i => (i, tget 0 x.slot (4096 * out + i)))).takeWhile (fun p =>
    decide (p.1 = 0) || !(decide (bits p.2 40 24 = 0) && decide (bits p.2 24 4 = 0)))).map (·.2)

/-- TRC_NC at a router: its cluster's hub, or the lock set's for a selvedge router. -/
def routerNc (s : State) (r : Nat) : Nat :=
  (tget {} s.hubs (if r < 72 then clusterOf r else (lockClusters s).headD 0)).trcNc.toNat

/-- The owning context of a stream at a router: its stream entry's, or the context of the seam whose result it is. -/
def streamOwner (x : Router) (stream : Nat) : Option Nat :=
  let e := tget 0 x.stream stream
  if bit e 31 then some (bits e 26 4)
  else ((x.stream.find? (fun p => bit p.2 31 && bit p.2 30 && decide (seamOutStream (tget 0 x.seam (bits p.2 9 6)) = stream))).map (fun p => bits p.2 26 4))

/-- That context; 16 where there is none. -/
def streamCtx (x : Router) (stream : Nat) : Nat := (streamOwner x stream).getD 16

/-- The slot entry by which an nc of an output is reserved: its place, and its stream. -/
def reservedFor (s : State) (r out nc : Nat) : Option (Nat × Nat) :=
  let x := routerAt s r
  if !(weftActive s r) then none
  else ((slotEntries x out).zipIdx.find? (fun p => slotApplies s p.1 (streamCtx x (bits p.1 0 10)) nc)).map (fun p => (p.2, bits p.1 0 10))

/-- Priority of a free flit: response first, then class; then the input after the one served last (R224). -/
def freeRank (f : InFlit) (last : Nat) : Nat :=
  (if sideVc f.flit.side = 1 then 0 else 1) * 64 + sideCls f.flit.side * 8 + (f.inp + 7 - last) % 8

/-- The free flit an output sends next: its place in the list. -/
def freePick (x : Router) (out : Nat) : Option Nat :=
  let last := tget 7 x.lastIn out
  let cand := x.free.zipIdx.filter (fun p => decide (p.1.out = out))
  match cand with
  | [] => none
  | c :: cs => some (cs.foldl (fun b p => if freeRank p.1 last < freeRank b.1 last then p else b) c).2

/-- A flit leaves the mesh at the fabric side of a selvedge router: to its port's egress; a weft flit at a port trained below HL3 is a stray one
(R247). A message's chip stands in its first flit. -/
def toEgress (s : State) (r : Nat) (f : MeshFlit) : State :=
  let p := r - 72
  let x := portAt s p
  if sideWeft f.side then
    if x.gen = 1 ∨ x.gen = 2 then strayFlit s r f
    else updPort s p (fun p => { p with weftOut := p.weftOut ++ [⟨0, f, some (sideCtx f.side)⟩] })
  else
    let key := sideVc f.side * 4 + sideCls f.side
    let chip := if sideSeq f.side = 0 then BitVec.ofNat 12 (gaChip (Hdr.parse (leBytes 256 f.payload.toNat)).daddr) else tget 0 x.txChip key
    updPort s p (fun p => { p with txChip := tset 0 p.txChip key chip, freeOut := p.freeOut ++ [⟨chip, f, some (sideCtx f.side)⟩] })

/-- A flit leaves a router on an output: delivered at the local port or to the service complex, to the port's egress on the fabric side, to a
PCIe port, or onto its link. -/
def flitLeaves (s : State) (r out : Nat) (f : MeshFlit) : State :=
  if out = 0 then (if r < 72 then localArrive s r f else toEgress s r f)
  else match linkEnd r out with
    | some _ => updRouter s r (fun x => { x with link := tupd [] x.link out (fun l => l ++ [f]) })
    | none => if agentOf r out = some 90 then localArrive s r f else { s with wire := s.wire ++ [.mesh r out f] }

/-- The far side has room for a flit of an output (R224, R226, R233): 8 free flits per virtual channel and 16 weft flits at a router input, counting
those on the link; 512 flits at a port's egress. -/
def outRoom (s : State) (r out : Nat) (f : MeshFlit) : Bool :=
  match linkEnd r out with
  | some (n, i) =>
    let y := routerAt s n
    let sent := tget [] (routerAt s r).link out
    if sideWeft f.side then
      decide ((y.weft.filter (fun g => decide (g.inp = i))).length + (sent.filter (fun g => sideWeft g.side)).length < 16)
    else
      decide ((y.free.filter (fun g => decide (g.inp = i) && decide (sideVc g.flit.side = sideVc f.side))).length +
        (sent.filter (fun g => !(sideWeft g.side) && decide (sideVc g.side = sideVc f.side))).length < 8)
  | none => decide (r < 72) || decide (out ≠ 0) || (let p := portAt s (r - 72); decide (p.freeOut.length + p.weftOut.length < 512))

/-- The output works: it exists, and its router's clock runs; a selvedge router sends nothing towards core routers that stand still (R220). -/
def outRuns (s : State) (r out : Nat) : Bool :=
  routerExists s r && portLeads s r out && !(meshStopped s && (decide (r < 72) || decide (out ≠ 0)))

/-- The nc that an output decides next in this ac: in a worked tempo two of each ac (R31, R227). -/
def nextNc (s : State) (r out : Nat) : Nat :=
  let v := tget 0 (routerAt s r).decided out
  if s.tmp.working && decide (v / 4 = s.now) then v % 4 else 0

/-- The free flit of an output goes, in an nc that is reserved (`lent`) or not (R224, R228). -/
def sendFreeFlit (s : State) (r out : Nat) (lent : Bool) : State :=
  let x := routerAt s r
  match freePick x out with
  | none => s
  | some i =>
    match x.free[i]? with
    | none => s
    | some f =>
      if !(outRoom s r out f.flit) then s
      else
        let wait := BitVec.ofNat 32 (min (2 * (s.now - f.at_) / acUnits s.lock.level) (2 ^ 32 - 1))
        let x := { x with
          free := x.free.eraseIdx i, lastIn := tset 7 x.lastIn out f.inp,
          slotLent := if lent then satAdd x.slotLent 1 else x.slotLent,
          freeWaitMax := if x.freeWaitMax < wait then wait else x.freeWaitMax }
        flitLeaves (setRouter s r x) r out f.flit

/-- The oldest flit of a stream that an output may send: it has been in its buffer for 2 nc (R228). -/
def weftReady (s : State) (r out stream k : Nat) : Option (InFlit × Nat) :=
  (routerAt s r).weft.zipIdx.find? (fun p => bit p.1.pending out && decide (sideStream p.1.flit.side = stream) &&
    decide (2 * p.1.at_ + 2 * acUnits s.lock.level ≤ 2 * s.now + k * acUnits s.lock.level))

/-- One nc of an output (R228). -/
def outputSend (s : State) (r out : Nat) : State :=
  let k := nextNc s r out
  if !(outRuns s r out) ∨ 2 ≤ k then s
  else
    let s := if s.tmp.working then updRouter s r (fun x => { x with decided := tset 0 x.decided out (4 * s.now + k + 1) }) else s
    match reservedFor s r out (routerNc s r + k) with
    | none => sendFreeFlit s r out false
    | some (i, st) =>
      let x := routerAt s r
      match weftReady s r out st k with
      | none => sendFreeFlit s r out true
      | some (f, j) =>
        let left := clrBit f.pending out
        let drop := setRouter s r { x with weft := if left = 0 then x.weft.eraseIdx j else x.weft.modify j (fun g => { g with pending := left }) }
        if badEntry s r (1216 + 4096 * out + i) then parityFault drop r (sideCtx f.flit.side) (1216 + 4096 * out + i)
        else if outRoom s r out f.flit then flitLeaves drop r out f.flit
        else sendFreeFlit s r out true

/-! ### SPUT (R237, R260) -/

/-- The stream is a seam's operand stream in some router. -/
def seamStream (s : State) (ctx stream : Nat) : Bool :=
  s.routers.any (fun p => let e := tget 0 p.2.stream stream; bit e 31 && bit e 30 && decide (bits e 26 4 = ctx))

/-- The message unit sends an SPUT's flits on its weft stream from the core's L port. -/
def sendStream (s : State) (m : Msg) (data : List Byte) : State :=
  let ctx := m.ctx.getD 0
  let seam := seamStream s ctx m.stream
  let base := sliceNat data 0 2 % 1024
  let body := if seam then data.drop 64 else (msgHdr s m).bytes ++ data
  let n := (body.length + 255) / 256
  let s := if seam then updFab s (fun f => { f with
    streamTo := tset {} f.streamTo (ctx * 1024 + m.stream) ⟨gaOff m.gaddr + 1, m.arrive, sliceNat data 2 2⟩ }) else s
  forAll (List.range n) s (fun s i =>
    routerReceive s m.src 0 (meshFlit (BitVec.ofNat 2048 (sliceNat body (256 * i) 256))
      (weftSide (decide (i + 1 = n)) ctx m.stream i (if seam then base else 0))))

/-- A seam's oldest result becomes available to its outputs, as a flit of its result stream (R235, R236). -/
def seamResult (s : State) (r seam : Nat) : State :=
  let x := routerAt s r
  match x.seamOut.find? (fun p => decide (p.1 = seam)) with
  | none => s
  | some p =>
    let e := tget 0 x.seam seam
    let ctx := sideCtx p.2.flit.side
    let opStream := ((x.stream.find? (fun p => bit p.2 31 && bit p.2 30 && decide (bits p.2 9 6 = seam))).map (·.1)).getD 0
    let dest := tget {} s.fab.streamTo (ctx * 1024 + opStream)
    let s := updFab s (fun v => { v with streamTo := tset {} v.streamTo (ctx * 1024 + seamOutStream e) dest })
    setRouter s r { x with seamOut := x.seamOut.erase p, weft := x.weft ++ [{ p.2 with at_ := s.now }] }

end Sys2Proof.Machine
end

