-- ==== Sys2Proof/Machine/Launch.lean ====
section
/-! DEFINITION. Starting the module's own messages: source reads, the bandwidth regulator, fences (R192, R248, R255, R259, R260). -/

namespace Sys2Proof.Machine

/-- The payload a PUT, LADD or SPUT reads at its start, for the message engine from SLADDR (R347); false where a line or block is fenced. -/
def readSource (s : State) (m : Msg) : List Byte × Bool × State :=
  if m.src = 72 ∧ m.data = [] then
    match svcPlace m.laddr with
    | some (none, o) => (readBytes s.svc.mem (0x800000 + o) m.len, true, s)
    | some (some c, o) => if o < 0x10000000 then readStore s c o m.len false else readColumn s c (o - 0x10000000) m.len false
    | none => ([], false, s)
  else if 72 ≤ m.src then (m.data, true, s)
  else if m.laddr < 0x10000000 then readStore s m.src m.laddr m.len false
  else readColumn s m.src (m.laddr - 0x10000000) m.len false

/-- The router at which a message of this module enters the mesh: its core's, or for the service complex its edge core's (R215, R217). -/
def msgRouter (s : State) (m : Msg) : Nat := if m.src < 72 then m.src else if enabledCore s 63 then 63 else 68

/-- A message at a port trained below HL3, as requests of that generation (R247, R248, Table 9.4): a status that refuses it, or how many answers
end it. Its writes are consecutive, of at most 4 KiB at HL2 and 1 KiB at HL1. -/
def sendLegacy (s : State) (p : Nat) (h : Hdr) (data : List Byte) : BitVec 4 × Nat × State :=
  let size := if (portAt s p).gen = 2 then 4096 else 1024
  let off := gaOff h.daddr
  let reqs : List Legacy := if h.op = 1 then [⟨1, off, h.len, []⟩]
    else (List.range (max 1 ((data.length + size - 1) / size))).map (fun i => let d := slice data (size * i) (min size (data.length - size * i)); ⟨0, off + size * i, d.length, d⟩)
  if gaCore h.daddr ≠ 0xFF then (2, 0, s)
  else if h.op ∈ [3, 4] then (6, 0, s)
  else (0, reqs.length, updPort s p (fun x => { x with legacyOut := x.legacyOut ++ reqs }))

/-- A message at a port: at HL3 its flits go to the egress; a core may not address service space (R257). -/
def sendOn (s : State) (p : Nat) (h : Hdr) (data : List Byte) (ctx : Option Nat) (cls : Nat) : BitVec 4 × Nat × State :=
  if (portAt s p).gen ≠ 3 then sendLegacy s p h data
  else if gaCore h.daddr = 0xFF ∧ gaCore h.saddr ≠ 0xFF then (2, 0, s)
  else (0, 1, queueOut s p (messageFlits h data ctx (72 + p) 0 cls))

/-- Send towards another module on its route, or end the message with the status that R225, R248, R255 or Table 9.4 gives. Every branch of a
multicast answers once, and the copies on this module answer together (R264, assumption log 64). -/
def sendMsg (s : State) (m : Msg) (data : List Byte) : State :=
  let chip := gaChip m.gaddr
  let s := routeParity s chip
  let h := msgHdr s m
  let r0 := msgRouter s m
  let fail (s : State) (st : BitVec 4) : State := finishMsg s m st []
  let one (a : Nat × BitVec 4 × State) (p : Nat) : Nat × BitVec 4 × State :=
    let (st, n, s) := if routes a.2.2 r0 (72 + p) then sendOn a.2.2 p h data m.ctx (1 + m.cls) else (1, 0, unroutable a.2.2 r0 (m.ctx.getD 0) (72 + p))
    (a.1 + n, if a.2.1 = 0 then st else a.2.1, s)
  if replicates s chip then
    let (ps, lost) := branches s chip
    let local_ := bit (routeEntry s chip) 62
    let (n, st, s) := ps.foldl one (0, if lost then 1 else 0, s)
    let copies := n + (if local_ then 1 else 0)
    if copies = 0 then fail s (if st = 0 then 1 else st)
    else
      let s := setMsg s { m with copies := copies, status := st }
      if local_ then deliver s r0 h data m.ctx else s
  else
    let local_ := decide (0xC00 ≤ chip) && bit (routeEntry s chip) 63 && bit (routeEntry s chip) 62
    match routePort s chip (ownChip s) (gaCore h.saddr) m.msgid.toNat with
    | none => fail s 1
    | some p =>
      let (n, st, s) := one (0, 0, s) p
      if st ≠ 0 then fail s st
      else
        let s := setMsg s { m with copies := n + (if local_ then 1 else 0) }
        if local_ then deliver s r0 h data m.ctx else s

/-! ### The fabric barrier (R271) -/

def barCfg (s : State) (k : Nat) : W32 := (tget {} s.fab.barCfg k).eff
def barLocal (s : State) (k : Nat) : Nat := bits (barCfg s k) 16 6 + 1
def barChildren (s : State) (k : Nat) : List Nat := (List.range 16).filter (fun p => bit (barCfg s k) p)
def barAt (s : State) (k : Nat) : Barrier := tget {} s.fab.bars k
def setBar (s : State) (k : Nat) (b : Barrier) : State := updFab s (fun f => { f with bars := tset {} f.bars k b })

/-- A BARRIER frame's payload: context, and whether it releases (assumption log 9). -/
def barPayload (k : Nat) (release : Bool) : Nat := k + b2n release * 2 ^ 8

/-- The release of a round: forwarded down, one arrival to every core that joined, and the next round takes the early joins. -/
def barRelease (s : State) (k : Nat) : State :=
  let b := barAt s k
  let s := sendControlAll s (barChildren s k) 7 (barPayload k true)
  let s := forAll b.joins s (fun s j => queueArrival s j.1.val j.2 none)
  let n := barLocal s k
  setBar s k { joins := b.early.take n, early := b.early.drop n, children := 0, sent := false }

/-- The module has counted its LOCAL joins and one arrival of every CHILD port: the arrival goes up, or the ROOT releases; `n` bounds
the rounds that early joins complete at once. -/
def barCheck : Nat → State → Nat → State
  | 0, s, _ => s
  | n + 1, s, k =>
    let b := barAt s k
    let cfg := barCfg s k
    if bit cfg 31 && !b.sent && decide (barLocal s k ≤ b.joins.length) && (barChildren s k).all (fun p => bit b.children p) then
      if bit cfg 30 then barCheck n (barRelease s k) k
      else sendControl (setBar s k { b with sent := true }) (bits cfg 26 4) 7 (barPayload k false)
    else s

/-- A BAR joins its context's barrier; joins beyond LOCAL count towards the next round. -/
def barJoin (s : State) (c : CoreId) (k : Nat) (arrive : Byte) : State :=
  let b := barAt s k
  let b := if b.joins.length < barLocal s k then { b with joins := b.joins ++ [(c, arrive)] } else { b with early := b.early ++ [(c, arrive)] }
  barCheck 64 (setBar s k b) k

/-! ### Starting messages (R192, R259) -/

/-- Start a message: its source is read, its credit charged, and it is delivered or sent; a BAR joins its context's barrier. -/
def launch (s : State) (m : Msg) : State :=
  let m := { m with started := true }
  let s := setMsg s m
  let r0 := msgRouter s m
  if m.op = 4 then
    let s := readyOp (dropMsg s m.src m.msgid) m.src (.message m.msgid.toNat) false
    match m.ctx, m.arrive with
    | some k, some a => barJoin s (Fin.ofNat 72 m.src) k a
    | _, _ => s
  else if m.len = 0 ∧ m.src < 72 then finishMsg s m 0 []
  else if m.op = 1 then
    if ownModule s (gaChip m.gaddr) then
      if gaCore m.gaddr = 0xFF ∧ m.src < 72 then finishMsg s m 2 []
      else
        let (st, d, s) := fetch s r0 (msgHdr s m) m.ctx
        answerMsg s m.src m.msgid st d
    else sendMsg s m []
  else
    let (d, ok, s) := readSource s m
    let s := if m.src < 72 then readyOp s m.src (.message m.msgid.toNat) false else s
    if !ok then finishMsg s m 5 []
    else if m.op = 2 ∧ sliceNat d 2 2 * 16 + 64 ≠ d.length then finishMsg s m 4 []
    else if m.op = 3 then
      let seam := seamStream s (m.ctx.getD 0) m.stream
      let s := sendStream s m d
      if seam then answerMsg s m.src m.msgid 0 [] else s
    else if ownModule s (gaChip m.gaddr) then
      if gaCore m.gaddr = 0xFF ∧ m.src < 72 then finishMsg s m 2 [] else settleReplies (deliver s r0 (msgHdr s m) d m.ctx)
    else sendMsg s m d

/-- Payload that the bandwidth regulator charges: of PUTs, multicast ones among them, and of responses to GETs (R192). -/
def charge (m : Msg) : Nat := if m.src < 72 ∧ m.op ≤ 1 then m.len else 0

/-- The regulator of a source core lets a message start; `edge` is a tempo edge with the full credit. -/
def creditOk (s : State) (m : Msg) (edge : Bool) : Bool :=
  let w := (tget {} s.tiers.credit m.src).eff
  let full := bits w 0 20 * 4096
  if m.src ≥ 72 ∨ !(bit w 31) ∨ charge m = 0 then true
  else if full = 0 then false
  else decide (charge m ≤ tget 0 s.tiers.creditLeft m.src) || (edge && decide (full < charge m) && decide (tget 0 s.tiers.creditLeft m.src = full))

def spendCredit (s : State) (m : Msg) : State :=
  if m.src < 72 ∧ bit (tget {} s.tiers.credit m.src).eff 31 then
    updTiers s (fun t => { t with creditLeft := tupd 0 t.creditLeft m.src (fun n => n - charge m) })
  else s

/-- A hold begins for each charged message of a source that waits and is not held yet (R192). -/
def countHolds (s : State) (src : Nat) : State :=
  let new (m : Msg) : Bool := decide (m.src = src) && !m.started && !m.held && decide (charge m ≠ 0)
  let n := (s.fab.msgs.filter new).length
  let s := updMsgs s (fun l => l.map (fun m => if new m then { m with held := true } else m))
  updTiers s (fun t => { t with heldN := tupd 0 t.heldN src (fun w => satAdd w n) })

/-- Start the waiting messages of a source in issue order; `n` bounds their number. -/
def startMsgs : Nat → State → Nat → Bool → State
  | 0, s, _, _ => s
  | n + 1, s, src, edge =>
    match s.fab.msgs.find? (fun m => decide (m.src = src) && !m.started) with
    | none => s
    | some m =>
      let earlier := s.fab.msgs.any (fun x => decide (x.src = src) && x.started)
      if m.fence && earlier then s
      else if !(creditOk s m edge) then countHolds s src
      else startMsgs n (launch (spendCredit s m) m) src edge

/-- A new message joins its source's order; one of no payload completes at once (R12, R192). -/
def submit (s : State) (m : Msg) : State :=
  let s := updMsgs s (fun l => l ++ [m])
  if m.len = 0 ∧ m.src < 72 ∧ m.op ≠ 4 then launch s m else startMsgs 64 s m.src false

/-- The messages of every source that can start now do. -/
def startAll (s : State) (edge : Bool) : State := forAll (List.range 76) s (fun s src => startMsgs 64 s src edge)

end Sys2Proof.Machine
end

