-- ==== Sys2Proof/Machine/Lanes.lean ====
section
/-! DEFINITION. The serving engine's tables: groups, the KV map and its pools, patch slots, retirement, completions of host commands, and
the messages of a shuttle (10). -/

namespace Sys2Proof.Machine

/-! ### Host commands in flight (R326) -/

def findCmd (s : State) (id : Nat) : Option Cmd := s.cmds.find? (fun c => decide (c.id = id))

/-- Complete an accepted command with a status, a result and a count. -/
def finishCmd (s : State) (id status result : Nat) (count : W64) : State :=
  match findCmd s id with
  | none => s
  | some c => complete { s with cmds := s.cmds.filter (fun x => decide (x.id ≠ id)) } c.fn c.q c.cid c.noirq status result count

/-! ### Groups and lanes (R279) -/

/-- The context that owns a stream group. -/
def groupCtx (s : State) (g : Nat) : Option Nat := (List.range 16).find? (fun k => bit (tget {} s.srv.groups k).eff g)

def servDecl (s : State) (k : Nat) : Option ServDecl := match (ctxAt s k).bolt with | some b => b.serving | none => none

/-- The group record of a group that its context's bolt serves. -/
def groupRec (s : State) (k g : Nat) : Option GroupRec :=
  match servDecl s k with
  | some d => match d.groups[g]? with | some r => if r.used then some r else none | none => none
  | none => none

def ctxGroups (s : State) (k : Nat) : List Nat := (List.range 4).filter (fun g => bit (tget {} s.srv.groups k).eff g)

/-- The lanes of a context's groups. -/
def ctxLanes (s : State) (k : Nat) : List Nat := (ctxGroups s k).flatMap (fun g => (List.range 128).map (fun i => 128 * g + i))

def laneFree (s : State) (l : Nat) : Bool := decide ((laneAt s l).st = .free)

/-- The context's lane that holds a sequence. -/
def laneOfSeq (s : State) (k : Nat) (seqid : W64) : Option Nat :=
  (ctxLanes s k).find? (fun l => !(laneFree s l) && decide ((laneAt s l).seqid = seqid))

/-! ### The KV map (R286 to R289) -/

def kvWord (s : State) (i : Nat) : W64 := tget 0 s.srv.kvmap i
def setKv (s : State) (i : Nat) (v : W64) : State := updSrv s (fun x => { x with kvmap := tset 0 x.kvmap i v })
def kvValid (w : W64) : Bool := bit w 63
def kvTaken (w : W64) : Bool := bit w 62
def kvMake (core blk : Nat) : W64 := BitVec.ofNat 64 (3 * 2 ^ 62 + core % 64 * 2 ^ 19 + blk % 2 ^ 19)

/-- The lowest run of n free entries in a context's map range; `n` steps bound the search. -/
def freeRun (s : State) (first count n : Nat) : Option Nat :=
  (List.range (count + 1 - n)).map (fun i => first + i) |>.find? (fun i => (List.range n).all (fun j => !(kvValid (kvWord s (i + j)))))

/-- Column blocks of a KV block. -/
def kvBlocks (d : ServDecl) : Nat := d.blockBytes / 512
/-- Positions per block (R286). -/
def kvTpb (d : ServDecl) : Nat := d.blockBytes / d.bpt
def poolOf (d : ServDecl) (sh : Nat) : Pool := d.pools.getD sh ⟨0, 0, 0⟩

def poolKey (core blk : Nat) : Nat := core * Config.columnBlocks + blk

/-- The free blocks of a shard's pool, lowest first. -/
def poolFree (s : State) (d : ServDecl) (sh : Nat) : List Nat :=
  let p := poolOf d sh
  ((List.range p.blocks).map (fun i => p.first + i * kvBlocks d)).filter (fun b => !(tget false s.srv.taken (poolKey p.core b)))

def reservedIn (s : State) (k sh : Nat) : Nat := tget 0 s.srv.reserved (k * 64 + sh)
def addReserved (s : State) (k sh : Nat) (f : Nat → Nat) : State := updSrv s (fun x => { x with reserved := tupd 0 x.reserved (k * 64 + sh) f })

/-- Reserve map entries and blocks for a sequence of BPS blocks per shard (R288); the extent's first entry. -/
def kvReserve (s : State) (k : Nat) (d : ServDecl) (bps : Nat) : Option (Nat × State) :=
  let x := srvCtxAt s k
  let n := d.shards * bps
  match freeRun s (bits x.kvFirst.eff 0 15) (bits x.kvCount.eff 0 16) n with
  | none => none
  | some e =>
    if (List.range d.shards).all (fun sh => decide (reservedIn s k sh + bps ≤ (poolFree s d sh).length)) then
      let s := forAll (List.range n) s (fun s i => setKv s (e + i) (BitVec.ofNat 64 (2 ^ 63)))
      some (e, forAll (List.range d.shards) s (fun s sh => addReserved s k sh (· + bps)))
    else none

/-- The map entry of a lane's block b in shard sh. -/
def laneEntry (x : Lane) (sh b : Nat) : Nat := x.extent + sh * x.bps + b

/-- Allocate the block of a map entry unless it has one: the lowest free block of the shard's pool. -/
def kvAllocate (s : State) (k : Nat) (d : ServDecl) (x : Lane) (sh b : Nat) : State :=
  let e := laneEntry x sh b
  if kvTaken (kvWord s e) then s
  else match poolFree s d sh with
    | [] => s
    | blk :: _ =>
      let core := (poolOf d sh).core
      let s := setKv s e (kvMake core blk)
      addReserved (updSrv s (fun y => { y with taken := tset false y.taken (poolKey core blk) true })) k sh (· - 1)

/-- Give back a lane's entries, blocks and unused reservation (R289). -/
def kvFree (s : State) (k : Nat) (d : ServDecl) (x : Lane) : State :=
  forAll (List.range (d.shards * x.bps)) s (fun s i =>
    let w := kvWord s (x.extent + i)
    let s := setKv s (x.extent + i) 0
    if kvTaken w then updSrv s (fun y => { y with taken := tset false y.taken (poolKey (bits w 19 6) (bits w 0 19)) false })
    else addReserved s k (i / x.bps) (· - 1))

/-- The byte address within its core's column of a position's entry in a shard, and the core. -/
def kvPlace (s : State) (d : ServDecl) (x : Lane) (sh pos : Nat) : Nat × Nat :=
  let w := kvWord s (laneEntry x sh (pos / kvTpb d))
  (bits w 19 6, bits w 0 19 * 512 + pos % kvTpb d * d.bpt)

/-! ### Patch slots (R310) -/

def patchAt (s : State) (i : Nat) : PatchSlot := tget {} s.srv.patches i
def setPatch (s : State) (i : Nat) (x : PatchSlot) : State := updSrv s (fun y => { y with patches := tset {} y.patches i x })

/-- The slots of a context's pool, in pool order (R309; assumption log 67). -/
def poolSlots (s : State) (k : Nat) : List Nat := tget [] s.srv.slotMap k

/-- Slots of a context's pool, as its SRV_PATCH_POOL in effect states. -/
def poolCount (s : State) (k : Nat) : Nat := bits (srvCtxAt s k).pool.eff 16 7

/-- A pool that has become smaller gives its last slots back, empty. -/
def shrinkPool (s : State) (k : Nat) : State :=
  let l := poolSlots s k
  let s := forAll (l.drop (poolCount s k)) s (fun s i => setPatch s i {})
  updSrv s (fun x => { x with slotMap := tset [] x.slotMap k (l.take (poolCount s k)) })

/-- A pool that has become larger takes the lowest slots that no pool holds. -/
def growPool (s : State) (k : Nat) : State :=
  let l := poolSlots s k
  let free := (List.range 64).filter (fun i => !((List.range 16).any (fun j => (poolSlots s j).contains i)))
  updSrv s (fun x => { x with slotMap := tset [] x.slotMap k (l ++ free.take (poolCount s k - l.length)) })

/-! ### Retirement -/

/-- A lane gives everything back and becomes FREE (R289, R312). -/
def freeLane (s : State) (l : Nat) : State :=
  let x := laneAt s l
  let s := match servDecl s x.ctx with | some d => kvFree s x.ctx d x | none => s
  let s := match x.patch with
    | some p => setPatch s p { patchAt s p with count := (patchAt s p).count - 1 }
    | none => s
  setLane s l {}

/-! ### Shuttle messages (R305; payload layout: assumption log 9) -/

/-- A message of the serving engine to a peer's mailbox: type, shuttle, an argument of 8 B, and data from byte 64. -/
def mailbox (typ : Nat) (ident : W64) (a b : Nat) (data : List Byte) : List Byte :=
  leBytes 8 typ ++ leBytes 8 ident.toNat ++ leBytes 8 a ++ leBytes 8 b ++ List.replicate 32 0 ++ data

/-- The next MSGID of a serving message of a lane; bit 9 marks a put of key/value data. -/
def servMsgid (s : State) (l : Nat) (put : Bool) : W32 := BitVec.ofNat 32 (s.fab.nextId.toNat % 2 ^ 22 * 1024 + b2n put * 512 + l % 512)

def sendServ (s : State) (l : Nat) (put : Bool) (gaddr : W64) (data : List Byte) : State :=
  let m : Msg := { src := 73, msgid := servMsgid s l put, op := 0, gaddr := gaddr, laddr := 0, len := data.length, arrive := none, stream := 0,
                   coreset := 0, cls := 0, fence := false, data := data, sop := 0, sobj := 0, started := false,
                   ctx := some (laneAt s l).ctx, copies := 1, status := 0, dead := false, held := false }
  submit (updFab s (fun f => { f with nextId := f.nextId + 1 })) m

/-- A shuttle message to the peer of a lane. -/
def sendShuttle (s : State) (l : Nat) (typ a b : Nat) (data : List Byte) : State :=
  let h := (laneAt s l).shuttle
  sendServ s l false (gaMake h.peer.toNat 0xFF 0x1000000) (mailbox typ h.ident a b data)

/-- An END record with no token of its own: cause 3 or 5 (R303). -/
def endRecord (cause pos : Nat) : TokenRec := BitVec.ofNat 64 (2 ^ 63 + cause * 2 ^ 60 + pos % 2 ^ 24 * 2 ^ 32 + 0xFFFFFFFF)

/-- The position after the last emitted token: that of the pending token plus one (R280). -/
def afterLast (x : Lane) : Nat := x.com.kvlen + x.com.pend.length

/-- The answers to a lane's outstanding messages are dropped. -/
def dropAnswers (s : State) (l : Nat) : State :=
  updMsgs s (fun ms => ms.map (fun m => if m.src = 73 ∧ m.msgid.toNat % 512 = l then { m with dead := true } else m))

/-- A shuttle fails with a status (R306): the destination's lane ends without a record, to be freed at the next edge (R281), and its
ADMIT completes; the source's END record has cause 5. -/
def shuttleFail (s : State) (l status : Nat) : State :=
  let x := laneAt s l
  let s := dropAnswers s l
  match x.st with
  | .landing =>
    let s := setLane s l { x with st := .ending, recs := [], ended := true, shuttle := {}, cmd := none }
    let s := updSrv s (fun y => { y with segs := y.segs.filter (fun e => decide (e.1 ≠ x.shuttle.ident)) })
    match x.cmd with | some id => finishCmd s id status l (countNow s) | none => s
  | .shipping => setLane s l { x with st := .ending, recs := x.recs ++ [endRecord 5 (afterLast x)], ended := true, shuttle := {} }
  | _ => s

/-- A shuttle fails on this side, and the peer learns the status. -/
def shuttleAbort (s : State) (l status : Nat) : State := shuttleFail (sendShuttle s l 4 status 0 []) l status

/-- The state record of a shipping lane (Table 10.15). -/
def stateRecord (x : Lane) (kvfmt : W64) : List Byte :=
  let hist := List.replicate (16 - x.com.hist.length) (0xFFFFFFFF : W32) ++ x.com.hist
  let body := leBytes 8 x.seqid.toNat ++ leBytes 8 x.seed.toNat ++ leBytes 4 (x.com.kvlen % 2 ^ 24) ++ leBytes 4 (x.com.pend.headD 0).toNat ++
    leBytes 8 kvfmt.toNat ++ hist.flatMap (fun t => leBytes 4 t.toNat) ++ List.replicate 28 0
  body ++ leBytes 4 (crc32c body).toNat

/-- Every put has returned: the state record and the completion flag go out (step 5). -/
def sendRecord (s : State) (l : Nat) : State :=
  let x := laneAt s l
  let kvfmt := match servDecl s x.ctx with | some d => d.kvfmt | none => 0
  let s := sendShuttle s l 2 x.shuttle.puts 0 (stateRecord x kvfmt)
  updLane s l (fun x => { x with shuttle := { x.shuttle with step := 6 } })

/-- A message of the serving engine has ended with a status (R262, R305, R306). -/
def servEnded (s : State) (msgid : W32) (st : BitVec 4) : State :=
  let l := msgid.toNat % 512
  let x := laneAt s l
  if x.st ≠ .shipping ∧ x.st ≠ .landing then s
  else if st ≠ 0 then shuttleAbort s l 0x0C
  else if msgid.toNat / 512 % 2 = 1 ∧ x.st = .shipping then
    let left := x.shuttle.putsLeft - 1
    let s := setLane s l { x with shuttle := { x.shuttle with putsLeft := left, puts := x.shuttle.puts + 1 } }
    if left = 0 ∧ x.shuttle.step = 4 ∧ x.shuttle.todo.isEmpty then sendRecord s l else s
  else s

end Sys2Proof.Machine
end

