-- ==== Sys2Proof/Machine/Repair.lean ====
section
/-! DEFINITION. The repair of fenced blocks by firmware: its sources, the acceptance of repair data, standby spares, and the message
engine's completions (R184, R331, R347, R357, R358). -/

namespace Sys2Proof.Machine

/-! ### The message engine (R347) -/

/-- A message of the service complex: job tag 0xFFFF (R261). -/
def svcMsg (s : State) (src op : Nat) (gaddr : W64) (laddr len cls : Nat) : Msg :=
  { src := src, msgid := s.fab.nextId, op := op, gaddr := gaddr, laddr := laddr, len := len, arrive := none, stream := 0, coreset := 0,
    cls := cls, fence := false, data := [], sop := 0, sobj := 0, started := false, ctx := none, copies := 1, status := 0, dead := false, held := false }

/-- Give it to the engine under the next MSGID. -/
def sendSvc (s : State) (m : Msg) : State := submit (updFab s (fun f => { f with nextId := f.nextId + 1 })) m

/-- A message of the engine has ended: its slot's completion word, or the value that a load of the board aperture returns: zeros
where it failed (R270). -/
def slotEnded (s : State) (msgid : W32) (st : BitVec 4) (data : List Byte) : State :=
  match s.svc.slots.find? (fun p => decide (p.1 = msgid)) with
  | none => s
  | some p =>
    let s := updSvc s (fun v => { v with slots := v.slots.filter (fun q => decide (q.1 ≠ msgid)) })
    if p.2 < 64 then
      updSvc s (fun v => { v with msgStatus := tset 0 v.msgStatus p.2 (BitVec.ofNat 32 st.toNat), msgOpen := tset false v.msgOpen p.2 false })
    else updSvc s (fun v => { v with loaded := tset 0 v.loaded (p.2 - 64) (if st = 0 then BitVec.ofNat 512 (leNat data) else 0) })

/-! ### Repair (R184, R331) -/

/-- The directory entry of a column block, in the context whose core it is (R183). -/
def replicaOf (s : State) (c b : Nat) : Option Replica :=
  match ctxOfCore s c with
  | none => none
  | some k => match (ctxAt s k).bolt with
    | none => none
    | some bolt => bolt.replicas.find? (fun r => decide (r.core = logicalOf s c) && decide (r.first ≤ b) && decide (b < r.first + r.blocks))

def blockKey (c b : Nat) : Nat := c * Config.columnBlocks + b

def setFenceEnt (s : State) (c b : Nat) (f : FenceEnt → FenceEnt) : State :=
  match fenceEntry s.tiers c b with
  | some i => updTiers s (fun t => { t with fence := tupd {} t.fence i f }.keep)
  | none => s

/-- Ask the steward for the host copy. -/
def hostCopyAsk (s : State) (c b : Nat) : State :=
  let tag := s.svc.nextTag
  let s := updSvc s (fun v => { v with nextTag := v.nextTag + 1, hostCopies := v.hostCopies ++ [⟨tag, blockKey c b⟩] })
  let s := setFenceEnt s c b (fun e => { e with state := 1, source := 2 })
  postSteward (setTirStatus s 2) 1 ((ctxOfCore s c).getD 0) tag.toNat (logicalOf s c * 2 ^ 19 + b) 0

/-- Try the source after `from_`: 0 none yet, 1 the peer replica; after the last one the block stays fenced. -/
def repairNext (s : State) (c b from_ : Nat) : State :=
  match replicaOf s c b with
  | none => setFenceEnt s c b (fun e => { e with state := 0 })
  | some r =>
    if from_ = 0 ∧ r.peer ≠ 0 then
      let m := svcMsg s 74 1 (r.peer + BitVec.ofNat 64 (512 * (b - r.first))) 0 512 0
      let s := setFenceEnt s c b (fun e => { e with state := 1, source := 1 })
      sendSvc (updSvc s (fun v => { v with repairs := v.repairs ++ [(m.msgid, blockKey c b)] })) m
    else if from_ < 2 ∧ r.host then hostCopyAsk s c b
    else setFenceEnt s c b (fun e => { e with state := 0 })

/-- A source's answer for a block: accepted when its CRC-32C is the one recorded at fencing; otherwise REPAIR_FAIL and the next source.
A block that is no longer fenced needs none. -/
def repairAnswer (s : State) (key source : Nat) (data : Option (List Byte)) : State :=
  let c := key / Config.columnBlocks
  let b := key % Config.columnBlocks
  match fenceEntry s.tiers c b with
  | none => s
  | some i =>
    let e := tget {} s.tiers.fence i
    if e.state ≠ 1 ∨ e.source ≠ source then s
    else
      let good := match data with | some d => decide (crc32c d = e.crc) && decide (d.length = 512) | none => false
      if good then
        let s := setFenceEnt s c b (fun e => { e with state := 2 })
        queueBq s c (.repair b (BitVec.ofNat 4096 (leNat (data.getD []))) (decide (source = 2)))
      else repairNext (setTirStatus s 4) c b source

/-- The peer's answer. -/
def repairEnded (s : State) (msgid : W32) (st : BitVec 4) (data : List Byte) : State :=
  match s.svc.repairs.find? (fun p => decide (p.1 = msgid)) with
  | none => s
  | some p =>
    repairAnswer (updSvc s (fun v => { v with repairs := v.repairs.filter (fun q => decide (q.1 ≠ msgid)) })) p.2 1 (if st = 0 then some data else none)

/-! ### Standby spares (R181, R187, R358) -/

/-- Arm a standby spare of a core and tier where none is armed and the tier holds more than its reserve. -/
def rearm (s : State) (c t : Nat) : State :=
  if (standbyOf s.tiers c t).isSome ∨ ¬ reserveSpares s.tiers < spareFree s.tiers t then s
  else match freeSpare s.tiers t with
    | some i => updTiers s (fun x => { setSpare x t i 3 with standby := tset 0 x.standby (c * 4 + t) (i + 1) })
    | none => s

/-- Every core and tier has its standby, as spares allow. -/
def rearmAll (s : State) : State := forAll (enabledCores s) s (fun s c => forAll (List.range 4) s (fun s t => rearm s c t))

end Sys2Proof.Machine
end

