-- ==== Sys2Proof/Machine/Fill.lean ====
section
/-! DEFINITION. How a bolt load ends: LOADED, or refused with its ranges zeroed; and the fill of a castling bolt from peers (R350, R351,
R363). -/

namespace Sys2Proof.Machine

/-! ### The end of a bolt load -/

/-- The range of a load becomes zeros with valid CRC; control words return to their Reset column, window words to zero (R351, R333;
assumption log 24). -/
def zeroRange (s : State) (r : Nat × Nat × Nat × Nat) : State :=
  let (c, region, first, n) := r
  if region = 0 then (writeColumn s c first (List.replicate n 0)).2
  else if region = 1 then (flowStoreWrite s c first (List.replicate n 0)).2
  else if region = 3 then
    updCore s c (fun x => [0, 1, 2, 3].foldl (fun (x : Core) (e : Nat) => updEngine x e (fun g => { g with activeWin := 0, shadowWin := 0 })) x)
  else if first < 0x1000 then updCore s c (fun x => setCwEff (setCw x first (cwDefault first)) first (cwDefault first))
  else (writeSync s c first 0).1

/-- The staged router and fabric entries of a context are discarded (R351), with slot entries that name no context's stream. -/
def discardStaged (s : State) (k : Nat) : State :=
  let mine (e : W32) : Bool := bit e 31 && decide (bits e 26 4 = k)
  let s := forAll (List.range 88) s (fun s r => updRouter s r (fun x =>
    let seams := (x.streamStaged.filter (fun (p : Nat × W32) => mine p.2 && bit p.2 30)).map (fun p => bits p.2 9 6)
    let staged : Router := { x with stream := x.streamStaged, seam := x.seamStaged }
    { x with
      streamStaged := x.streamStaged.filter (fun (p : Nat × W32) => !(mine p.2))
      seamStaged := x.seamStaged.filter (fun (p : Nat × W64) => !(seams.contains p.1))
      slotStaged := x.slotStaged.filter (fun (p : Nat × W64) => !(decide (p.2 ≠ 0) && decide ((streamOwner staged (bits p.2 0 10)).getD k = k))) }))
  updFab s (fun f => { f with slotStaged := f.slotStaged.filter (fun (p : Nat × W32) => !(bit p.2 31 && decide (bits p.2 27 4 = k))) })

/-- A RUN that waits for its count ends with a status. -/
def abortRun (s : State) (k status : Nat) : State :=
  let c := ctxAt s k
  let s := setCtx s k { c with runAt := none, runCmd := none }
  match c.runCmd with | some id => finishCmd s id status 0 (countNow s) | none => s

/-- The load is refused: its ranges are zeroed, staged entries discarded, the context is BOUND, and BOLT_LOAD completes (R351). -/
def boltFail (s : State) (k id status cause : Nat) (ranges : List (Nat × Nat × Nat × Nat)) : State :=
  let s := discardStaged (forAll ranges s zeroRange) k
  let s := updCtx s k (fun c => { c with st := if c.st = .unbound then .unbound else .bound, bolt := none, fill := none })
  finishCmd (abortRun s k 0x11) id status cause (countNow s)

/-- A core at a bolt load: its gather buffer is flushed, and its scoreboard and queues are empty (Table 5.9). -/
def emptyAtLoad (s : State) (c : Nat) : State :=
  updCore (forAll (List.range 16) s (fun s i => flushEntry s c i)) c (fun x => { x with ops := [], qin := [], qout := [] })

/-- The bolt is accepted: the context is LOADED with it (R350), at worked-tempo index 0 (R227). -/
def boltDone (s : State) (k id : Nat) (b : Bolt) : State :=
  let s := forAll (ctxCores s k) s emptyAtLoad
  finishCmd (updCtx s k (fun c => { c with st := .loaded, bolt := some b, fill := none, w := 0 })) id 0 0 (countNow s)

/-! ### The fill (R363) -/

/-- Messages of the service message engine in flight: at most 64 (R347). -/
def svcInFlight (s : State) : Nat := (s.fab.msgs.filter (fun m => decide (72 ≤ m.src) && decide (m.src ≠ 73))).length

def fillSent (s : State) (g : FillGet) : Bool :=
  s.fab.msgs.any (fun m => decide (m.src = 75) && decide (m.msgid = g.msgid)) ||
  s.fab.ended.any (fun e => decide (e.1 = 75) && decide (e.2.1 = g.msgid))

def setFill (s : State) (k : Nat) (f : Fill) : State := updCtx s k (fun c => { c with fill := some f })

/-- GETs that have not been sent go out while fewer than 64 messages are in flight; `n` bounds them. -/
def fillSend : Nat → State → Nat → State
  | 0, s, _ => s
  | n + 1, s, k =>
    match (ctxAt s k).fill with
    | none => s
    | some f =>
      if 64 ≤ svcInFlight s then s
      else match f.gets.find? (fun g => !(fillSent s g)) with
        | none => s
        | some g =>
          let m := svcMsg s 75 1 g.gaddr 0 (512 * g.blocks) 0
          let s := setFill s k { f with gets := f.gets.map (fun h => if h.msgid = g.msgid then { h with msgid := m.msgid } else h) }
          fillSend n (sendSvc s m) k

/-- Blocks of one GET: LEN is 24 bits wide. -/
def fillPiece : Nat := 32767

/-- The GETs of a range with a peer. -/
def fillGets (r : Replica) : List FillGet :=
  if r.peer = 0 then []
  else (List.range ((r.blocks + fillPiece - 1) / fillPiece)).map (fun i =>
    ⟨0, r.core, r.first + fillPiece * i, min fillPiece (r.blocks - fillPiece * i), r.peer + BitVec.ofNat 64 (512 * fillPiece * i), false⟩)

/-- Give GETs distinct numbers that no message has. -/
def numberGets (s : State) (gs : List FillGet) : State × List FillGet :=
  let n := s.fab.nextId
  (updFab s (fun f => { f with nextId := n + BitVec.ofNat 32 gs.length }), gs.zipIdx.map (fun p => { p.1 with msgid := n + BitVec.ofNat 32 p.2 }))

/-- Nothing is outstanding: the load ends. -/
def fillCheck (s : State) (k : Nat) : State :=
  match (ctxAt s k).fill with
  | none => s
  | some f =>
    if f.bad then boltFail s k f.cmd 0x1A 0x0E f.ranges
    else if f.checks.isEmpty && f.gets.isEmpty then boltDone s k f.cmd { f.bolt with castled := true }
    else s

/-- Ask a peer for its context records (Table 12.4). -/
def recordGet (s : State) (chip : Nat) : W32 × State :=
  let m := svcMsg s 75 1 (gaMake chip 0xFF 0x1001000) 0 1024 0
  (m.msgid, sendSvc s m)

/-- The peers' chip IDs of a directory. -/
def fillPeers (b : Bolt) : List Nat := ((b.replicas.filter (fun r => decide (r.peer ≠ 0))).map (fun r => gaChip r.peer)).dedup

/-- A fill begins: the context record of every peer is read first. -/
def fillStart (s : State) (k id : Nat) (b : Bolt) (ranges : List (Nat × Nat × Nat × Nat)) : State :=
  let chips := fillPeers b
  let ids := chips.zipIdx.map (fun p => (s.fab.nextId + BitVec.ofNat 32 p.2, p.1))
  let s := setFill s k ⟨id, b, ids, false, [], ranges⟩
  let s := forAll chips s (fun s chip => (recordGet s chip).2)
  if chips.isEmpty then fillCheck s k else s

/-- The record whose job tag is the context's has the bolt's COLUMN_DIGEST. -/
def recordOk (s : State) (k : Nat) (b : Bolt) (data : List Byte) : Bool :=
  match (List.range 16).find? (fun i => decide (sliceNat data (64 * i + 2) 1 ≠ 0) && decide (some (sliceNat data (64 * i) 2) = jobTag s k)) with
  | some i => decide (sliceNat data (64 * i + 32) 32 = b.digest.toNat)
  | none => false

/-- A peer's records have come: after the last good one the GETs go out. -/
def fillRecord (s : State) (k : Nat) (f : Fill) (msgid : W32) (chip : Nat) (st : BitVec 4) (data : List Byte) : State :=
  let rest := f.checks.filter (fun c => decide (c.1 ≠ msgid))
  if st ≠ 0 ∧ chip < 4096 then
    let id := s.fab.nextId
    (recordGet (setFill s k { f with checks := rest ++ [(id, chip + 4096)] }) (chip % 4096)).2
  else if st ≠ 0 ∨ !(recordOk s k f.bolt data) then fillCheck (setFill s k { f with checks := rest, bad := true }) k
  else if rest.isEmpty then
    let (s, gets) := numberGets s (f.bolt.replicas.flatMap fillGets)
    fillCheck (fillSend 64 (setFill s k { f with checks := [], gets := gets }) k) k
  else setFill s k { f with checks := rest }

/-- A GET of a range has ended: its blocks are written, or it is tried once more. -/
def fillData (s : State) (k : Nat) (f : Fill) (g : FillGet) (st : BitVec 4) (data : List Byte) : State :=
  let rest := f.gets.filter (fun h => decide (h.msgid ≠ g.msgid))
  if st ≠ 0 then
    if g.again then fillCheck (setFill s k { f with gets := rest, bad := true }) k
    else
      let (s, gs) := numberGets s [{ g with again := true }]
      fillSend 64 (setFill s k { f with gets := rest ++ gs }) k
  else
    let s := match physicalOf s g.core with | some c => (writeColumn s c (512 * g.blk) (data.take (512 * g.blocks))).2 | none => s
    fillCheck (fillSend 64 (setFill s k { f with gets := rest }) k) k

/-- A message of a fill has ended. -/
def fillEnded (s : State) (msgid : W32) (st : BitVec 4) (data : List Byte) : State :=
  match (List.range 16).find? (fun k => match (ctxAt s k).fill with
      | some f => f.checks.any (fun c => decide (c.1 = msgid)) || f.gets.any (fun g => decide (g.msgid = msgid))
      | none => false) with
  | none => s
  | some k =>
    match (ctxAt s k).fill with
    | none => s
    | some f =>
      match f.checks.find? (fun c => decide (c.1 = msgid)) with
      | some c => fillRecord s k f msgid c.2 st data
      | none => match f.gets.find? (fun g => decide (g.msgid = msgid)) with
        | some g => fillData s k f g st data
        | none => s

/-! ### Ended messages -/

/-- One ended message of the service complex or the serving engine. -/
def endedOne (s : State) (e : Nat × W32 × BitVec 4 × List Byte) : State :=
  if e.1 = 72 then slotEnded s e.2.1 e.2.2.1 e.2.2.2
  else if e.1 = 73 then servEnded s e.2.1 e.2.2.1
  else if e.1 = 74 then repairEnded s e.2.1 e.2.2.1 e.2.2.2
  else fillEnded s e.2.1 e.2.2.1 e.2.2.2

/-- Act on the ended messages in order; acting on one may end others at once, and `n` bounds their number. -/
def settleEnded : Nat → State → State
  | 0, s => s
  | n + 1, s =>
    match s.fab.ended with
    | [] => s
    | e :: rest => settleEnded n (endedOne (updFab s (fun f => { f with ended := rest })) e)

end Sys2Proof.Machine
end

