-- ==== Sys2Proof/Machine/Settle.lean ====
section
/-! DEFINITION. What follows at once from a command: owed statuses are answered, messages that can start do, and ended messages of the
service complex and the serving engine are acted on (R259, R262). -/

namespace Sys2Proof.Machine

/-- Answer, start what can start, and act on what has ended. -/
def settle (s : State) : State := settleEnded 4096 (startAll (settleReplies s) false)

/-- A command's answer: the machine after its effect, while the module works (R420). -/
def done (s : State) (f : State → State) : Host.Outcome State Fault Refusal := .next (whenLive s (fun s => settle (f s)))

/-- The answer of a command that touches no store and no message. -/
def plain (s : State) (f : State → State) : Host.Outcome State Fault Refusal := .next (whenLive s f)

end Sys2Proof.Machine
end

