-- ==== Sys2Proof/Machine/Streams.lean ====
section
/-! DEFINITION. Control class, fetch and signal points of the core streams (R110, R115, R118, R119, R136). -/

namespace Sys2Proof.Machine

/-- A plan of the control class: both streams, no unit. -/
def control (chk : Check) (act : State → State) (next : Nat) : Plan :=
  { streamOk := true, check := chk, blocked := none, act := act, next := next }

/-- NOP: its wait and signal only (R118). On the maintenance port it completes with mstat 0 (Table 4.22). -/
def nopPlan (c : Nat) (st : Stream) (w : W128) (_s : State) (t : Nat) : Plan :=
  control (chkRsv w 0 96) (fun s => signalEnd w st 0 s c) (t + 1)

def execNop (c : CoreId) (st : Stream) (w : W128) (s : State) : Host.Outcome State Fault Refusal :=
  done s (fun s => onCore 0x00 s c st w (nopPlan c st w) (fun s => setMstat s c (if bits w 0 96 = 0 then 0 else 4)))

/-- An instruction that the maintenance port does not allow (R137): `maintPort` has refused it before this is reached. -/
def noMaint (s : State) : State := s

/-- TIME: the next instruction's schedule time; a TARGET not later than its own time is a deviation (R110, R118). -/
def timePlan (c : Nat) (st : Stream) (w : W128) (_s : State) (t : Nat) : Plan :=
  let target := bits w 0 24
  control (chkRsv w 24 72) (fun s => signalEnd w st 0 (if target ≤ t then deviate s c 8 else s) c) (max target (t + 1))

def execTime (c : CoreId) (st : Stream) (w : W128) (s : State) : Host.Outcome State Fault Refusal :=
  done s (fun s => onCore 0x01 s c st w (timePlan c st w) noMaint)

/-- The core has an operation of its own outstanding that BOUNDARY waits for: all but PUT and GET (R119). -/
def boundaryBlocked (x : Core) : Bool :=
  hasOp x (fun u => match u with | .message _ => false | _ => true)

/-- BOUNDARY: the stream's work ends; at the later of the two the core enters the boundary wait (R119). -/
def boundaryPlan (c : Nat) (st : Stream) (w : W128) (s : State) (t : Nat) : Plan :=
  { streamOk := true
    check := (chkRsv w 0 96).and (mustBe (decide (wSop w = 0)))
    blocked := if boundaryBlocked (coreAt s c) then some 3 else none
    act := fun s => enterBoundary (updStream s c st (fun v => { v with done := true })) c
    next := t }

/-- In the first 16 ac of a boundary wait every checker is tested; a silent one withholds the ended worked tempo and the next (R376). -/
def checkerTest (s : State) (c : Nat) (was : Bool) (silent : Option (Fin 7 × Byte)) : State :=
  match silent with
  | some (k, holder) =>
    if !was && (coreAt s c).boundary then
      let s := updSaf s (fun x => { x with checkerFails := satAdd x.checkerFails 1 })
      let s := raiseModule s 0x23 (k.val * 2 ^ 40 + holder.toNat * 2 ^ 32)
      updTmp s (fun t => { t with checkNext := some 768 })
    else s
  | none => s

def execBoundary (c : CoreId) (st : Stream) (w : W128) (silent : Option (Fin 7 × Byte)) (s : State) : Host.Outcome State Fault Refusal :=
  done s (fun s => checkerTest (onCore 0x02 s c st w (boundaryPlan c st w) noMaint) c (coreAt s c).boundary silent)

/-- The action of a SYNC (Table 4.8). A sum that leaves the range waits for the end of the ac, where the ac's other effects may bring it back
(R156). -/
def syncAct (st : Stream) (w : W128) (s : State) (c : Nat) : State :=
  let o := syObj w
  let x := coreAt s c
  let v := BitVec.ofNat 32 (syVal w)
  match syAct w with
  | 0 => setCore s c (setSync x o { syncAt x o with thr := v })
  | 1 => setCore s c (setSync x o { syncAt x o with val := v })
  | 2 =>
    if (syncAt x o).val.toNat + syVal w < 2 ^ 32 then applyEffs s c o [.add (syVal w)]
    else effectAt s c (streamNo st) (clk s c) (.add (syVal w)) o
  | _ => setCore s c (setSync x o { syncAt x o with val := 0 })

def syncPlan (c : Nat) (st : Stream) (w : W128) (_s : State) (t : Nat) : Plan :=
  control (chkSync w) (fun s => signalEnd w st 0 (syncAct st w s c) c) (t + 1)

def execSync (c : CoreId) (st : Stream) (w : W128) (s : State) : Host.Outcome State Fault Refusal :=
  done s (fun s => onCore 0x03 s c st w (syncPlan c st w) noMaint)

/-- The reads of R136 before a first worked tempo: the core is in maintenance mode and its context is to run. -/
def execFirstTempoPrefetch (c : CoreId) (s : State) : Host.Outcome State Fault Refusal :=
  done s (fun s => if enabledCore s c ∧ (coreAt s c).maint then prefetch s c else s)

end Sys2Proof.Machine
end

