-- ==== Sys2Proof/Machine/Access.lean ====
section
/-! DEFINITION. The access class: REFILL, TRD, TWR, LDQ, STQ and COPY (R120, R121, R148, R167, R176, R198 to R213). -/

namespace Sys2Proof.Machine

def isAccess (st : Stream) : Bool := match st with | .access => true | .execute => false

/-- The last port crossing of the tier unit's operation has not been made: the unit accepts its next instruction in the ac after it; a Tweed
transfer holds the unit to its end (Tables 4.1, 6.1, R209). -/
def tierBusy (x : Core) (o : Op) : Bool :=
  match o.unit, o.prog with
  | .tier, .refill => decide (o.step ≤ refillTime x o.refills)
  | .tier, .plain => decide (o.step ≤ ceilDiv (trBlocks o.word) 2 + (if wOp o.word = 0x11 then 0 else 1))
  | .tier, _ => true
  | _, _ => false

/-- The tier unit's readiness, never while a TILE runs (Table 4.1); then the scoreboard decides (R164). -/
def tierBlocked (x : Core) (rd wr : List Range) : Option Nat :=
  if hasOp x isTile || x.ops.any (tierBusy x) then some 3 else if sbBlocked x rd wr then some 5 else none

/-! ### REFILL -/

/-- Tier image envelope and scale lines (Table 5.7). -/
def refillReads (x : Core) (w : W128) : List Range :=
  let es := maskEngines (reEng w)
  let n := es.length
  let per := (es.map (fun e => (reRows w * rowBytes (refillFmt x e) + 511) / 512)).foldl max 0
  blocksRange (reWblk w) ((n - 1) * reEstride w + per) ++
    (if es.any (fun e => fmtScaled (refillFmt x e)) then linesRange (reSline w) (8 * n) else [])

/-- The parts of a REFILL, engine by engine (R121). -/
def refillRuns0 (w : W128) : List RefillRun :=
  (maskEngines (reEng w)).zipIdx.map (fun p => ⟨p.1, reWblk w + p.2 * reEstride w, reRows w, reSline w + 8 * p.2, none, 0, 0⟩)

def refillAct (c : Nat) (w : W128) (s : State) : State :=
  pushOp s c { newOp s c w .tier (refillReads (coreAt s c) w) [] none .refill with refills := refillRuns0 w }

def refillPlan (c : Nat) (st : Stream) (w : W128) (s : State) (t : Nat) : Plan :=
  let x := coreAt s c
  { streamOk := isAccess st
    check := chkRefill x w
    blocked := tierBlocked x (refillReads x w) []
    act := refillAct c w
    next := t + 1 }

def execRefill (c : CoreId) (st : Stream) (w : W128) (s : State) : Host.Outcome State Fault Refusal :=
  done s (fun s => onCore 0x10 s c st w (refillPlan c st w) noMaint)

/-! ### TRD -/

/-- The lines that a TRD may write (R201). -/
def trdLines (w : W128) : Nat := if trCodec w then min (12 * trBlocks w) (Config.storeLines - trLaddr w) else 8 * trBlocks w

def trdAct (c : Nat) (w : W128) (s : State) : State :=
  let n := trBlocks w
  if n = 0 then signalEnd w .access 1 s c
  else
    let rd := blocksRange (trTblk w) n
    let wr := linesRange (trLaddr w) (trdLines w)
    if trCodec w then addOp s c w .tier rd wr none (.decode ⟨0, 0, 0, 0, none, 0⟩)
    else addOp s c w .tier rd wr (some (12 + ceilDiv n 2)) .plain

def trdPlan (c : Nat) (st : Stream) (w : W128) (s : State) (t : Nat) : Plan :=
  let x := coreAt s c
  { streamOk := isAccess st
    check := chkTrd w
    blocked := if trBlocks w = 0 then none else tierBlocked x (blocksRange (trTblk w) (trBlocks w)) (linesRange (trLaddr w) (trdLines w))
    act := trdAct c w
    next := t + 1 }

def execTrd (c : CoreId) (st : Stream) (w : W128) (s : State) : Host.Outcome State Fault Refusal :=
  done s (fun s => onCore 0x11 s c st w (trdPlan c st w) noMaint)

/-! ### TWR -/

def twrBlocks (w : W128) : Nat := if trCodec w then twReserve (trBlocks w) else trBlocks w

def twrAct (c : Nat) (w : W128) (s : State) : State :=
  let n := trBlocks w
  if n = 0 then signalEnd w .access 1 s c
  else
    let rd := linesRange (trLaddr w) (8 * n)
    let wr := blocksRange (trTblk w) (twrBlocks w)
    if trCodec w then addOp s c w .tier rd wr none (.encode ⟨winOfmt (engineAt (coreAt s c) 0).activeWin, none, [], [], 0, 0⟩)
    else addOp s c w .tier rd wr (some (4 + ceilDiv n 2)) .plain

def twrPlan (c : Nat) (st : Stream) (w : W128) (s : State) (t : Nat) : Plan :=
  let x := coreAt s c
  { streamOk := isAccess st
    check := chkTwr x w
    blocked := if trBlocks w = 0 then none else tierBlocked x (linesRange (trLaddr w) (8 * trBlocks w)) (blocksRange (trTblk w) (twrBlocks w))
    act := twrAct c w
    next := t + 1 }

def execTwr (c : CoreId) (st : Stream) (w : W128) (s : State) : Host.Outcome State Fault Refusal :=
  done s (fun s => onCore 0x12 s c st w (twrPlan c st w) noMaint)

/-! ### LDQ and STQ -/

/-- Envelope of a strided run of lines (R165). -/
def envelope (l n stride : Nat) : List Range := if n = 0 then [] else linesRange l ((n - 1) * stride + 1)

def isQueueIn (q : Nat) (u : UnitId) : Bool := match u with | .queueIn k => decide (k.val = q) | _ => false
def isQueueOut (q : Nat) (u : UnitId) : Bool := match u with | .queueOut k => decide (k.val = q) | _ => false

def ldqAct (c : Nat) (w : W128) (s : State) : State :=
  addOp s c w (.queueIn (Fin.ofNat 4 (ldQueue w))) (envelope (ldLaddr w) (ldLines w) (ldStride w)) []
    (some (runLag (coreAt s c) (ldqRun w) + ldLines w - 1)) .plain

def ldqPlan (c : Nat) (st : Stream) (w : W128) (s : State) (t : Nat) : Plan :=
  let x := coreAt s c
  { streamOk := isAccess st
    check := chkLdq s c w
    blocked := if hasOp x (isQueueIn (ldQueue w)) then some 3
      else if sbBlocked x (envelope (ldLaddr w) (ldLines w) (ldStride w)) [] then some 5 else none
    act := ldqAct c w
    next := t + 1 }

def execLdq (c : CoreId) (st : Stream) (w : W128) (s : State) : Host.Outcome State Fault Refusal :=
  done s (fun s => onCore 0x13 s c st w (ldqPlan c st w) noMaint)

def stqAct (c : Nat) (w : W128) (s : State) : State :=
  addOp s c w (.queueOut (Fin.ofNat 2 (stQueue w))) [] (envelope (stLaddr w) (stLines w) (stStride w))
    (some (stLines w + (if isNeigh (stLaddr w) then 3 else 1))) .plain

def stqPlan (c : Nat) (st : Stream) (w : W128) (s : State) (t : Nat) : Plan :=
  let x := coreAt s c
  { streamOk := isAccess st
    check := chkStq s c w
    blocked := if hasOp x (isQueueOut (stQueue w)) then some 3
      else if sbBlocked x [] (envelope (stLaddr w) (stLines w) (stStride w)) then some 5 else none
    act := stqAct c w
    next := t + 1 }

def execStq (c : CoreId) (st : Stream) (w : W128) (s : State) : Host.Outcome State Fault Refusal :=
  done s (fun s => onCore 0x14 s c st w (stqPlan c st w) noMaint)

/-! ### COPY -/

def isCopy (u : UnitId) : Bool := match u with | .copy => true | _ => false

def copyAct (c : Nat) (w : W128) (s : State) : State :=
  let n := cpLines w
  if n = 0 then signalEnd w .access 1 s c
  else addOp s c w .copy (linesRange (cpSrc w) n) (linesRange (cpDst w) n)
    (some (runLag (coreAt s c) (copyRun w) + (if isNeigh (cpDst w) then 2 else 0) + n - 1)) .plain

def copyPlan (c : Nat) (st : Stream) (w : W128) (s : State) (t : Nat) : Plan :=
  let x := coreAt s c
  let n := cpLines w
  { streamOk := isAccess st
    check := chkCopy s c w
    blocked := if n = 0 then none else if hasOp x isCopy then some 3
      else if sbBlocked x (linesRange (cpSrc w) n) (linesRange (cpDst w) n) then some 5 else none
    act := copyAct c w
    next := t + 1 }

def execCopy (c : CoreId) (st : Stream) (w : W128) (s : State) : Host.Outcome State Fault Refusal :=
  done s (fun s => onCore 0x15 s c st w (copyPlan c st w) noMaint)

end Sys2Proof.Machine
end

