-- ==== Sys2Proof/Machine/Execute.lean ====
section
/-! DEFINITION. The execute class: WIN, PASS, DRAIN, TCFG and TILE, and what the engines do after their issue (R80 to R107, R122 to R132). -/

namespace Sys2Proof.Machine

def isExecute (st : Stream) : Bool := match st with | .execute => true | .access => false

/-- PASS, DRAIN and WIN find their engines busy while a TILE runs (Table 4.1). -/
def tileBlocks (x : Core) : Option Nat := if hasOp x isTile then some 3 else none

/-! ### WIN -/

/-- A word that R87 refuses is a window fault; another is written at the end of the ac: it counts for rows issued and drains started after it
(R122). -/
def winAct (c : Nat) (w : W128) (s : State) : State :=
  let s :=
    if !(winOk (wiWord w)) then raiseCore s c 7 (wiEng w * 2 ^ 40)
    else updCore s c (fun x => { x with winDue := some w })
  signalEnd w .execute 0 s c

def winPlan (c : Nat) (st : Stream) (w : W128) (s : State) (t : Nat) : Plan :=
  { streamOk := isExecute st, check := chkWin w, blocked := tileBlocks (coreAt s c), act := winAct c w, next := t + 1 }

/-- On the maintenance port WIN writes its word without wait or signal (R137, Table 4.22). -/
def winMaint (c : Nat) (w : W128) (s : State) : State :=
  if chkWin w ≠ .ok then setMstat s c 4
  else if !(winOk (wiWord w)) then setMstat (raiseCore s c 7 (wiEng w * 2 ^ 40)) c 4
  else setMstat (winWrite s c w) c 0

def execWin (c : CoreId) (st : Stream) (w : W128) (s : State) : Host.Outcome State Fault Refusal :=
  done s (fun s => onCore 0x20 s c st w (winPlan c st w) (winMaint c w))

/-! ### PASS -/

/-- Activation envelope over all engines, and activation-scale lines (Table 5.7). -/
def passRanges (x : Core) (w : W128) : List Range :=
  let es := maskEngines (psEng w)
  let ls := es.flatMap (fun e => [rowLine w e 0, rowLine w e (psRows w - 1)])
  let lo := ls.foldl min (ls.headD 0)
  let hi := ls.foldl max 0 + 2
  let sc := es.filter (fun e => fmtScaled (winAfmt (passWin x e (psSwap w))))
  let bs := sc.flatMap (fun e => [scaleByte w e 0 / 64, scaleByte w e (psRows w - 1) / 64])
  linesRange lo (hi - lo) ++ (if sc.isEmpty then [] else linesRange (bs.foldl min (bs.headD 0)) (bs.foldl max 0 + 1 - bs.foldl min (bs.headD 0)))

/-- A PASS of an engine of the mask whose last row has not entered by the end of the ac of unit time `t` (Table 4.1). -/
def passBusy (x : Core) (es : List Nat) (t : Nat) : Bool :=
  x.ops.any (fun o => match o.prog with
    | .pass start _ => es.any (fun e => decide (e ∈ maskEngines (psEng o.word))) &&
        (match start with
         | some f => decide (o.step + 1 < f + psRows o.word) || (decide (o.step < f + psRows o.word) && decide (t < o.issue + o.step + o.shift))
         | none => true)
    | _ => false)

def passAct (c : Nat) (w : W128) (s : State) : State :=
  let es := maskEngines (psEng w)
  let n := (coreAt s c).passLog.length
  let s := updCore s c (fun x => { x with passLog := x.passLog ++ es.map (fun _ => 0), passEng := x.passEng ++ es })
  addOp s c w (.pass (Fin.ofNat 4 (es.headD 0))) (passRanges (coreAt s c) w) [] none (.pass none (es.zipIdx.map (fun p => ⟨p.1, n + p.2, []⟩)))

def passPlan (c : Nat) (st : Stream) (w : W128) (s : State) (t : Nat) : Plan :=
  let x := coreAt s c
  { streamOk := isExecute st
    check := chkPass x w
    blocked := match tileBlocks x with
      | some k => some k
      | none => if passBusy x (maskEngines (psEng w)) (clk s c) then some 3 else if sbBlocked x (passRanges x w) [] then some 5 else none
    act := passAct c w
    next := t + 1 }

def execPass (c : CoreId) (st : Stream) (w : W128) (s : State) : Host.Outcome State Fault Refusal :=
  done s (fun s => onCore 0x21 s c st w (passPlan c st w) noMaint)

/-! ### DRAIN -/

/-- Output envelope (Table 5.7). -/
def drainWrites (x : Core) (w : W128) : List Range :=
  let gang := psGang w
  let es := if gang = 0 then maskEngines (psEng w) else [0]
  let ends := es.map (fun e =>
    let off := if gang = 0 then e * drEoff w else 0
    (drOline w + off, drOline w + off + (psRows w - 1) * drOstride w + outLines (winOfmt (engineAt x e).activeWin) (gangCols x gang e)))
  let lo := (ends.map (·.1)).foldl min (((ends.map (·.1))).headD 0)
  let hi := (ends.map (·.2)).foldl max 0
  linesRange lo (hi - lo)

/-- The runs of entry reads that a DRAIN starts: one per engine in gang 0, one for the gang otherwise. -/
def drainRuns (x : Core) (w : W128) : List DrainRun :=
  let gang := psGang w
  let d (e : Nat) : Nat := drainAc (winOfmt (engineAt x e).activeWin)
  if gang = 0 then (maskEngines (psEng w)).map (fun e => ⟨[e], d e, e * drEoff w, 0, drFirst w, psRows w, 0, 0⟩)
  else [⟨gangOuts gang, d 0, 0, 0, drFirst w, psRows w, 0, 0⟩]

/-- The step of a run's last entry read. -/
def DrainRun.lastRead (r : DrainRun) : Nat := r.start + (r.rows - 1) * r.interval

/-- A DRAIN still has an entry of an engine of the mask to read: the engine accepts the next one in the ac after its last (Table 4.1). -/
def drainBusy (x : Core) (es : List Nat) : Bool :=
  x.ops.any (fun o => match o.prog with
    | .drain runs => runs.any (fun r =>
        (if psGang o.word = 0 then r.es.any (fun e => es.contains e) else true) && decide (o.step ≤ r.lastRead))
    | _ => false)

def drainAct (c : Nat) (w : W128) (s : State) : State :=
  let x := coreAt s c
  let runs := drainRuns x w
  addOp s c w (.drain (Fin.ofNat 4 ((maskEngines (psEng w)).headD 0))) [] (drainWrites x w)
    (some ((runs.map (fun r => r.lastRead + 2)).foldl max 0)) (.drain runs)

def drainPlan (c : Nat) (st : Stream) (w : W128) (s : State) (t : Nat) : Plan :=
  let x := coreAt s c
  { streamOk := isExecute st
    check := chkDrain x w
    blocked := match tileBlocks x with
      | some k => some k
      | none => if drainBusy x (maskEngines (psEng w)) then some 3 else if sbBlocked x [] (drainWrites x w) then some 5 else none
    act := drainAct c w
    next := t + 1 }

def execDrain (c : CoreId) (st : Stream) (w : W128) (s : State) : Host.Outcome State Fault Refusal :=
  done s (fun s => onCore 0x22 s c st w (drainPlan c st w) noMaint)

/-! ### Events of the engines and of the units -/

/-- Rows of an engine that await their comparison. -/
def rowsWaiting (s : State) (c e : Nat) : Nat := ((engineAt (coreAt s c) e).rows.filter (fun r => decide (r.stage = 0))).length

/-- The oldest row that awaits its comparison gets a difference of its check column. -/
def setDelta (g : Engine) (delta : Int) : Engine :=
  match g.rows.findIdx? (fun r => decide (r.stage = 0)) with
  | some i => { g with rows := g.rows.modify i (fun r => { r with delta := delta }) }
  | none => g

/-- PASS_ROW_RESULT: ac pass until the oldest row in flight has been compared (R97); `checkDelta` is by how much the engine's own check column
differs, in units of the window base. -/
def rowResultStep (s : State) (c e : Nat) (delta : Int) : State :=
  let n := rowsWaiting s c e
  if n = 0 then s
  else tickUntil 512 (updCore s c (fun x => updEngine x e (fun g => setDelta g delta))) (fun s => decide (rowsWaiting s c e < n))

def execPassRowResult (c : CoreId) (e : EngineId) (checkDelta : Int) (s : State) : Host.Outcome State Fault Refusal :=
  done s (fun s => if enabledCore s c then rowResultStep s c e checkDelta else s)

/-- RAMP_OUT_STEP: ac pass until the engine has fallen a level, which it does at 72, 80, 88 and 96 ac after its last row (R104). -/
def rampStep (s : State) (c e : Nat) : State :=
  let n := (engineAt (coreAt s c) e).level
  if n = 0 ∨ s.lock.gated then s else tickUntil 512 s (fun s => decide ((engineAt (coreAt s c) e).level < n))

def execRampOutStep (c : CoreId) (e : EngineId) (s : State) : Host.Outcome State Fault Refusal :=
  done s (fun s => if enabledCore s c then rampStep s c e else s)

/-- The operation is one of the unit; a PASS or DRAIN of several engines is one of each of them. -/
def opOf (u : UnitId) (o : Op) : Bool :=
  decide (o.unit = u) || (match u, o.prog with
    | .pass e, .pass .. => decide (e.val ∈ maskEngines (psEng o.word))
    | .drain e, .drain .. => decide (e.val ∈ maskEngines (psEng o.word))
    | _, _ => false)

/-- UNIT_SIGNAL: ac pass until the unit's oldest operation has come to its signal point (Table 4.6). -/
def unitSignal (s : State) (c : Nat) (u : UnitId) : State :=
  let n := ((coreAt s c).ops.filter (opOf u)).length
  if n = 0 then s else tickUntil 65536 s (fun s => decide (((coreAt s c).ops.filter (opOf u)).length < n))

def execUnitSignal (c : CoreId) (u : UnitId) (s : State) : Host.Outcome State Fault Refusal :=
  done s (fun s => if enabledCore s c then unitSignal s c u else s)

/-! ### TCFG and TILE -/

def tcfgAct (c : Nat) (w : W128) (s : State) : State :=
  signalEnd w .execute 0 (updCore s c (fun x => { x with tcfg := some ⟨bits w 79 17, bits w 67 12, bits w 55 12, bits w 38 17⟩ })) c

def tcfgPlan (c : Nat) (st : Stream) (w : W128) (_s : State) (t : Nat) : Plan :=
  { streamOk := isExecute st, check := chkTcfg w, blocked := none, act := tcfgAct c w, next := t + 1 }

def execTcfg (c : CoreId) (st : Stream) (w : W128) (s : State) : Host.Outcome State Fault Refusal :=
  done s (fun s => onCore 0x23 s c st w (tcfgPlan c st w) noMaint)

/-- Activation envelope, scale lines and weight slots (Table 5.7). -/
def tileRanges (x : Core) (w : W128) (cfg : TileCfg) (sh : TileShape) : List Range :=
  let win := (engineAt x 0).shadowWin
  let esz := if fmtQuad (winAfmt win) then 2 else 1
  let loads := sh.kgs * sh.ngs
  linesRange (tiAline w) ((tiM w - 1) * cfg.astride + (tiK w * esz + 63) / 64) ++
  (if fmtScaled (winAfmt win) then linesRange cfg.ascale ((tiM w * ceilDiv (tiK w) 32 + 63) / 64) else []) ++
  (if fmtScaled (winWfmt win) then linesRange cfg.sline (32 * loads) else []) ++
  blocksRange (tiWblk w) (loads * tileSlot (winWfmt win))

/-- Output envelope when DRAIN = 1. -/
def tileOutputs (x : Core) (w : W128) (cfg : TileCfg) : List Range :=
  if tiDrain w then linesRange (tiOline w) ((tiM w - 1) * cfg.ostride + outLines (winOfmt (engineAt x 0).shadowWin) (tiN w)) else []

def tileAct (c : Nat) (w : W128) (s : State) : State :=
  let x := coreAt s c
  match x.tcfg with
  | none => s
  | some cfg =>
    let wfmt := winWfmt (engineAt x 0).shadowWin
    addOp s c w .tile (tileRanges x w cfg (tileShape wfmt (tiK w) (tiN w))) (tileOutputs x w cfg) none (.tile cfg wfmt none [])

def tilePlan (c : Nat) (st : Stream) (w : W128) (s : State) (t : Nat) : Plan :=
  let x := coreAt s c
  let cfg := x.tcfg.getD ⟨0, 0, 0, 0⟩
  let sh := tileShape (winWfmt (engineAt x 0).shadowWin) (tiK w) (tiN w)
  { streamOk := isExecute st
    check := chkTile x w
    blocked := match tileBlocks x with
      | some k => some k
      | none => if sbBlocked x (tileRanges x w cfg sh) (tileOutputs x w cfg) then some 5 else none
    act := tileAct c w
    next := t + 1 }

def execTile (c : CoreId) (st : Stream) (w : W128) (s : State) : Host.Outcome State Fault Refusal :=
  done s (fun s => onCore 0x24 s c st w (tilePlan c st w) noMaint)

end Sys2Proof.Machine
end

