-- ==== Sys2Proof/Machine/Element.lean ====
section
/-! DEFINITION. The element class: EW (R126, R127). -/

namespace Sys2Proof.Machine

def isElement (u : UnitId) : Bool := match u with | .element => true | _ => false

/-- Sources that are lines (Table 5.7). -/
def ewReads (w : W128) : List Range :=
  (if ewAk w then [] else linesRange (ewA w) (ewLines w)) ++
  (if ewBinary (ewOp w) && !(ewBk w) then linesRange (ewB w) (ewLines w) else [])

/-- A destination that is lines (Table 5.7). -/
def ewWrites (w : W128) : List Range := if ewDk w then [] else linesRange (ewD w) (ewDstLines (ewOp w) (ewLines w))

def ewAct (c : Nat) (w : W128) (s : State) : State :=
  addOp s c w .element (ewReads w) (ewWrites w) (some (ewLast w)) (.element ⟨0, none, 0, none, 0⟩)

/-- The element unit accepts an EW in the ac after the previous one has read its last source line (Table 4.1). -/
def ewBusy (x : Core) : Bool := x.ops.any (fun o => isElement o.unit && (decide (o.step ≤ ewLines o.word) || o.again.any (fun r => r.data.isNone)))

def ewPlan (c : Nat) (st : Stream) (w : W128) (s : State) (t : Nat) : Plan :=
  let x := coreAt s c
  { streamOk := isExecute st
    check := chkEw w
    blocked := if ewBusy x then some 3 else if sbBlocked x (ewReads w) (ewWrites w) then some 5 else none
    act := ewAct c w
    next := t + 1 }

def execEw (c : CoreId) (st : Stream) (w : W128) (s : State) : Host.Outcome State Fault Refusal :=
  done s (fun s => onCore 0x30 s c st w (ewPlan c st w) noMaint)

end Sys2Proof.Machine
end

