-- ==== Sys2Proof/Machine/Transfer.lean ====
section
/-! DEFINITION. PUT, GET, LADD, SPUT and BAR: the descriptor and the start of the message (R120, R259, R260, R265, R271). -/

namespace Sys2Proof.Machine

/-- A message descriptor (Table 9.8). -/
structure Desc where
  op : Nat
  fence : Bool
  cls : Nat
  len : Nat
  laddr : Nat
  gaddr : W64
  aen : Bool
  arrive : Byte
  stream : Nat
  coreset : W64
  /-- every reserved field is zero -/
  clean : Bool

def descOf (d : Line) : Desc :=
  { op := bits d 28 4, fence := bit d 27, cls := bits d 24 2, len := bits d 0 24, laddr := bits d 32 32,
    gaddr := BitVec.ofNat 64 (bits d 64 64), aen := bit d 144, arrive := BitVec.ofNat 8 (bits d 136 8), stream := bits d 160 10,
    coreset := BitVec.ofNat 64 (bits d 192 64),
    clean := decide (bits d 26 1 = 0) && decide (bits d 128 8 = 0) && decide (bits d 145 15 = 0) && decide (bits d 170 22 = 0) &&
      decide (bits d 256 256 = 0) }

/-- The descriptor's form: reserved fields and codes, an arrival counter where AEN names one, CORESET only for core field 0xFE, and the fields of
its operation; PUT's opcode carries the writing operations and GET's the reading one (assumption log 13). -/
def descOk (get : Bool) (d : Desc) : Bool :=
  d.clean && decide (d.cls ≤ 1) && (if get then decide (d.op = 1) else decide (d.op ≠ 1) && decide (d.op ≤ 4)) &&
  (decide (d.op = 3) || decide (d.stream = 0)) && (!d.aen || decide (0xC0 ≤ d.arrive.toNat)) &&
  (decide (gaCore d.gaddr = 0xFE) || decide (d.coreset = 0)) && (decide (d.op ≠ 4) || (d.aen && decide (d.gaddr = 0)))

/-- LADDR and its length lie in the own store or the own tier column; the first address that does not. -/
def descRange (d : Desc) : Check :=
  if d.op = 4 ∨ d.len = 0 then .ok
  else if d.laddr < 0x800000 then (if d.laddr + d.len ≤ 0x800000 then .ok else .access 0x800000)
  else if 0x10000000 ≤ d.laddr ∧ d.laddr < 0x1C000000 then (if d.laddr + d.len ≤ 0x1C000000 then .ok else .access 0x1C000000)
  else .access d.laddr

/-- The local range in lines. -/
def descLines (d : Desc) : List Range :=
  if d.op = 4 ∨ d.len = 0 then [] else [Range.mk (d.laddr / 64 * 64) ((d.laddr + d.len + 63) / 64 * 64)]

/-- The ranges that PUT or GET reads and writes (Table 5.7). -/
def transferReads (w : W128) (d : Desc) : List Range := if d.op = 1 then linesRange (putDesc w) 1 else linesRange (putDesc w) 1 ++ descLines d
def transferWrites (d : Desc) : List Range := if d.op = 1 then descLines d else []

/-- PUT's or GET's effect: its descriptor is requested in this ac, and the message joins the core's order. -/
def transferAct (c : CoreId) (w : W128) (s : State) : State :=
  let d := descOf (readLine s c (putDesc w) true).1
  let id := (coreAt s c).msgid
  let s := updCore s c (fun x => { x with msgid := x.msgid + 1 })
  submit (addOp s c w (.message id.toNat) (transferReads w d) (transferWrites d) none .plain)
    { src := c, msgid := id, op := d.op, gaddr := d.gaddr, laddr := d.laddr, len := d.len, arrive := if d.aen then some d.arrive else none,
      stream := d.stream, coreset := d.coreset, cls := d.cls, fence := d.fence, data := [], sop := BitVec.ofNat 4 (wSop w),
      sobj := BitVec.ofNat 8 (wSobj w), started := false, ctx := ctxOfCore s c, copies := 1, status := 0, dead := false, held := false }

/-- Messages outstanding in the message unit (Table 4.1). -/
def msgsOut (s : State) (c : Nat) : Nat := (s.fab.msgs.filter (fun m => decide (m.src = c))).length

def transferPlan (get : Bool) (c : CoreId) (st : Stream) (w : W128) (s : State) (t : Nat) : Plan :=
  let d := descOf (readLine s c (putDesc w) true).1
  { streamOk := isAccess st
    check := (chkRsv w 0 79).and ((mustBe (descOk get d)).and (descRange d))
    blocked := if 16 ≤ msgsOut s c then some 3 else if sbBlocked (coreAt s c) (transferReads w d) (transferWrites d) then some 5 else none
    act := transferAct c w
    next := t + 1 }

def execPut (c : CoreId) (st : Stream) (w : W128) (s : State) : Host.Outcome State Fault Refusal :=
  done s (fun s => onCore 0x18 s c st w (transferPlan false c st w) noMaint)

def execGet (c : CoreId) (st : Stream) (w : W128) (s : State) : Host.Outcome State Fault Refusal :=
  done s (fun s => onCore 0x19 s c st w (transferPlan true c st w) noMaint)

/-- LADD: PUT's opcode over a descriptor whose OP is 2 (R265). -/
def execLadd (c : CoreId) (st : Stream) (w : W128) (s : State) : Host.Outcome State Fault Refusal :=
  done s (fun s => onCore 0x18 s c st w (transferPlan false c st w) noMaint)

/-- SPUT: PUT's opcode over a descriptor whose OP is 3 (R237, R260). -/
def execSput (c : CoreId) (st : Stream) (w : W128) (s : State) : Host.Outcome State Fault Refusal :=
  done s (fun s => onCore 0x18 s c st w (transferPlan false c st w) noMaint)

/-- BAR: PUT's opcode over a descriptor whose OP is 4 (R271). -/
def execBar (c : CoreId) (st : Stream) (w : W128) (s : State) : Host.Outcome State Fault Refusal :=
  done s (fun s => onCore 0x18 s c st w (transferPlan false c st w) noMaint)

end Sys2Proof.Machine
end

