-- ==== Sys2Proof/Machine/Maint.lean ====
section
/-! DEFINITION. The maintenance instructions and their port (R137 to R139, R345). -/

namespace Sys2Proof.Machine

/-! ### Raw store lines -/

/-- The stored CRC of a line. -/
def storedCrc (x : Core) (l : Nat) : W16 := lineCrc (lineBytes x l) ^^^ tget 0 x.lcrc l

/-- A raw line write with a CRC mask (MWRL). -/
def putLineRaw (x : Core) (l : Nat) (bs : List Byte) (mask : W16) : Core :=
  let x := putLine x l bs
  { x with lcrc := tset 0 x.lcrc l mask }

/-- The line (a 17-bit number) of a maintenance instruction. -/
def maLine (w : W128) : Nat := bits w 79 17
/-- LINES of MCLR and MCRC. -/
def maLines (w : W128) : Nat := bits w 62 17 + 1

def rsvZero (w : W128) (n : Nat) : Bool := decide (bits w 0 n = 0)

/-- An instruction that passes its own reserved-field check does its work; otherwise mstat 4. -/
def maintForm (ok : Bool) (s : State) (c : Nat) (act : State → State) : State := if ok then act s else setMstat s c 4

/-! ### The instructions (R139) -/

def mrdlOp (c : Nat) (w : W128) (s : State) : State :=
  maintForm (rsvZero w 79) s c (fun s =>
    let x := coreAt s c
    let bs := lineBytes x (maLine w)
    let res := (List.range 8).foldl (fun t i => tset 0 t i (BitVec.ofNat 64 (sliceNat bs (8 * i) 8))) x.mres
    let s := setCore s c { x with mres := res, mcrc := (storedCrc x (maLine w)).setWidth 32 }
    setMstat s c (if tget 0 x.lcrc (maLine w) = 0 then 0 else 1))

/-- The 64 bytes that mres[0] to mres[7] hold. -/
def mresBytes (x : Core) : List Byte := (List.range 8).flatMap (fun i => leBytes 8 (tget 0 x.mres i).toNat)

def mwrlOp (c : Nat) (w : W128) (s : State) : State :=
  maintForm (rsvZero w 63) s c (fun s =>
    setMstat (updCore s c (fun x => putLineRaw x (maLine w) (mresBytes x) (BitVec.ofNat 16 (bits w 63 16)))) c 0)

/-- The fences of `n` lines from `a` end; an entry that becomes free ends the withholding for the lines that found none (R153). -/
def clearFences (x : Core) (a n : Nat) : Core :=
  let hit (i : Nat) : Bool := let f := tget 0 x.fences i; bit f 31 && decide (a ≤ bits f 0 17) && decide (bits f 0 17 < a + n)
  { x with
    fences := (List.range 8).foldl (fun t i => if hit i then tset 0 t i 0 else t) x.fences
    unfenced := if (List.range 8).any hit then [] else x.unfenced }

def mclrOp (c : Nat) (w : W128) (s : State) : State :=
  maintForm (rsvZero w 62) s c (fun s =>
    if Config.storeLines < maLine w + maLines w then setMstat s c 2
    else
      setMstat (updCore s c (fun x => clearFences { x with
        store := zeroBytes x.store (64 * maLine w) (64 * (maLine w + maLines w))
        lcrc := tclear x.lcrc (maLine w) (maLine w + maLines w) } (maLine w) (maLines w))) c 0)

def mcrcOp (c : Nat) (w : W128) (s : State) : State :=
  maintForm (rsvZero w 62) s c (fun s =>
    if Config.storeLines < maLine w + maLines w then setMstat s c 2
    else
      let x := coreAt s c
      let bad := x.lcrc.any (fun (p : Nat × W16) => decide (maLine w ≤ p.1) && decide (p.1 < maLine w + maLines w))
      setMstat (setCore s c { x with mcrc := crc32c (readBytes x.store (64 * maLine w) (64 * maLines w)) }) c (if bad then 1 else 0))

/-- The physical block that MTRB and MTWB name; the repair map is bypassed. -/
def maBlock (c : Nat) (w : W128) : Option Nat :=
  let t := bits w 94 2
  let b := bits w 75 18
  if bit w 93 then (if b < Config.spareBlocks then some (sparePb t b) else none)
  else if b < Config.sliceBlocks then some (slicePb c t b) else none

def mtrbOp (c : Nat) (w : W128) (s : State) : State :=
  maintForm (rsvZero w 58) s c (fun s =>
    match maBlock c w with
    | none => setMstat s c 2
    | some pb =>
      let a := bits w 58 17
      if Config.storeLines < a + 8 then setMstat s c 2
      else
        let d := pbBytes s.tiers pb
        let crc := pbCrc s.tiers pb
        let s := forAll (List.range 8) s (fun s i => updCore s c (fun x => putLine x (a + i) (slice d (64 * i) 64)))
        setMstat (updCore s c (fun x => { x with mcrc := crc })) c (if crc = crc32c d then 0 else 1))

def mtwbOp (c : Nat) (w : W128) (s : State) : State :=
  maintForm (rsvZero w 58) s c (fun s =>
    match maBlock c w with
    | none => setMstat s c 2
    | some pb =>
      let a := bits w 58 17
      if Config.storeLines < a + 8 then setMstat s c 2
      else
        let x := coreAt s c
        let mask := lo32 (tget 0 x.mres 0)
        let s := updTiers s (fun t =>
          let t := putPb t pb (readBytes x.store (64 * a) 512)
          { t with crc := tset 0 t.crc pb mask })
        setMstat s c 0)

/-- A spare that no remap entry names any more is free again (assumption log 14). -/
def unmap (t : Tiers) (c b : Nat) : Tiers :=
  match tget 0 t.remap (remapKey c b) with
  | 0 => t
  | n + 1 =>
    let rest := { t with remap := tset 0 t.remap (remapKey c b) 0, bad := t.bad.filter (fun e => decide (e ≠ remapKey c b)) }.keep
    if rest.remap.any (fun p => decide (p.2 = n + 1)) then rest else markPb rest n 0

def mmapOp (c : Nat) (w : W128) (s : State) : State :=
  maintForm (rsvZero w 56) s c (fun s =>
    let b := bits w 77 19
    let valid := bit w 76
    let sp := bits w 56 18
    if Config.columnBlocks ≤ b ∨ (valid ∧ Config.spareBlocks ≤ sp) then setMstat s c 2
    else if valid && !(remapRoom s.tiers c) then setMstat s c 3
    else
      let s := updTiers s (fun t => unmap t c b)
      let s := if valid then updTiers s (fun t => remapTo t c b (bits w 74 2) sp) else s
      setMstat s c 0)

/-- `n` lines from `l` as MSIG reads them; the manual names no line beyond the store's last, and what one would hold is a free value of the
occasion (assumption log 14). -/
def msigLines (x : Core) (occ l n : Nat) : List Byte :=
  (List.range n).flatMap (fun i =>
    if l + i < Config.storeLines then lineBytes x (l + i)
    else (List.range 8).flatMap (fun j => leBytes 8 (Config.freeWord occ (8 * (l + i) + j)).toNat))

/-- One row of MSIG: its column sums, whether the check column differs, and whether a range check fails. -/
def msigRow (x : Core) (occ e al r : Nat) : List Int × Bool × Bool :=
  let g := engineAt x e
  let acts := (actRow g.activeWin (msigLines x occ (al + 2 * r) 2) []).1
  let q := rowSums g g.activeWin acts
  let total := q.sums.foldl (· + ·) 0
  (q.sums, !((q.check.add ⟨-total, winBase g.activeWin⟩).isZero), !q.ovf.isEmpty || q.sums.any (fun v => !(int64Ok v)))

def msigOp (c : Nat) (w : W128) (s : State) : State :=
  maintForm (rsvZero w 52) s c (fun s =>
    let e := bits w 94 2
    let n := bits w 86 8 + 1
    let wl := bits w 69 17
    let al := bits w 52 17
    let win := (engineAt (coreAt s c) e).shadowWin
    let nb := if fmtQuad (winWfmt win) then 8192 else 16384
    if fmtScaled (winWfmt win) || fmtScaled (winAfmt win) then setMstat s c 4
    else
      let occ := s.freeCtr
      let s := if Config.storeLines < wl + nb / 64 ∨ Config.storeLines < al + 2 * n then { s with freeCtr := occ + 1 } else s
      let s := updCore s c (fun x => updEngine x e Engine.emptyShadow)
      let bytes := msigLines (coreAt s c) occ wl (nb / 64)
      let len := rowBytes (winWfmt win)
      let s := forAll (List.range (nb / len)) s (fun s k =>
        let row := slice bytes (k * len) len
        fillRow (rowOperands s c e win row k) c e win row [] k)
      let s := updCore s c (fun x => updEngine x e swapEngine)
      let x := coreAt s c
      let rows := (List.range n).map (msigRow x occ e al)
      let sig := crc32c (rows.flatMap (fun q => q.1.flatMap (fun v => leBytes 8 (v % 2 ^ 64).toNat)))
      let s := setCore s c { x with mcrc := sig, mcnt := BitVec.ofNat 32 ((rows.filter (fun q => q.2.1)).length) }
      setMstat s c (if rows.any (fun q => q.2.2) then 5 else 0))

def msynOp (c : Nat) (w : W128) (s : State) : State :=
  maintForm (rsvZero w 87) s c (fun s =>
    let o := bits w 88 8
    let s := if bit w 87 then updCore s c (fun x =>
        let m := tget 0 x.mres 0
        let x := { x with badSync := x.badSync.filter (fun i => decide (i ≠ o)) }
        setSync x o ⟨if isFlag o then lo32 m &&& 1 else lo32 m, if isFlag o then (syncAt x o).thr else hi32 m⟩)
      else s
    let s := updCore s c (fun x =>
      let v := syncAt x o
      { x with mres := tset 0 x.mres 0 (join64 (if isFlag o then 0 else v.thr) v.val) })
    setMstat s c 0)

/-- NOP at the port: its operand bits must be zero (R117). -/
def nopMaint (c : Nat) (w : W128) (s : State) : State := maintForm (rsvZero w 96) s c (fun s => setMstat s c 0)

/-- The instruction that a word names at the maintenance port (R137). -/
def maintOp (c : Nat) (w : W128) (s : State) : State :=
  match wOp w with
  | 0x00 => nopMaint c w s
  | 0x20 => winMaint c w s
  | 0xE0 => mrdlOp c w s
  | 0xE1 => mwrlOp c w s
  | 0xE2 => mclrOp c w s
  | 0xE3 => mcrcOp c w s
  | 0xE4 => mtrbOp c w s
  | 0xE5 => mtwbOp c w s
  | 0xE6 => mmapOp c w s
  | 0xE7 => msigOp c w s
  | 0xE8 => msynOp c w s
  | _ => setMstat s c 4

/-- A write of MP_INSN3 launches the instruction that the four words hold (R345). -/
def maintLaunch (s : State) (c : Nat) : State :=
  let x := coreAt s c
  let w := BitVec.ofNat 128 ((List.range 4).foldl (fun a i => a + (tget 0 x.mpInsn i).toNat * 2 ^ (32 * i)) 0)
  maintPort s c w (maintOp c w)

/-- A maintenance instruction's command, of opcode `op`. -/
def atPort (op : Nat) (s : State) (c : Nat) (w : W128) (act : State → State) : State :=
  if enabledCore s c then maintPort s c w (if wOp w = op then act else fun s => setMstat s c 4) else s

def execMrdl (c : CoreId) (w : W128) (s : State) : Host.Outcome State Fault Refusal := plain s (fun s => atPort 0xE0 s c w (mrdlOp c w))
def execMwrl (c : CoreId) (w : W128) (s : State) : Host.Outcome State Fault Refusal := plain s (fun s => atPort 0xE1 s c w (mwrlOp c w))
def execMclr (c : CoreId) (w : W128) (s : State) : Host.Outcome State Fault Refusal := plain s (fun s => atPort 0xE2 s c w (mclrOp c w))
def execMcrc (c : CoreId) (w : W128) (s : State) : Host.Outcome State Fault Refusal := plain s (fun s => atPort 0xE3 s c w (mcrcOp c w))
def execMtrb (c : CoreId) (w : W128) (s : State) : Host.Outcome State Fault Refusal := plain s (fun s => atPort 0xE4 s c w (mtrbOp c w))
def execMtwb (c : CoreId) (w : W128) (s : State) : Host.Outcome State Fault Refusal := plain s (fun s => atPort 0xE5 s c w (mtwbOp c w))
def execMmap (c : CoreId) (w : W128) (s : State) : Host.Outcome State Fault Refusal := plain s (fun s => atPort 0xE6 s c w (mmapOp c w))
def execMsig (c : CoreId) (w : W128) (s : State) : Host.Outcome State Fault Refusal := plain s (fun s => atPort 0xE7 s c w (msigOp c w))
def execMsyn (c : CoreId) (w : W128) (s : State) : Host.Outcome State Fault Refusal := plain s (fun s => atPort 0xE8 s c w (msynOp c w))

/-- The instruction in progress completes: mstat is valid and BUSY falls (Table 4.22, Table 12.2). -/
def execMaintInsnComplete (c : CoreId) (s : State) : Host.Outcome State Fault Refusal :=
  plain s (fun s => match (coreAt s c).mnext with
    | some v => updCore s c (fun x => { x with mstat := v, mnext := none })
    | none => s)

end Sys2Proof.Machine
end

