-- ==== Sys2Proof/Machine/StoreEvents.lean ====
section
/-! DEFINITION. Events of a core's store: re-reads, arrivals, writes of sync objects from outside, gather flushes, ring writes and the
end of a clear (05). -/

namespace Sys2Proof.Machine

/-- The line of the local map that an operation has read under a name; none: the name is of something else. -/
def tagLine (o : Op) (tag : Nat) : Option Nat :=
  let scaleLine := (o.refills.find? (fun r => decide (r.engine = tag / 16))).map (fun r => r.sline + tag % 16 / 2)
  match o.unit with
  | .queueIn _ => let r := ldqRun o.word; some (r.l + (if r.trans then tag else r.stride * tag))
  | .copy => some (cpSrc o.word + tag)
  | .element =>
    if tag % 2 = 0 then (if ewAk o.word then none else some (ewA o.word + tag / 2)) else (if ewBk o.word then none else some (ewB o.word + tag / 2))
  | .pass _ => some tag
  | .tile => if 2 ^ 20 ≤ tag then some (tag - 2 ^ 20) else scaleLine
  | .tier => match o.prog with
    | .refill => scaleLine
    | .decode _ => none
    | _ => if wOp o.word = 0x12 then some (trLaddr o.word + tag) else none
  | _ => none

/-- A line that has failed twice was delivered as zero to the operations that hold it (R152). -/
def zeroLine (s : State) (c line : Nat) : State :=
  forAll (enabledCores s) s (fun s k =>
    let x := coreAt s k
    if x.ops.isEmpty then s
    else setCore s k { x with ops := x.ops.map (fun o => { o with
      lines := o.lines.map (fun p =>
        match tagLine o p.1 with
        | some l => if lineTarget s k l = some (c, line) then (p.1, 0) else p
        | none => p) }) })

/-- STORE_REREAD: a line that is already fenced is not read again (R153). -/
def storeRereadOp (s : State) (c line : Nat) (second scheduled : Bool) : State :=
  if !(enabledCore s c) ∨ Config.storeLines ≤ line ∨ (fenceOf (coreAt s c) line).isSome then s
  else lineReread (if second then s else zeroLine s c line) c line second scheduled

def execStoreReread (c : CoreId) (line : Nat) (secondMatches scheduled : Bool) (s : State) : Host.Outcome State Fault Refusal :=
  done s (fun s => storeRereadOp s c line secondMatches scheduled)

/-- What an operation of the core holds of tier block `blk` is replaced by zeros that were not delivered (R181). -/
def Op.zeroBlock (o : Op) (blk : Nat) : Op :=
  let zeros := List.replicate 512 (0 : Byte)
  let first := trTblk o.word
  match o.unit, o.prog with
  | .tier, .decode _ => { o with blks := o.blks.map (fun p => if first + p.1 = blk then (p.1, zeros, false) else p) }
  | .tier, .plain =>
    if wOp o.word = 0x11 ∧ first ≤ blk then { o with lines := o.lines.map (fun p => if p.1 / 8 = blk - first then (p.1, 0) else p) } else o
  | _, _ => { o with blks := o.blks.map (fun p => if p.1 / 256 % 2 ^ 20 + p.1 % 256 = blk then (p.1, zeros, false) else p) }

/-- TIER_REREAD: a block that is already fenced is not read again; one that fails twice was delivered as zeros (R181). -/
def tierRereadOp (s : State) (c blk : Nat) (second scheduled : Bool) : State :=
  if !(enabledCore s c) ∨ Config.columnBlocks ≤ blk ∨ (fenceEntry s.tiers c blk).isSome then s
  else
    let s := if second then s else updCore s c (fun x => { x with ops := x.ops.map (fun o => o.zeroBlock blk) })
    blockReread s c blk second scheduled

def execTierReread (c : CoreId) (blk : Nat) (secondMatches scheduled : Bool) (s : State) : Host.Outcome State Fault Refusal :=
  done s (fun s => tierRereadOp s c blk secondMatches scheduled)

/-- The arrival step ends the ac: what is due by its end, and at most 4 arrivals in order of completion, take effect together (R116, R155). -/
def arrivalStep (s : State) (c : Nat) : State := effectsEnd (clk s c) s c

def execArrival (c : CoreId) (s : State) : Host.Outcome State Fault Refusal := done s (fun s => arrivalStep s c)

/-- Who may write SYNC_VAL and SYNC_THR (R170): the service complex, and messages and DMA of the core's own context. -/
def mayWriteSync (s : State) (rq : Requester) (c : Nat) : Bool :=
  match rq with
  | .host _ => false
  | .service => true
  | .message k => decide (ctxOfCore s c = some k.val)

def syncWriteOp (s : State) (rq : Requester) (c off : Nat) (v : W32) : State :=
  if enabledCore s c && mayWriteSync s rq c && isSyncWord off && decide (off % 4 = 0) then (writeSync s c off v).1 else s

def execSyncObjectWrite (rq : Requester) (c : CoreId) (off : Nat) (val : W32) (s : State) : Host.Outcome State Fault Refusal :=
  done s (fun s => syncWriteOp s rq c off val)

/-- CNT_CLEAR: the engines' counts and both high-water fields return to what is in use (Table 5.10). -/
def clearCoreCounts (x : Core) : Core :=
  let x := [0, 1, 2, 3].foldl (fun (x : Core) (e : Nat) => updEngine x e (fun g => { g with satCount := 0, rampShort := 0 })) x
  { x with sbHigh := sbUsed x, gatherHigh := x.gather.length }

def coreCntClearOp (s : State) (rq : Requester) (c : Nat) (v : W32) : State :=
  if enabledCore s c && decide (rq = .service) && bit v 0 then updCore s c clearCoreCounts else s

def execCoreCntClear (rq : Requester) (c : CoreId) (val : W32) (s : State) : Host.Outcome State Fault Refusal :=
  plain s (fun s => coreCntClearOp s rq c val)

/-- An entry that has met its trigger of Table 5.6 is flushed (R159). -/
def gatherFlushOp (s : State) (c i : Nat) : State :=
  match gatherAt (coreAt s c) i with
  | some e => if flushDue e then flushEntry s c i else s
  | none => s

/-- GATHER_FLUSH of an entry (R159). -/
def execGatherFlush (c : CoreId) (i : Fin 16) (s : State) : Host.Outcome State Fault Refusal := done s (fun s => gatherFlushOp s c i)

/-- 32 ac, in time units at the stretch level in force. -/
def gatherWait (s : State) : Nat := 32 * acUnits s.lock.level

/-- 32 ac without a new store flush an entry that holds only service-complex bytes (Table 5.6): the rest of the 32 ac passes first. -/
def gatherIdle (s : State) (c i : Nat) : State :=
  match gatherAt (coreAt s c) i with
  | some e =>
    if e.svc && !e.other then
      let s := tickUntil 32 s (fun s => decide (e.at_ + gatherWait s ≤ s.now))
      if e.at_ + gatherWait s ≤ s.now ∧ gatherAt (coreAt s c) i = some e then flushEntry s c i else s
    else s
  | none => s

def execGatherIdleTimeout (c : CoreId) (i : Fin 16) (s : State) : Host.Outcome State Fault Refusal := done s (fun s => gatherIdle s c i)

/-- A fence request flushes every entry that holds service-complex bytes (Table 5.6). -/
def gatherFence (s : State) (c : Nat) : State :=
  forAll (List.range 16) s (fun s i => match gatherAt (coreAt s c) i with
    | some e => if e.svc then flushEntry s c i else s
    | none => s)

def execGatherFenceRequest (c : CoreId) (s : State) : Host.Outcome State Fault Refusal := done s (fun s => gatherFence s c)

/-- A held ring write goes on once a slot is released (R162). -/
def execRingWriteResume (c : CoreId) (r : Fin 16) (s : State) : Host.Outcome State Fault Refusal := done s (fun s => ringResume s c r)

/-- Every line is zero with a valid CRC (R169). -/
def clearStore (x : Core) : Core := { x with clearing := false, store := [], lcrc := [], fences := [], unfenced := [] }

def execStoreClearDone (c : CoreId) (s : State) : Host.Outcome State Fault Refusal :=
  plain s (fun s => if enabledCore s c && (coreAt s c).clearing then updCore s c clearStore else s)

end Sys2Proof.Machine
end

