-- ==== Sys2Proof/Machine/TierEvents.lean ====
section
/-! DEFINITION. Events of the tiers: the boundary-wait queue, weak entries, scrub, substitutions and the clear of counters (06). -/

namespace Sys2Proof.Machine

/-- The tier unit takes one operation of the queue while the core is in the boundary wait or in maintenance mode (R185). -/
def boundaryQueueStep (s : State) (c : Nat) : State :=
  let x := coreAt s c
  if x.boundary || x.maint || x.barred then
    match x.bq with
    | o :: rest => boundaryOp (setCore s c (refillBq { x with bq := rest })) c o
    | [] => s
  else s

def execBoundaryQueueOp (c : CoreId) (s : State) : Host.Outcome State Fault Refusal := done s (fun s => boundaryQueueStep s c)

/-- The physical block that a location names: where a column block lives, or the slice or spare block itself (R172, R189). -/
def locBlock (s : State) (l : BlockLoc) : Nat :=
  match l with
  | .column c b => resolve s c b
  | .slice c t b => slicePb c t b
  | .spare t b => sparePb t b

/-- A weak entry expires WINDOW hours after its first re-read (R187). -/
def weakExpire (s : State) (l : BlockLoc) : State :=
  updTiers s (fun t => { t with weak := t.weak.filter (fun (e : WeakEnt) => weakLive s e || decide (e.loc ≠ locBlock s l)) })

def execWeakEntryExpiry (loc : BlockLoc) (s : State) : Host.Outcome State Fault Refusal := plain s (fun s => weakExpire s loc)

/-- The native core whose column has the slice of core `c` in tier `t`; none: the slice is another's, or nobody's (R174). -/
def nativeOf (s : State) (c t : Nat) : Option Nat :=
  match (List.range 16).findSome? (fun i =>
    let w := tget 0 s.tiers.subs i
    if bit w 31 && decide (bits w 16 2 = t) && decide (bits w 0 7 = c) then some (bits w 8 7) else none) with
  | some n => some n
  | none => if enabledCore s c && (substituteOf s c t).isNone then some c else none

/-- The column block that a physical block serves: a spare in use, or a slice block that is not remapped. -/
def ownerOf (s : State) (pb : Nat) : Option (Nat × Nat) :=
  if spareBase ≤ pb then
    (s.tiers.remap.find? (fun (p : Nat × Nat) => decide (p.2 = pb + 1))).map (fun p => (p.1 / Config.columnBlocks, p.1 % Config.columnBlocks))
  else
    let t := tierOfPb pb
    (nativeOf s (pb / Config.columnBlocks) t).bind (fun c =>
      let b := pb % Config.sliceBlocks * 4 + t
      if tget 0 s.tiers.remap (remapKey c b) = 0 then some (c, b) else none)

/-- Time units of one second. -/
def unitsPerS : Nat := 2400000000 * Config.unitsPerSc

/-- Substitutions in force. -/
def subWords (s : State) : List W32 := ((List.range 16).map (fun i => tget 0 s.tiers.subs i)).filter (fun w => bit w 31)

/-- A slice that a substitution names: as the native one or as the substitute (R174). -/
def sliceNamed (s : State) (c t : Nat) : Bool :=
  (subWords s).any (fun w => decide (bits w 16 2 = t) && (decide (bits w 8 7 = c) || decide (bits w 0 7 = c)))

/-- Blocks that a sweep reads, each once: the slice blocks in use by columns, every block of the slices that substitutions name, and every
spare (R189). -/
def sweepBlocks (s : State) : Nat :=
  let n := (subWords s).length
  let moved := s.tiers.remap.filter (fun (p : Nat × Nat) =>
    enabledCore s (p.1 / Config.columnBlocks) && (substituteOf s (p.1 / Config.columnBlocks) (p.1 % 4)).isNone)
  (4 * coreCount s + n) * Config.sliceBlocks - moved.length + 4 * Config.spareBlocks

/-- The end of a sweep: the next period, and SCRUB_LATE (R189, R190, Table 6.6). -/
def sweepEnd (s : State) : State :=
  let t := s.tiers
  let clean := decide (t.sweepRereads = 0) && !t.sweepBad
  let run := if clean then t.cleanSweeps + 1 else 0
  let p := t.scrubPeriod.toNat
  let next := if t.sweepBad ∨ bits t.scrubCfg 0 8 ≤ t.sweepRereads then max (p / 2) t.scrubMin.toNat
    else if 4 ≤ run then min (p * 2) t.scrubMax.toNat else p
  let late := decide (p * unitsPerS * 11 < (s.now - t.sweepAt) * 10)
  let s := updTiers s (fun t => { t with
    scrubPeriod := BitVec.ofNat 32 next, scrubSweeps := t.scrubSweeps + 1, sweepRereads := 0, sweepBad := false, cleanSweeps := run,
    sweepSeen := [], sweepAt := s.now })
  if late then setTirStatus s 8 else s

/-- A persistent failure that a scrub read finds: the block is fenced and reported, and withholds nothing (R189); an unused spare is
marked bad (R188). -/
def scrubFail (s : State) (l : BlockLoc) : State :=
  let s := updTiers s (fun t => { t with sweepBad := true })
  let fence (s : State) (c b : Nat) : State :=
    if (fenceEntry s.tiers c b).isSome then s
    else raise (fenceBlock s c b) 8 [] 0 (logicalOf s c) ((ctxOfCore s c).getD 0) (c * 2 ^ 37 + b * 2 ^ 18)
  match ownerOf s (locBlock s l), l with
  | some (c, b), _ => fence s c b
  | none, .spare t b =>
    updTiers s (fun x => setSpare { x with standby := x.standby.filter (fun (p : Nat × Nat) => decide (¬ (p.1 % 4 = t.val ∧ p.2 = b + 1))) } t b 2)
  | none, _ => s

/-- A location that a sweep reads (R189). -/
def locOk (s : State) (l : BlockLoc) : Bool :=
  match l with
  | .column c b => enabledCore s c && decide (b < Config.columnBlocks)
  | .slice c t b => sliceNamed s c t && decide (b < Config.sliceBlocks)
  | .spare _ b => decide (b < Config.spareBlocks)

def scrubStep (s : State) (l : BlockLoc) (res : ReadResult) : State :=
  if !(bit s.tiers.ctrl 0) ∨ !(locOk s l) then s
  else
    let pb := locBlock s l
    let owner := ownerOf s pb
    let fenced := match owner with | some (c, b) => (fenceEntry s.tiers c b).isSome | none => false
    let bad := decide (tget 0 s.tiers.crc pb ≠ 0)
    let s :=
      if fenced then s
      else if bad || decide (res = .persistent) then scrubFail s l
      else match res with
        | .reread => weakHit (updTiers s (fun t => { t with sweepRereads := t.sweepRereads + 1 })) owner pb
        | _ => s
    let s := updTiers s (fun t => { t with sweepSeen := if pb ∈ t.sweepSeen then t.sweepSeen else pb :: t.sweepSeen })
    if sweepBlocks s ≤ s.tiers.sweepSeen.length then sweepEnd s else s

def execScrubRead (loc : BlockLoc) (res : ReadResult) (s : State) : Host.Outcome State Fault Refusal :=
  plain s (fun s => scrubStep s loc res)

/-- A substitution entry (Table 6.9, TIR_SUB). -/
def subWord (native tier sub : Nat) : W32 := BitVec.ofNat 32 (2 ^ 31 + tier * 2 ^ 16 + native * 2 ^ 8 + sub)

/-- The rules of R174 for a new entry. -/
def subOk (s : State) (native nt sub st : Nat) : Bool :=
  enabledCore s native && !(enabledCore s sub) && decide (nt = st) &&
  (List.range 16).all (fun i =>
    let w := tget 0 s.tiers.subs i
    !(bit w 31) || (!(decide (bits w 16 2 = nt) && decide (bits w 8 7 = native)) && !(decide (bits w 16 2 = st) && decide (bits w 0 7 = sub))))

/-- Add a substitution entry while there is a free place. -/
def addSub (s : State) (native nt sub st : Nat) : State :=
  match (List.range 16).find? (fun i => !(bit (tget 0 s.tiers.subs i) 31)) with
  | some i => if subOk s native nt sub st then updTiers s (fun t => { t with subs := tset 0 t.subs i (subWord native nt sub) }.keep) else s
  | none => s

/-- Firmware adds an entry while the affected core is in maintenance mode (R174). -/
def execSliceSubstitutionAdd (native : CoreId) (nativeTier : TierId) (sub : CoreId) (subTier : TierId) (s : State) :
    Host.Outcome State Fault Refusal :=
  plain s (fun s => if (coreAt s native).maint then addSub s native nativeTier sub subTier else s)

/-- TIR_CLEAR: every counter of the block and the weak list (Table 6.9). -/
def clearTir (t : Tiers) : Tiers :=
  { t with scrubSweeps := 0, rereads := 0, fences := 0, retiredN := 0, repaired := 0, heldN := [], codecFaults := 0, weak := [] }

def execTirClear (fn : FnId) (val : W32) (s : State) : Host.Outcome State Fault Refusal :=
  plain s (fun s => if isSteward s fn && bit val 0 then updTiers s clearTir else s)

end Sys2Proof.Machine
end

