-- ==== Sys2Proof/Machine/Mesh.lean ====
section
/-! DEFINITION. The mesh's commands: flits, seams, outputs, commits and the parity sweep (08, R374). -/

namespace Sys2Proof.Machine

/-- A flit that comes in on an input is off its link, where it stands next there (R216). -/
def takeLink (s : State) (r inp : Nat) (f : MeshFlit) : State :=
  match linkEnd r inp with
  | some (n, o) => updRouter s n (fun x => { x with link := tupd [] x.link o (fun l => if l.head? = some f then l.tail else l) })
  | none => s

/-- A flit comes in on an input that exists (R215). A core router that stands still takes none, and a selvedge router keeps in its buffers
what it takes (R220). -/
def flitComes (s : State) (r inp : Nat) (f : MeshFlit) : State :=
  if !(routerExists s r) ∨ !(portLeads s r inp) ∨ (r < 72 ∧ meshStopped s) then s
  else routerReceive (takeLink s r inp f) r inp f

def execFlitReceive (r : RouterId) (inp : RPort) (f : MeshFlit) (s : State) : Host.Outcome State Fault Refusal :=
  done s (fun s => flitComes s r inp f)

/-- Seams lie in core routers (R235). -/
def execSeamResult (r : RouterId) (seam : Fin 64) (s : State) : Host.Outcome State Fault Refusal :=
  done s (fun s => if enabledCore s r then seamResult s r seam else s)

def execRouterOutputSend (r : RouterId) (out : RPort) (s : State) : Host.Outcome State Fault Refusal :=
  done s (fun s => if routerExists s r then outputSend s r out else s)

/-- WEFT_EN and CTX of RTR_CTRL. -/
def takeRtrCtrl (r : Nat) (s : State) (v : W32) : State := updRouter s r (fun x => { x with ctrl := v })

/-- A write of RTR_CTRL: WEFT_EN and CTX, and the commit at the next tempo edge (R47, R231, Table 8.11). -/
def writeRtrCtrl (s : State) (r : Nat) (v : W32) : State :=
  let s := accept s (.rtrCtrl r) (BitVec.ofNat 32 (bits v 0 1 + bits v 2 4 * 4)) (takeRtrCtrl r)
  updRouter s r (fun x => { x with commitDue := x.commitDue || bit v 1 })

def execRtrCommit (r : RouterId) (val : W32) (s : State) : Host.Outcome State Fault Refusal :=
  plain s (fun s => if routerExists s r then writeRtrCtrl s r val else s)

/-- The staged entries of the context that CTX names replace its active ones; routing entries have no context (R231). The entries are written
afresh, with good parity (assumption log 64). -/
def commitRouter (x : Router) : Router :=
  let k := bits x.ctrl 2 4
  let seamOf (t : Tbl W32) (i : Nat) : Option Nat :=
    (t.find? (fun (p : Nat × W32) => bit p.2 31 && bit p.2 30 && decide (bits p.2 9 6 = i))).map (fun p => bits p.2 26 4)
  let mine (e : W32) : Bool := decide (bits e 26 4 = k)
  let stream := (List.range 1024).foldl (fun (t : Tbl W32) i =>
    let old := tget 0 x.stream i
    let new := tget 0 x.streamStaged i
    if bit new 31 && mine new then tset 0 t i new else if bit old 31 && mine old then tset 0 t i 0 else t) x.stream
  let seam := (List.range 64).foldl (fun (t : Tbl W64) i =>
    if seamOf x.streamStaged i = some k then tset 0 t i (tget 0 x.seamStaged i)
    else if seamOf x.stream i = some k then tset 0 t i 0 else t) x.seam
  let own (y : Router) (e : W64) : Bool := decide (streamCtx y (bits e 0 10) = k)
  let staged : Router := { x with stream := x.streamStaged, seam := x.seamStaged }
  let fresh (o : Nat) : List W64 := (slotEntries { x with slot := x.slotStaged } o).filter (own staged)
  let kept (o : Nat) : List W64 := (slotEntries x o).filter (fun e => !(own x e))
  let merge (o : Nat) : List W64 := ((kept o ++ fresh o).mergeSort (fun a b => decide (bits a 40 24 ≤ bits b 40 24)))
  let slot := (List.range 8).foldl (fun (t : Tbl W64) o =>
    (merge o).zipIdx.foldl (fun (t : Tbl W64) p => tset 0 t (o * 4096 + p.2) p.1) t) []
  { x with stream := stream, seam := seam, slot := slot, route := x.routeStaged, commitDue := false, bad := [] }

/-- RTR_CLEAR: the counters and RTR_FREE_WAIT_MAX (Table 8.11). -/
def clearRouter (x : Router) : Router := { x with crcCount := 0, strayCount := 0, seamFaults := 0, freeWaitMax := 0, slotLent := 0 }

def execRtrClear (r : RouterId) (val : W32) (s : State) : Host.Outcome State Fault Refusal :=
  plain s (fun s => if routerExists s r && bit val 0 then updRouter s r clearRouter else s)

/-- What a parity error of a core's own structures leaves: a word handled as malformed, a window or accumulator entry of zero, data replaced by
zeros, a sync object that keeps its value (Table 13.2; numbers of entries: assumption log 64). -/
def coreParity (x : Core) (row e : Nat) : Core :=
  let zero (q : Tbl (List QEntry)) : Tbl (List QEntry) :=
    tupd [] q (e / 256 % 4) (fun l => l.modify (e % 256) (fun d => { d with data := 0 }))
  if row = 0 then
    if e % 2 = 0 then { x with a := { x.a with bad := e / 2 :: x.a.bad } } else { x with x := { x.x with bad := e / 2 :: x.x.bad } }
  else if row = 1 then updEngine x (e / 2) (fun g => if e % 2 = 0 then { g with activeWin := 0 } else { g with shadowWin := 0 })
  else if row = 2 then updEngine x (e / 32768) (fun g => { g with acc := tupd {} g.acc (e % 32768) (fun v => { v with v := 0 }) })
  else if row = 3 then
    if e < 16 then { x with gather := tupd none x.gather e (fun g => g.map (fun g => { g with data := 0 })) }
    else if e < 2048 then { x with qin := zero x.qin } else { x with qout := zero x.qout }
  else if row = 4 then { x with badSync := if x.badSync.contains e then x.badSync else e :: x.badSync }
  else x

/-- The structures that hold an entry with bad parity. -/
def parityMark (s : State) (h : ParityHit) : State :=
  let row := h.structureNo.val
  if row < 5 then
    match physicalOf s h.srcIndex.toNat with | some c => updCore s c (fun x => coreParity x row h.entry) | none => s
  else if row = 5 then
    if h.srcIndex.toNat < 88 then updRouter s h.srcIndex.toNat (fun x => { x with
      bad := if x.bad.contains h.entry then x.bad else x.bad ++ [h.entry] }) else s
  else if row = 6 then updFab s (fun f => { f with bad := h.entry :: f.bad })
  else if row = 7 then
    match (if h.entry < 2 ^ 19 then (physicalOf s h.srcIndex.toNat).map (fun c => remapKey c h.entry)
      else if h.entry < 2 ^ 20 then some (2 ^ 32 + (h.entry - 2 ^ 19)) else some (2 ^ 33 + (h.entry - 2 ^ 20))) with
    | some e => updTiers s (fun t => { t with bad := e :: t.bad })
    | none => s
  else s

/-- A parity error that a sweep finds: fault 0x11 in the scope of Table 13.2; the route table, fabric slots, and remap, substitution
and fence entries withhold the module. What the entry governs follows Table 13.2 from then on. -/
def parityHit (s : State) (h : ParityHit) : State :=
  let scope := if h.structureNo = 6 ∨ h.structureNo = 7 then moduleScope s else [h.ctx.val]
  let s := if h.srcKind = 1 ∧ h.srcIndex.toNat < 88 then updRouter s h.srcIndex.toNat (fun x => { x with
      status := orBit x.status 1 })
    else s
  let s := parityMark s h
  raise s 0x11 scope h.srcKind h.srcIndex.toNat h.ctx ((h.structureNo.val + 1) * 2 ^ 40 + h.entry % 2 ^ 16 * 2 ^ 24)

def execParitySweep (hits : List ParityHit) (s : State) : Host.Outcome State Fault Refusal :=
  plain s (fun s => forAll hits s parityHit)

end Sys2Proof.Machine
end

