-- ==== Sys2Proof/Machine/Link.lean ====
section
/-! DEFINITION. The link layer of a fabric port, ports going down and coming up, the opening, and what sequenced flits do (09). -/

namespace Sys2Proof.Machine

/-! ### Sending -/

/-- The CRC-32 of an HL3 flit: over its link header and its payload (R241, Table 9.2). -/
def linkCrc (typ : BitVec 4) (seq dest : BitVec 12) (side : W64) (payload : Flit256) : W32 :=
  crc32 (leBytes 2 (typ.toNat * 4096 + seq.toNat) ++ leBytes 2 dest.toNat ++ leBytes 8 side.toNat ++ leBytes 256 payload.toNat)

/-- A flit leaves on a port, its CRC computed as it goes. -/
def emit (s : State) (p : Nat) (f : Frame) : State :=
  { s with wire := s.wire ++ [.frame (Fin.ofNat 16 p) f (linkCrc f.typ f.seq f.dest f.side f.payload)] }

def gapSeq (a b : BitVec 12) : Nat := (a - b).toNat

/-- An ACK's payload: cumulative number, NAKed numbers, returned credits (assumption log 9). -/
def ackPayload (upTo : BitVec 12) (naks : List (BitVec 12)) (credits : Nat) : Nat :=
  leNat (leBytes 2 upTo.toNat ++ leBytes 2 credits ++ leBytes 4 naks.length ++ (naks.take 32).flatMap (fun n => leBytes 2 n.toNat))

/-- Flits in the ingress buffer of a port: of messages that are not whole yet, and what its selvedge router has taken in there and not sent on
(R233). -/
def ingressUsed (s : State) (p : Nat) : Nat :=
  let y := routerAt s (72 + p)
  (portAt s p).rxFlits.length + (y.free.filter (fun f => decide (f.inp = 0))).length + (y.weft.filter (fun f => decide (f.inp = 0))).length

/-- Acknowledge what has been delivered, and NAK the numbers given (R243); credit goes back unless fewer than 256 of the 2,048 ingress entries are
free (R233, R245). -/
def sendAck (s : State) (p : Nat) (naks : List (BitVec 12)) : State :=
  let x := portAt s p
  let back := if 2048 < ingressUsed s p + 256 then 0 else x.owed
  sendControl (updPort s p (fun x => { x with unacked := 0, owed := x.owed - back })) p 1 (ackPayload (x.rxSeq - 1) naks back)

/-- MODULE's part in the wiring rules: slot and board (FAB_BOARD). -/
def ownBoard (s : State) : W16 := BitVec.ofNat 16 (bits s.fab.board 16 16)
def ownSlot (s : State) : Nat := bits s.fab.board 0 3

/-- The fields by which a module names itself in an IDENT frame (R252, assumption log 9). -/
def identBytes (serial : W64) (board : W16) (slot port gen chip : Nat) : List Byte :=
  leBytes 8 serial.toNat ++ leBytes 2 board.toNat ++ leBytes 1 slot ++ leBytes 1 port ++ leBytes 1 gen ++ leBytes 2 chip

/-- An IDENT frame's payload: the module's own fields, those of the last IDENT frame received, and the times of its receipt and of this sending in sc
(R252, assumption log 9). -/
def identPayload (s : State) (p : Nat) : Nat :=
  let x := portAt s p
  let own := identBytes s.card.serial (ownBoard s) (ownSlot s) p x.gen.toNat (ownChip s)
  let echo := match x.lastIdent with
    | some (f, t) => leBytes 1 1 ++ identBytes f.serial f.board f.slot.toNat f.port.toNat f.gen.toNat f.chip.toNat ++ leBytes 8 t
    | none => List.replicate 24 0
  leNat (own ++ echo ++ leBytes 8 (nowSc s))

def sendIdent (s : State) (p : Nat) : State := sendControl s p 4 (identPayload s p)

/-! ### Ports down and up (R240, R246) -/

def genMax (x : Port) : Nat := bits x.ctrl.eff 4 2

/-- A port event of KIND 0x02, after the opening has ended (R252, R330), and its trace record. -/
def portEvent (s : State) (p : Nat) (up : Bool) : State :=
  let arg := p + b2n up * 2 ^ 31
  let s := if s.fab.openingDone then postSteward s 2 0 0 arg 0 else s
  trace s 5 0xFF arg 0

/-- The messages with a flit in the retry buffer. -/
def retryMsgs (x : Port) : List (W64 × W32) :=
  x.txSrc.foldl (fun l e => if (e.2.1, e.2.2) ∈ l then l else l ++ [(e.2.1, e.2.2)]) []

/-- A port goes down: out of routing, status 0x1 for the messages in its retry buffer, PORT_DOWN and the steward's interrupt; then it
retrains by itself where GEN_MAX allows (R240, R246). -/
def portDown (s : State) (p : Nat) : State :=
  let x := portAt s p
  if x.st < 2 ∨ 6 ≤ x.st then s
  else
    let s := setPort s p { x with
      st := (if genMax x = 0 then 6 else 1), gen := 0, recorded := false, downs := satAdd x.downs 1, long := false
      txSeq := 0, rxSeq := 0, retry := [], naks := [], resend := [], reorder := [], unacked := 0, control := [], txSrc := [], txHdr := []
      txChip := [], owed := 0, legacyOut := [], rxFlits := [], lastIdent := none, credit := 0, idle := 0 }
    let s := portEvent (setFabStatus s 1) p false
    forAll (retryMsgs x) s (fun s m => settleOne s ⟨m.1, m.2, 1, 0xFF⟩)

/-- A port that comes up: PORT_UP and its event (R252). -/
def portComesUp (s : State) (p : Nat) : State := portEvent (setFabStatus s 2) p true

/-- The flits that wait at a port's egress leave it: the rest of a message that has begun ends with status 0x1, as does a message with no up port;
the others go to the port that their route now gives (R253, R255). -/
def rerouteOut (s : State) (p : Nat) : State :=
  let x := portAt s p
  let fs := x.heldOut.filter (fun o => !(sideWeft o.flit.side)) ++ x.freeOut
  let s := setPort s p { x with freeOut := [], heldOut := x.heldOut.filter (fun o => sideWeft o.flit.side), txHdr := x.txHdr.filter (fun e => decide (8 ≤ e.1)) }
  let lost (s : State) (m : W64 × W32) : State := settleOne s ⟨m.1, m.2, 1, 0xFF⟩
  let begun := (fs.filter (fun o => decide (sideSeq o.flit.side ≠ 0))).map (fun o => sideVc o.flit.side * 4 + sideCls o.flit.side)
  let first := (List.range 8).filter (fun k => begun.contains k && (match fs.find? (fun o => decide (sideVc o.flit.side * 4 + sideCls o.flit.side = k)) with
    | some o => decide (sideSeq o.flit.side ≠ 0) | none => false))
  let s := forAll first s (fun s k => lost s (tget (0, 0) x.txHdr k))
  (fs.foldl (fun (a : State × Tbl Nat) o =>
    let k := sideVc o.flit.side * 4 + sideCls o.flit.side
    let put (s : State) (q : Nat) : State :=
      queueOut s q [{ o with flit := meshFlit o.flit.payload (setBits o.flit.side 50 7 (72 + q)) }]
    if sideSeq o.flit.side = 0 then
      let h := Hdr.parse (leBytes 256 o.flit.payload.toNat)
      match routePort a.1 o.chip.toNat (gaChip h.saddr) (gaCore h.saddr) h.msgid.toNat with
      | some q => (put a.1 q, tset 0 a.2 k (q + 1))
      | none => (lost a.1 (h.saddr, h.msgid), tset 0 a.2 k 0)
    else match tget 0 a.2 k with
      | q + 1 => (put a.1 q, a.2)
      | 0 => a) (s, [])).1

/-- GEN_MAX, ENABLE and OPPOSITION of a port take effect (R240, R253). -/
def applyPortCtrl (s : State) (p : Nat) : State :=
  let x := portAt s p
  let was := portIsUp x
  let s := setPort s p { x with ctrl := { x.ctrl with eff := x.ctrl.acc } }
  let s := if !(portOpp x) && portOpp (portAt s p) then rerouteOut s p else s
  let x := portAt s p
  let s :=
    if genMax x < x.gen.toNat then portDown s p
    else if genMax x = 0 then updPort s p (fun x => { x with st := 6 })
    else if x.st = 6 then updPort s p (fun x => { x with st := 1 })
    else s
  let y := portAt s p
  if was && !(portIsUp y) && decide (y.st = 4) then portEvent (setFabStatus s 1) p false
  else if !was && portIsUp y then portComesUp s p else s

/-- The module takes its ports out of the domain, as a module in reset would (R61, R372). -/
def exitDomain (s : State) : State :=
  let s := forAll (List.range 16) s portDown
  forAll (List.range 16) s (fun s p => updPort s p (fun x => { x with st := 0 }))

/-! ### The opening (R252) -/

/-- The opening ends once no port is still waiting for its neighbour: OPENING_DONE in GLB_BOOT and in FAB_STATUS, and the KIND 0x07 event. -/
def openingCheck (s : State) : State :=
  if bit s.fab.ctrl 1 && s.svc.released && !s.fab.openingDone && (List.range 16).all (fun p => let x := portAt s p; !(decide (x.st = 2) || decide (x.st = 3))) then
    let s := updGlb s (fun g => { g with boot := orBit g.boot 4 })
    postSteward (setFabStatus (updFab s (fun f => { f with openingDone := true })) 0) 7 0 0 0 0
  else s

/-- A trained port begins its opening once firmware runs and the steward has set OPEN (Table 9.14). -/
def beginOpening (s : State) (p : Nat) : State :=
  if bit s.fab.ctrl 1 && s.svc.released && decide ((portAt s p).st = 2) && !(portOpp (portAt s p)) then
    sendIdent (updPort s p (fun x => { x with st := 3 })) p
  else s

/-- The neighbour breaks the wiring rules (R250 to R252). -/
def miswired (s : State) (p : Nat) (f : Ident) : Bool :=
  if p < 7 then decide (f.board ≠ ownBoard s) || decide (f.slot.toNat ≠ ownSlot s ^^^ (p + 1)) || decide (f.port.toNat ≠ p)
  else decide (f.board = ownBoard s)

/-- The neighbour's record. -/
def recordNeigh (x : Port) (f : Ident) : Port :=
  { x with
    neighBoard := f.board, neighSlot := f.slot, neighGen := f.gen, neighPort := f.port, neighChip := f.chip, neighSerial := f.serial
    phase := BitVec.ofInt 32 f.pulseDiffNs, recorded := true }

/-- The link round trip from an echo, in sc: half of it is the latency; above 160 ns the port is LONG (R244, R252). HL1 measures none. -/
def recordLat (x : Port) (f : Ident) (now : Nat) : Port :=
  if f.echoed ∧ x.gen ≠ 1 then
    let rt := now - f.echoSent - (f.echoBack - f.echoRecv)
    { x with lat := BitVec.ofNat 16 (min (rt / 2) 65535), long := decide (384 < rt) }
  else x

/-- The identity recorded at the opening has changed (R246). -/
def otherNeighbour (x : Port) (f : Ident) : Bool :=
  decide (f.serial ≠ x.neighSerial) || decide (f.port ≠ x.neighPort) || decide (f.board ≠ x.neighBoard) || decide (f.slot ≠ x.neighSlot)

/-- An IDENT frame counts from the start of the port's own opening on; one without an echo of this end's is answered (R252). -/
def identArrive (s : State) (p : Nat) (f : Ident) : State :=
  let x := portAt s p
  if x.st < 3 ∨ 6 ≤ x.st ∨ portOpp x then s
  else if x.recorded && otherNeighbour x f then portDown s p
  else
    let s := updPort s p (fun x => recordLat (recordNeigh { x with lastIdent := some (f, nowSc s) } f) f (nowSc s))
    let s := if f.echoed then s else sendIdent s p
    if x.st = 3 then
      if miswired s p f then openingCheck (setFabStatus (updPort s p (fun x => { x with st := 5 })) 3)
      else
        let s := updPort s p (fun x => { x with st := 4 })
        let s := if portIsUp (portAt s p) then portComesUp s p else s
        openingCheck s
    else s

/-! ### Egress (R244, R266, R267) -/

def sequenced (t : Nat) : Bool := decide (t = 0) || (decide (5 ≤ t) && decide (t ≤ 0xA))

/-- Send a frame with the next link sequence number, kept until it is acknowledged; older generations have their own link layers. -/
def sendSeq (s : State) (p : Nat) (f : Frame) (src : Option (W64 × W32)) : State :=
  let x := portAt s p
  let f := { f with seq := x.txSeq }
  let s := setPort s p { x with
    txSeq := x.txSeq + 1, retry := x.retry ++ [f], txSrc := match src with | some m => x.txSrc ++ [(f.seq, m.1, m.2)] | none => x.txSrc }
  emit s p f

def dataFrame (o : OutFlit) : Frame := ⟨0, 0, o.chip, o.flit.side, o.flit.payload⟩

/-- The slot entry in effect of a stream on a port. -/
def slotEntry (s : State) (p ctx stream : Nat) : Option Nat :=
  (List.range 256).find? (fun i =>
    let e := tget 0 s.fab.slot (p * 256 + i)
    bit e 31 && decide (bits e 27 4 = ctx) && decide (bits e 17 10 = stream))

/-- That entry has bad parity. -/
def slotBad (s : State) (p ctx stream : Nat) : Bool :=
  match slotEntry s p ctx stream with | some i => s.fab.bad.contains (4096 + 256 * p + i) | none => false

/-- Flits per frame that a stream may use on a port; an entry with bad parity is not used (R374). -/
def slotFlits (s : State) (p ctx stream : Nat) : Option Nat :=
  if slotBad s p ctx stream then none else (slotEntry s p ctx stream).map (fun i => bits (tget 0 s.fab.slot (p * 256 + i)) 7 10 + 1)

/-- Key of `frameUse` that counts the flit times of the frame. -/
def frameClock : Nat := 65536

/-- One flit time passes; after 1,024 the frame begins anew. -/
def flitTime (x : Port) : Port :=
  let n := tget 0 x.frameUse frameClock + 1
  if 1024 ≤ n then { x with frameUse := [] } else { x with frameUse := tset 0 x.frameUse frameClock n }

def quotaFault (s : State) (p ctx : Nat) : State := raise (setFabStatus s 6) 0x16 [ctx] 2 p ctx (p * 2 ^ 40)

/-- The weft flit that goes next: its stream has flits left in the frame, streams in round-robin order. -/
def weftPick (s : State) (p : Nat) : Option Nat :=
  let x := portAt s p
  let cand := x.weftOut.zipIdx.filter (fun (o : OutFlit × Nat) =>
    let st := sideStream o.1.flit.side
    match slotFlits s p (sideCtx o.1.flit.side) st with
    | some n => decide (tget 0 x.frameUse (sideCtx o.1.flit.side * 1024 + st) < n)
    | none => false)
  let rank (o : OutFlit × Nat) : Nat := (sideStream o.1.flit.side + 1023 - x.lastStream) % 1024
  match cand with
  | [] => none
  | c :: cs => some (cs.foldl (fun b o => if rank o < rank b then o else b) c).2

/-- The free flits of an egress with the source address of each one's message, in order. -/
def outSources (x : Port) : List (OutFlit × W64) :=
  ((x.freeOut.foldl (fun (a : List (OutFlit × W64) × Tbl (W64 × W32)) o =>
    let k := sideVc o.flit.side * 4 + sideCls o.flit.side
    let h := if sideSeq o.flit.side = 0 then let h := Hdr.parse (leBytes 256 o.flit.payload.toNat); (h.saddr, h.msgid) else tget (0, 0) a.2 k
    (a.1 ++ [(o, h.1)], tset (0, 0) a.2 k h)) ([], x.txHdr))).1

/-- A request from one core to one chip on a MODE 0 route does not overtake an earlier one of another class (R263). -/
def mayOvertake (s : State) (l : List (OutFlit × W64)) (i : Nat) (o : OutFlit × W64) : Bool :=
  decide (sideVc o.1.flit.side = 1) || decide (bits (routeEntry s o.1.chip.toNat) 60 2 ≠ 0) ||
  !((l.take i).any (fun e => decide (sideVc e.1.flit.side = 0) && decide (e.1.chip = o.1.chip) && decide (e.2 = o.2) &&
    decide (sideCls e.1.flit.side ≠ sideCls o.1.flit.side)))

/-- The free flit that goes next, of the 512 that the egress buffer holds (R233): response before request, then class (R266). -/
def freeOutPick (s : State) (p : Nat) : Option Nat :=
  let l := (outSources (portAt s p)).take 512
  let rank (o : (OutFlit × W64) × Nat) : Nat := (if sideVc o.1.1.flit.side = 1 then 0 else 8) + sideCls o.1.1.flit.side
  match l.zipIdx.filter (fun o => mayOvertake s l o.2 o.1) with
  | [] => none
  | c :: cs => some (cs.foldl (fun b o => if rank o < rank b then o else b) c).2

/-- FAB_FREEQ in effect of a port and context. -/
def freeQuota (s : State) (p ctx : Nat) : W32 := (tget ⟨0xFFFFFFFF, 0xFFFFFFFF⟩ s.fab.freeq (p * 16 + ctx)).eff

/-- A free flit beyond its context's quota is held until the next tempo edge and raises a quota fault (R267); the service complex's flits are of no
context. -/
def sendFree (s : State) (p i : Nat) : State :=
  let x := portAt s p
  match x.freeOut[i]? with
  | none => s
  | some o =>
    let x := { x with freeOut := x.freeOut.eraseIdx i }
    let over_ := match o.ctx with
      | some k => let q := freeQuota s p k; decide (q ≠ 0xFFFFFFFF) && decide (q.toNat ≤ tget 0 x.freeUsed k)
      | none => false
    if over_ then quotaFault (setPort s p { x with heldOut := x.heldOut ++ [o] }) p (o.ctx.getD 0)
    else
      let key := sideVc o.flit.side * 4 + sideCls o.flit.side
      let h := Hdr.parse (leBytes 256 o.flit.payload.toNat)
      let hdr := if sideSeq o.flit.side = 0 then (h.saddr, h.msgid) else tget (0, 0) x.txHdr key
      let x := { x with
        freeUsed := match o.ctx with | some k => tset 0 x.freeUsed k (tget 0 x.freeUsed k + 1) | none => x.freeUsed
        txHdr := tset (0, 0) x.txHdr key hdr, credit := x.credit - 1 }
      sendSeq (setPort s p x) p (dataFrame o) (some hdr)

/-- A weft flit goes; an SPUT's first flit names its message (R246, R260). -/
def sendWeft (s : State) (p i : Nat) : State :=
  let x := portAt s p
  match x.weftOut[i]? with
  | none => s
  | some o =>
    let st := sideStream o.flit.side
    let use := sideCtx o.flit.side * 1024 + st
    let key := 1024 + use
    let named := decide ((tget {} s.fab.streamTo use).at_ = 0)
    let h := Hdr.parse (leBytes 256 o.flit.payload.toNat)
    let hdr := if sideSeq o.flit.side = 0 ∧ named then (h.saddr, h.msgid) else tget (0, 0) x.txHdr key
    sendSeq (setPort s p { x with
      weftOut := x.weftOut.eraseIdx i, lastStream := st, frameUse := tset 0 x.frameUse use (tget 0 x.frameUse use + 1), credit := x.credit - 1
      txHdr := tset (0, 0) x.txHdr key hdr })
      p (dataFrame o) (if named then some hdr else none)

/-- A weft flit whose slot entry has bad parity is discarded; an SPUT's message ends with status 0x1 (R374, Table 13.2). -/
def weftParity (s : State) (p : Nat) (o : OutFlit) : State :=
  let i := (slotEntry s p (sideCtx o.flit.side) (sideStream o.flit.side)).getD 0
  let s := raise s 0x11 (moduleScope s) 2 p 0 (7 * 2 ^ 40 + (4096 + 256 * p + i) % 2 ^ 16 * 2 ^ 24)
  let h := Hdr.parse (leBytes 256 o.flit.payload.toNat)
  if sideSeq o.flit.side = 0 ∧ h.op = 3 then settleOne s ⟨h.saddr, h.msgid, 1, 0xFF⟩ else s

/-- A weft flit whose stream has no entry on the port is held and raises a quota fault (R267). -/
def weftHold (s : State) (p : Nat) : State :=
  let x := portAt s p
  match x.weftOut.find? (fun (o : OutFlit) => (slotFlits s p (sideCtx o.flit.side) (sideStream o.flit.side)).isNone) with
  | none => s
  | some o =>
    if slotBad s p (sideCtx o.flit.side) (sideStream o.flit.side) then weftParity (setPort s p { x with weftOut := x.weftOut.erase o }) p o
    else
    quotaFault (setPort s p { x with weftOut := x.weftOut.erase o, heldOut := x.heldOut ++ [o] }) p (sideCtx o.flit.side)

/-- The control flit that goes next: a MARKER first; in opposition only OPPOSE, MARKER, ACK and IDLE (R253, R266). -/
def controlPick (x : Port) : Option Nat :=
  let ok (f : Frame) : Bool := (!(portOpp x) || f.typ.toNat ∈ [1, 2, 3, 0xA]) && (!(sequenced f.typ.toNat) || decide (x.retry.length < 256))
  match x.control.zipIdx.find? (fun (f : Frame × Nat) => decide (f.1.typ = 3) && ok f.1) with
  | some f => some f.2
  | none => (x.control.zipIdx.find? (fun (f : Frame × Nat) => ok f.1)).map (·.2)

/-- One flit time of a port's egress (R266); a down-trained port sends in the form of its generation (R247). -/
def egress (s : State) (p : Nat) : State :=
  let x := portAt s p
  if x.st < 2 ∨ 5 < x.st ∨ x.idle ≠ 0 then s
  else if x.gen ≠ 3 then
    match x.legacyOut with
    | l :: rest => { updPort s p (fun x => { x with legacyOut := rest }) with wire := s.wire ++ [.legacy (Fin.ofNat 16 p) l] }
    | [] => s
  else
    let s := updPort s p flitTime
    match x.resend with
    | f :: rest => emit (updPort s p (fun x => { x with resend := rest })) p f
    | [] =>
      match controlPick x with
      | some i =>
        match x.control[i]? with
        | some f =>
          let s := updPort s p (fun x => { x with control := x.control.eraseIdx i })
          if sequenced f.typ.toNat then sendSeq s p f none else emit s p f
        | none => s
      | none =>
        if !(bit s.fab.ctrl 0) ∨ !(portIsUp x) ∨ 256 ≤ x.retry.length ∨ x.credit = 0 then s
        else
          let s := weftHold s p
          match weftPick s p with
          | some i => sendWeft s p i
          | none => match freeOutPick s p with
            | some i => sendFree s p i
            | none => s

/-! ### Receiving (R243, R258, R262) -/

/-- The flits of a message that crosses this module go on towards a port: HOPS one less in the first, DEST of this die's, every other field as it came
(R241, R258). -/
def crossFlits (q : Nat) (fs : List FabFlit) : List MeshFlit :=
  fs.zipIdx.map (fun f =>
    meshFlit (if f.2 = 0 then setBits f.1.payload (128 + 24) 4 (bits f.1.payload (128 + 24) 4 - 1) else f.1.payload)
      (setBits f.1.side 50 7 (72 + q)))

/-- A crossing message towards port q: its flits enter the mesh at the selvedge router of their port (R245); at a down-trained port it becomes
requests of that generation (R247, R248). A status that ends it here, or how many answers end it. -/
def crossTo (s : State) (p q : Nat) (h : Hdr) (data : List Byte) (fs : List FabFlit) : BitVec 4 × Nat × State :=
  let ctx := sideCtx (fs.headD ⟨0, 0, 0, 0, 0, 0⟩).side
  if !(routes s (72 + p) (72 + q)) then (1, 0, unroutable s (72 + p) ctx (72 + q))
  else if (portAt s q).gen ≠ 3 then sendLegacy s q h data
  else (0, 1, forAll (crossFlits q fs) s (fun s f => routerReceive s (72 + p) 0 f))

/-- Pass a message on towards another module (R255, R258, R264). A multicast message leaves on every branch but the one it came on; its copies answer
together (assumption log 64). -/
def forwardMsg (s : State) (p : Nat) (h : Hdr) (data : List Byte) (fs : List FabFlit) : State :=
  let chip := gaChip h.daddr
  let s := routeParity s chip
  let end_ (s : State) (st : BitVec 4) : State := settleOne s ⟨h.saddr, h.msgid, st, 0xFF⟩
  let one (a : Nat × List (BitVec 4) × State) (q : Nat) : Nat × List (BitVec 4) × State :=
    let (st, n, s) := crossTo a.2.2 p q h data fs
    (a.1 + n, if st = 0 then a.2.1 else a.2.1 ++ [st], s)
  if replicates s chip then
    let (ps, lost) := branches s chip
    let local_ := bit (routeEntry s chip) 62
    let (n, sts, s) := (ps.filter (fun q => decide (q ≠ p))).foldl one (0, if lost then [1] else [], s)
    let total := n + sts.length + b2n local_
    let s := if total = 0 then end_ s 1 else joinMore s h (total - 1)
    let s := forAll sts s end_
    if local_ then acceptMessage s (72 + p) h data else s
  else
    let local_ := decide (0xC00 ≤ chip) && bit (routeEntry s chip) 63 && bit (routeEntry s chip) 62
    match routePort s chip (gaChip h.saddr) (gaCore h.saddr) h.msgid.toNat with
    | none => end_ s 1
    | some q =>
      let (n, sts, s) := one (0, [], s) q
      let s := forAll sts (joinMore s h (n + sts.length + b2n local_ - 1)) end_
      if local_ then acceptMessage s (72 + p) h data else s

/-- A whole message has come in on a port. -/
def messageArrive (s : State) (p : Nat) (fs : List FabFlit) : State :=
  let bs := fs.flatMap (fun f => leBytes 256 f.payload.toNat)
  let h : Hdr := { Hdr.parse bs with poison := fs.any (fun f => bit f.side 62) }
  let data := (bs.drop 64).take h.len
  if h.hops = 0 then settleOne (setFabStatus s 5) ⟨h.saddr, h.msgid, 9, 0xFF⟩
  else if ownModule s (gaChip h.daddr) then acceptMessage s (72 + p) h data
  else forwardMsg s p h data fs

/-- A DATA flit: weft flits enter the mesh at the selvedge router; free flits are collected into their message. -/
def dataArrive (s : State) (p : Nat) (f : FabFlit) : State :=
  if !(bit s.fab.ctrl 0) ∨ !(portIsUp (portAt s p)) then s
  else if sideWeft f.side then routerReceive s (72 + p) 0 (meshFlit f.payload f.side)
  else
    let same (g : FabFlit) : Bool := decide (sideVc g.side = sideVc f.side) && decide (sideCls g.side = sideCls f.side)
    if sideLast f.side then
      let fs := (portAt s p).rxFlits.filter same ++ [f]
      messageArrive (updPort s p (fun x => { x with rxFlits := x.rxFlits.filter (fun g => !(same g)) })) p fs
    else updPort s p (fun x => { x with rxFlits := x.rxFlits ++ [f] })

/-! ### Domain control frames (R271 to R275) -/

def otherHl3 (s : State) (p : Nat) : List Nat := (hl3UpPorts s).filter (fun q => decide (q ≠ p))

/-- PHASE_SC: sc since the module's last pulse. -/
def phaseSc (s : State) : Nat := (s.now - s.tmp.pulseAt) / Config.unitsPerSc

/-- An EPOCH frame's payload: the last pulse's count and PHASE_SC (assumption log 9). -/
def epochPayload (s : State) : Nat := s.tmp.count.toNat + phaseSc s * 2 ^ 64

/-- A count and phase received on a port, against the module's own last pulse: whole periods between the pulses, and the residual in sc
(R59, R275). -/
def alignTo (s : State) (p phase : Nat) (now : Nat) : Int × Nat :=
  let own : Int := (s.tmp.pulseAt / Config.unitsPerSc : Nat)
  let theirs : Int := (now : Int) - (portAt s p).lat.toNat - phase
  let per : Int := periodSc s
  let d := own - theirs
  let k := (2 * d + per) / (2 * per)
  (k, (d - k * per).natAbs)

/-- EPOCH has set the tempo count: GLB_BOOT.EPOCH_DONE, FAB_STATUS bit 7, the event (R275, R330). -/
def epochDone (s : State) : State :=
  postSteward (setFabStatus (updGlb s (fun g => { g with boot := orBit g.boot 5 })) 7) 6 0 0 0 0

/-- Adopt a count from an EPOCH frame (R275 steps 3 and 4). -/
def epochAdopt (s : State) (p : Nat) (count : W64) (phase now : Nat) : State :=
  let (k, res) := alignTo s p phase now
  let c := BitVec.ofInt 64 ((count.toNat : Int) + k)
  if s.fab.epochAdopted && decide (s.tmp.count = c) then s
  else
    let s := updTmp s (fun t => { t with count := c, haveCount := true, countFromMarker := false })
    let s := updFab s (fun f => { f with epochAdopted := true, epochKept := none })
    let s := epochDone s
    let s := sendControlAll s (otherHl3 s p) 5 (epochPayload s)
    if 600 < res then
      let ns := min (res * 5 / 12) 65535
      let s := updTmp s (fun t => { t with skew := if t.skew.toNat < ns then BitVec.ofNat 16 ns else t.skew })
      lostFault s 3 0x1A 2 p (p * 2 ^ 40 + ns * 2 ^ 24 + 2 ^ 23)
    else s

/-- An EPOCH frame: kept until the first pulse since TMP_CTRL.EN was set, if there has been none (R275). -/
def epochArrive (s : State) (p : Nat) (count : W64) (phase : Nat) : State :=
  if bit s.tmp.ctrl 0 && s.tmp.pulseSeen then epochAdopt s p count phase (nowSc s)
  else updFab s (fun f => { f with epochKept := some (Fin.ofNat 16 p, count, nowSc s - (portAt s p).lat.toNat - phase) })

/-- A SNAP frame: armed and forwarded once (R272). -/
def snapArrive (s : State) (p : Nat) (count : W64) : State :=
  if count.toNat ∈ s.fab.snapSeen then s
  else
    let s := updFab s (fun f => { f with snapAt := some count.toNat, snapSeen := f.snapSeen ++ [count.toNat], ctrl := orBit f.ctrl 4 })
    sendControlAll s (otherHl3 s p) 6 count.toNat

/-- A BARRIER frame: an arrival of a child, or the parent's release (R271). -/
def barArrive (s : State) (p ctx : Nat) (release : Bool) : State :=
  if release then (if bits (barCfg s ctx) 26 4 = p then barCheck 64 (barRelease s ctx) ctx else s)
  else if bit (barCfg s ctx) p then
    let b := barAt s ctx
    barCheck 64 (setBar s ctx { b with children := orBit b.children p }) ctx
  else s

/-- A DRESET frame is forwarded once; with DRESET_EN the module resets 10 µs later (R273). Frames within 20 µs are one flood
(assumption log 15). -/
def dresetFlood (s : State) : State :=
  let fresh := match s.fab.dresetAt with | some t => decide (usSc 20 * Config.unitsPerSc < s.now - t) | none => true
  if fresh then
    let s := updFab s (fun f => { f with dresetAt := some s.now, dresetDue := f.dresetDue || bit f.ctrl 5 })
    sendControlAll s (hl3UpPorts s) 8 0
  else s

/-! ### Sequence numbers (R243) -/

def deliverItem (s : State) (p : Nat) (i : RxItem) : State :=
  match i with
  | .data f => dataArrive s p f
  | .epoch c ph => epochArrive s p c ph
  | .snap c => snapArrive s p c
  | .barrier k r => barArrive s p k r
  | .dreset => dresetFlood s
  | .reply a m st => replyArrive s a m st
  | .oppose f => updFab s (fun x => { x with oppRx := x.oppRx ++ [(Fin.ofNat 16 p, f)] })

/-- A sequenced flit of the next number has been taken in: it counts towards the next ACK, and a DATA flit's credit is owed (R243, R245). -/
def takeItem (x : Port) (i : RxItem) : Port :=
  { x with rxSeq := x.rxSeq + 1, unacked := x.unacked + 1, owed := match i with | .data _ => x.owed + 1 | _ => x.owed }

/-- Deliver the flits of the reorder buffer that are next in sequence. -/
def drainReorder : Nat → State → Nat → State
  | 0, s, _ => s
  | n + 1, s, p =>
    let x := portAt s p
    match x.reorder.find? (fun (e : BitVec 12 × RxItem) => decide (e.1 = x.rxSeq)) with
    | none => s
    | some e =>
      let s := setPort s p (takeItem { x with reorder := x.reorder.filter (fun (f : BitVec 12 × RxItem) => decide (f.1 ≠ x.rxSeq)) } e.2)
      drainReorder n (deliverItem s p e.2) p

def ackIfDue (s : State) (p : Nat) : State := if 64 ≤ (portAt s p).unacked then sendAck s p [] else s

/-- A sequenced flit arrives (R243): delivered in order, held, discarded as a repeat, or NAKed. -/
def linkRx (s : State) (p : Nat) (seq : BitVec 12) (crcOk : Bool) (i : RxItem) : State :=
  let x := portAt s p
  if x.st < 2 ∨ 5 < x.st ∨ x.gen ≠ 3 then s
  else
    let d := gapSeq seq x.rxSeq
    if !crcOk then
      let s := updPort s p (fun x => { x with crcN := satAdd x.crcN 1 })
      if d < 256 then sendAck s p [seq] else s
    else if d = 0 then
      let s := setPort s p (takeItem x i)
      ackIfDue (drainReorder 256 (deliverItem s p i) p) p
    else if d < 256 then
      if x.reorder.any (fun e => decide (e.1 = seq)) then s
      else
        let high := (x.reorder.map (fun e => gapSeq e.1 x.rxSeq + 1)).foldl max 0
        let missing := ((List.range d).filter (fun k => decide (high ≤ k))).map (fun k => x.rxSeq + BitVec.ofNat 12 k)
        let s := setPort s p { x with reorder := x.reorder ++ [(seq, i)] }
        if missing.isEmpty then s else sendAck s p missing
    else s

end Sys2Proof.Machine
end

