-- ==== Sys2Proof/Machine/Ports.lean ====
section
/-! DEFINITION. The fabric's commands (09). -/

namespace Sys2Proof.Machine

def fabCfgErr (s : State) : State := setFabStatus s 10

/-! ### Training and port control (R240, R253) -/

/-- Training ends at the highest generation that both ends, GEN_MAX and the lanes allow; credit for the neighbour's 2,048 ingress flits
(R233, R240, assumption log 15). -/
def trainDone (s : State) (p : Nat) (far lane : Nat) : State :=
  let x := portAt s p
  let g := min (genMax x) (min far lane)
  if x.st ≠ 1 ∨ g = 0 then s
  else openingCheck (beginOpening (setPort s p { x with st := 2, gen := BitVec.ofNat 2 g, credit := 2048 }) p)

def execPortTrainingDone (p : PortId) (farGen laneGen : BitVec 2) (s : State) : Host.Outcome State Fault Refusal :=
  done s (fun s => trainDone s p farGen.toNat laneGen.toNat)

/-- A write of FAB_PORT_CTRL of the selected port (Table 9.15): OPPOSITION is refused on other ports than 15 and while port 15 is
trained below HL3. Before the first worked tempo GEN_MAX applies at once (R240). -/
def writePortCtrl (s : State) (v : W32) : State :=
  let p := bits s.fab.portSel 0 4
  let x := portAt s p
  let v := v &&& 0x36
  if bit v 2 && (decide (p ≠ 15) || (decide (2 ≤ x.st) && decide (x.st ≤ 5) && decide (x.gen ≠ 3))) then fabCfgErr s
  else
    let s := setPort s p { x with ctrl := { x.ctrl with acc := v } }
    if s.tmp.begun then s
    else
      let now := setBits x.ctrl.eff 4 2 (bits v 4 2)
      let s := updPort s p (fun x => { x with ctrl := ⟨now, now⟩ })
      updPort (applyPortCtrl s p) p (fun x => { x with ctrl := { x.ctrl with acc := v } })

def stewardDo (s : State) (fn : FnId) (f : State → State) : State := if isSteward s fn then f s else s

def execPortGenMaxSet (fn : FnId) (val : W32) (s : State) : Host.Outcome State Fault Refusal :=
  done s (fun s => stewardDo s fn (fun s => writePortCtrl s val))
def execPortEnableSet (fn : FnId) (val : W32) (s : State) : Host.Outcome State Fault Refusal :=
  done s (fun s => stewardDo s fn (fun s => writePortCtrl s val))
def execPortOppositionSet (fn : FnId) (val : W32) (s : State) : Host.Outcome State Fault Refusal :=
  done s (fun s => stewardDo s fn (fun s => writePortCtrl s val))

/-! ### Link events -/

/-- Frames up to a sequence number are acknowledged. -/
def acked (x : Port) (upTo : BitVec 12) : Port :=
  let old (q : BitVec 12) : Bool := decide (gapSeq upTo q < 256)
  { x with
    retry := x.retry.filter (fun f => !(old f.seq)), txSrc := x.txSrc.filter (fun e => !(old e.1)), naks := x.naks.filter (fun e => !(old e.1)) }

/-- nc that one retry delays the port: about 300 ns (Table 2.2, assumption log 2). -/
def retryCost : Nat := 360

/-- A NAKed frame is sent again ahead of all other traffic; the eighth NAK of one frame takes the port down (R243, R246). -/
def nakOne (s : State) (p : Nat) (q : BitVec 12) : State :=
  let x := portAt s p
  match x.retry.find? (fun f => decide (f.seq = q)) with
  | none => s
  | some f =>
    let n := ((x.naks.find? (fun e => decide (e.1 = q))).map (·.2)).getD 0 + 1
    if 8 ≤ n then portDown s p
    else setPort s p { x with
      resend := x.resend ++ [f], naks := (x.naks.filter (fun e => decide (e.1 ≠ q))) ++ [(q, n)], retries := satAdd x.retries 1,
      retryNc := satAdd x.retryNc retryCost }

def ackArrive (s : State) (p : Nat) (upTo : BitVec 12) (naks : List (BitVec 12)) (credits : Nat) : State :=
  if (portAt s p).st < 2 ∨ 5 < (portAt s p).st then s
  else forAll (naks.take 32) (updPort s p (fun x => { acked x upTo with credit := x.credit + credits })) (fun s q => nakOne s p q)

def execAckReceive (p : PortId) (upTo : BitVec 12) (naks : List (BitVec 12)) (credits : Nat) (s : State) : Host.Outcome State Fault Refusal :=
  done s (fun s => ackArrive s p upTo naks credits)

/-- An ACK at least every 100 ns while a flit is unacknowledged (R243). -/
def execAckSendTimer (p : PortId) (s : State) : Host.Outcome State Fault Refusal :=
  plain s (fun s => if 0 < (portAt s p).unacked then sendAck s p [] else s)

/-- An IDLE flit, when nothing else is ready (R246, Table 9.3). -/
def execIdleSendTimer (p : PortId) (s : State) : Host.Outcome State Fault Refusal :=
  plain s (fun s => let x := portAt s p; if decide (2 ≤ x.st) && decide (x.st ≤ 5) && x.control.isEmpty && x.resend.isEmpty then emit s p ⟨2, 0, 0, 0, 0⟩ else s)

/-- An IDLE flit is a valid flit: it keeps the port from going down by silence, and carries nothing. -/
def execIdleFlitReceive (p : PortId) (s : State) : Host.Outcome State Fault Refusal :=
  plain s (fun s => updPort s p (fun x => x))

/-- No valid flit for 2 µs (R246); in I2 the rule is suspended (R431). -/
def execPortSilenceTimeout (p : PortId) (s : State) : Host.Outcome State Fault Refusal :=
  done s (fun s => if (portAt s p).idle = 1 then s else portDown s p)
def execLaneLockLoss (p : PortId) (s : State) : Host.Outcome State Fault Refusal := done s (fun s => portDown s p)

/-! ### FAB_CTRL (Table 9.15) -/

/-- The snapshot count FAB_SNAP_COUNT. -/
def snapCount (s : State) : Nat := (join64 s.fab.snapHi s.fab.snapLo).toNat

/-- EPOCH needs ROOT; SNAP needs a tempo count and a count at least 2 above it (R272, R275, R438). -/
def fabCtrlOk (s : State) (v : W32) : Bool :=
  (!(bit v 3) || bit v 2) && (!(bit v 4) || bit s.fab.ctrl 4 || (keepsCount s && decide (s.tmp.count.toNat + 2 ≤ snapCount s)))

/-- EN, OPEN, ROOT and DRESET_EN of FAB_CTRL take effect; SNAP stays. -/
def takeFabCtrl (s : State) (v : W32) : State :=
  let s := updFab s (fun f => { f with ctrl := v ||| (f.ctrl &&& 0x10) })
  if bit v 1 then openingCheck (forAll (List.range 16) s beginOpening) else s

/-- A write of FAB_CTRL: the plain bits, which wait for the tempo edge in a worked tempo, the epoch command, the snapshot (R47, R252, R272, R275). -/
def writeFabCtrl (s : State) (v : W32) : State :=
  if !(fabCtrlOk s v) then fabCfgErr s
  else
    let armed := bit s.fab.ctrl 4
    let s := updFab s (fun f => { f with ctrl := f.ctrl ||| (if bit v 4 then 0x10 else 0) })
    let s := if bit v 3 then updFab s (fun f => { f with epochDue := true, epochAdopted := false }) else s
    let s := if bit v 4 && !armed then
        let c := snapCount s
        sendControlAll (updFab s (fun f => { f with snapAt := some c, snapSeen := f.snapSeen ++ [c] })) (hl3UpPorts s) 6 c
      else s
    accept s .fabCtrl (v &&& 0x27) takeFabCtrl

def execOpeningStart (fn : FnId) (val : W32) (s : State) : Host.Outcome State Fault Refusal :=
  done s (fun s => stewardDo s fn (fun s => writeFabCtrl s val))
def execEpochCommand (fn : FnId) (val : W32) (s : State) : Host.Outcome State Fault Refusal :=
  done s (fun s => stewardDo s fn (fun s => writeFabCtrl s val))
def execSnapshotArm (fn : FnId) (val : W32) (s : State) : Host.Outcome State Fault Refusal :=
  done s (fun s => stewardDo s fn (fun s => writeFabCtrl s val))

/-- IDENT frames go out every 100 µs until one is received (R252). -/
def execIdentResendTimer (p : PortId) (s : State) : Host.Outcome State Fault Refusal :=
  plain s (fun s => openingCheck (if (portAt s p).st = 3 ∧ !(portAt s p).recorded then sendIdent s p else s))

def execIdentReceive (p : PortId) (f : Ident) (s : State) : Host.Outcome State Fault Refusal := done s (fun s => identArrive s p f)

/-- FAB_DRESET: refused unless DRESET_EN is 1 (Table 9.15). -/
def writeDreset (s : State) (v : W32) : State :=
  if !(bit v 0) then s else if bit s.fab.ctrl 5 then dresetFlood s else fabCfgErr s

def execDomainResetFlood (fn : FnId) (val : W32) (s : State) : Host.Outcome State Fault Refusal :=
  plain s (fun s => stewardDo s fn (fun s => writeDreset s val))

/-! ### Completions (R262) -/

/-- No REPLY or response within MSG_TIMEOUT of the message's start: status 0x8 (Table 9.9). -/
def messageExpire (s : State) (src : Nat) (msgid : W32) : State :=
  match findMsg s src msgid with
  | some m => if m.started then finishMsg s m 8 [] else s
  | none => s

def execMessageTimeout (src : Nat) (msgid : W32) (s : State) : Host.Outcome State Fault Refusal := done s (fun s => messageExpire s src msgid)

def execPortEgressSend (p : PortId) (s : State) : Host.Outcome State Fault Refusal := done s (fun s => egress s p)

/-! ### Older parts (R249, R269) -/

/-- The local byte address that an aperture offset names (Table 9.12). -/
def aperLocal (a : Nat) : Option Nat :=
  if a < 0xC000000 then some (0x10000000 + a)
  else if a < 0xC800000 then some (a - 0xC000000)
  else if 0xE000000 ≤ a ∧ a < 0xE002000 then some (0x40000000 + (a - 0xE000000))
  else none

/-- The header of a request of an older part on port p: it carries the context's job tag and is answered on its own link layer (R249, assumption
log 64). -/
def legacyHdr (s : State) (p k off len : Nat) (arrive : Option Byte) : Hdr :=
  ⟨gaMake 0xFFF 0xFE off, gaMake 0xFFF 0xFE 0, 0, 0, len, bits (tget {} s.fab.job k).eff 0 16, arrive, 0, BitVec.ofNat 32 p, false⟩

/-- An answer to an older part: 2 done or data, 3 an error. -/
def legacyAnswer (s : State) (p op : Nat) (data : List Byte) : State :=
  updPort s p (fun x => { x with legacyOut := x.legacyOut ++ [⟨op, 0, data.length, data⟩] })

/-- A request from an older part: op 0 writes, 1 reads, 2 is atomic and refused with an error (R249, R270). A write that completes adds an arrival to
the counter of the port's core. -/
def legacyRequest (s : State) (p op addr len : Nat) (data : List Byte) : State :=
  let x := portAt s p
  if x.st ≠ 4 ∨ !(portIsUp x) ∨ x.gen = 3 ∨ x.gen = 0 then s
  else
    let k := bits x.legacy 16 4
    let arrive := BitVec.ofNat 8 (bits x.legacy 8 8)
    match physicalOf s (addr / 2 ^ 28 % 64), aperLocal (addr % 2 ^ 28) with
    | some c, some off =>
      if 2 ≤ op ∨ !(routes s (72 + p) c) then legacyAnswer s p 3 []
      else if op = 0 then
        deliverCore s (legacyHdr s p k off data.length (some arrive)) c off data (some k) ((physicalOf s (bits x.legacy 20 6)).map (fun b => (b, arrive)))
      else
        let (st, d, s) := fetchCore s c off len (bits (tget {} s.fab.job k).eff 0 16) (some k)
        legacyAnswer s p (if st = 0 then 2 else 3) (if st = 0 then d else [])
    | _, _ => legacyAnswer s p 3 []

def execLegacyRequestReceive (p : PortId) (op : Fin 3) (addr len : Nat) (data : List Byte) (s : State) : Host.Outcome State Fault Refusal :=
  done s (fun s => legacyRequest s p op addr len data)

/-! ### Route and slot commit, clear -/

/-- An entry meets Table 9.6. -/
def routeOk (chip : Nat) (e : W64) : Bool :=
  let multi := decide (0xC00 ≤ chip) && decide (chip ≤ 0xFFE)
  decide (bits e 60 2 ≠ 3) && (decide (bits e 60 2 ≠ 2) || multi) && (!(bit e 62) || multi) && (!(bit e 63) || decide (bits e 0 16 ≠ 0))

/-- The staged routes and slots become active; entries that break Table 9.6 are refused (R256). -/
def commitRoutes (s : State) : State :=
  updFab s (fun f =>
    let keys := (f.routeStaged.map (·.1)) ++ ((f.route.map (·.1)).filter (fun k => !((f.routeStaged.map (·.1)).contains k)))
    { f with
      route := keys.foldl (fun t k => let e := tget 0 f.routeStaged k; if routeOk k e then tset 0 t k e else t) f.route
      slot := f.slotStaged, bad := [], commitDue := false })

/-- FAB_ROUTE_COMMIT: at once before the first worked tempo, else at the next tempo edge (R256). -/
def writeRouteCommit (s : State) (v : W32) : State :=
  if !(bit v 0) then s
  else
    let s := if s.fab.routeStaged.all (fun p => routeOk p.1 p.2) then s else fabCfgErr s
    if s.tmp.begun then updFab s (fun f => { f with commitDue := true }) else commitRoutes s

def execFabRouteCommit (fn : FnId) (val : W32) (s : State) : Host.Outcome State Fault Refusal :=
  plain s (fun s => stewardDo s fn (fun s => writeRouteCommit s val))

/-- FAB_CLEAR: port CRC and down counts, and the count of FAB_MSG_LAST. -/
def clearFab (s : State) : State :=
  let s := forAll (List.range 16) s (fun s p => updPort s p (fun x => { x with crcN := 0, downs := 0 }))
  updFab s (fun f => { f with msgLast := setBits f.msgLast 0 16 0 })

def execFabClear (fn : FnId) (val : W32) (s : State) : Host.Outcome State Fault Refusal :=
  plain s (fun s => stewardDo s fn (fun s => if bit val 0 then clearFab s else s))

end Sys2Proof.Machine
end

