-- ==== Sys2Proof/Machine/Opp.lean ====
section
/-! DEFINITION. Opposition and verdict frames, and the commands of the SAF block (13). -/

namespace Sys2Proof.Machine

/-! ### OPPOSE frames (Table 13.4) -/

def opCount (f : Flit256) : W64 := BitVec.ofNat 64 (bits f 0 64)
def opPart (f : Flit256) : Nat := bits f 72 8
def opIndex (f : Flit256) : Nat := bits f 80 16
def opArg (f : Flit256) : Nat := bits f 96 32
def opItem (f : Flit256) : Nat := bits f 128 64
def opVal (f : Flit256) (i : Nat) : W32 := BitVec.ofNat 32 (bits f (256 + 32 * i) 32)

/-- Frames of the opposition peer come on port 15 in opposition (R253, R379). -/
def fromPeer (s : State) (p : Nat) : Bool := decide (p = 15) && s.saf.oppActive && portOpp (portAt s 15)

/-- A SIG frame: 32 tempo signatures, with the serving signature in part 0. A new count begins a new collection (R380). -/
def sigArrive (s : State) (f : Flit256) : State :=
  let part := opPart f
  if 2 ≤ part then s
  else
    let s := if s.saf.peerCount = opCount f then s
      else updSaf s (fun x => { x with peerCount := opCount f, peerParts := 0, peerSigs := [], peerServ := none })
    if s.saf.peerParts = 4 then s
    else
      let s := updSaf s (fun x => { x with
        peerSigs := (List.range 32).foldl (fun t i => tset 0 t (32 * part + i) (opVal f i)) x.peerSigs
        peerServ := if part = 0 then some (BitVec.ofNat 32 (opArg f)) else x.peerServ
        peerParts := x.peerParts ||| (part + 1) })
      compareSigs s

/-- SAF_OPP_FIRST for the lowest index whose entries differ (R381, Table 13.6). -/
def oppFirstWord (x : Saf) : W32 :=
  match (List.range 4096).find? (fun k => decide (x.oppLog.getD k 0 ≠ tget 0 x.peerLog k)) with
  | none => 0
  | some k => BitVec.ofNat 32 (2 ^ 31 + b2n (decide (k = 4095)) * 2 ^ 30 + x.oppCore % 64 * 2 ^ 24 + x.oppEng.getD k 0 % 4 * 2 ^ 12 + k)

/-- A LOG chunk of the named core; after the last one the first difference is found (R381). -/
def logArrive (s : State) (f : Flit256) : State :=
  let x := s.saf
  if !x.frozen ∨ opPart f ≠ x.oppCore ∨ opCount f ≠ x.oppFirstCnt ∨ 128 ≤ opIndex f then s
  else
    let s := updSaf s (fun x => { x with
      peerLog := (List.range 32).foldl (fun t i => tset 0 t (32 * opIndex f + i) (opVal f i)) x.peerLog, peerChunks := x.peerChunks + 1 })
    if s.saf.peerChunks = 128 then updSaf s (fun x => { x with oppFirst := oppFirstWord x }) else s

/-! ### Verdicts (R370, R371) -/

/-- A verdict for a tag and count: withheld under 0x22 for each context of the tag, or, once committed, a late verdict (0x27). -/
def verdictActs (s : State) (sender tag : Nat) (count : W64) : State :=
  let ks := (List.range 16).filter (fun k => decide (jobTag s k = some tag) && decide ((ctxAt s k).st ≠ .unbound))
  let late := ks.any (fun k => (ctxAt s k).commits.contains count)
  let s := forAll (ks.filter (fun k => !((ctxAt s k).commits.contains count))) s (fun s k =>
    raiseAt s 0x22 [k] [count] 3 0 k (sender % 4096 * 2 ^ 32 + tag * 2 ^ 16))
  if late then enterLost (raiseAt s 0x27 [] [] 3 0 0 (tag * 2 ^ 28 + count.toNat % 2 ^ 28)) [14] else s

/-- A VERDICT frame is forwarded once, whatever the module's tags, and acted on when VERDICT_RX is set. -/
def verdictArrive (s : State) (p : Nat) (f : Flit256) : State :=
  let tag := opArg f % 65536
  let key := (BitVec.ofNat 16 tag, opCount f)
  let s := if s.fab.verdicts.contains key then s
    else sendControlAll (updFab s (fun x => { x with verdicts := key :: x.verdicts })) (otherHl3 s p) 0xA
      (verdictPayload (opCount f) (opArg f / 65536) tag)
  if bit s.saf.ctrl 1 && !(s.fab.verdictSeen.contains key) then
    verdictActs (updFab s (fun x => { x with verdictSeen := key :: x.verdictSeen })) (opArg f / 65536) tag (opCount f)
  else s

/-! ### SAF commands -/

def safCfgErr (s : State) : State := setSafStatus s 10

/-- The COLUMN_DIGEST of a context's bolt; zero where it has none (Table 12.4). -/
def ctxDigest (s : State) (k : Nat) : BitVec 256 := match (ctxAt s k).bolt with | some b => b.digest | none => 0

/-- The conditions of R379, with the role to be written. -/
def oppositionOk (s : State) (follow : Bool) (peer : OppPeer) : Bool :=
  let x := portAt s 15
  peer.sameOrder && peer.sameResults && (peer.peerRoleFollow != follow) && portOpp x && decide (x.gen = 3) && decide (2 ≤ x.st) && decide (x.st ≤ 4) &&
  keepsCount s && (List.range 16).all (fun k => decide (peer.digests.getD k 0 = ctxDigest s k))

/-- SAF_OPP_CTRL: EN is refused unless the conditions hold; it takes effect at the next tempo edge. -/
def writeOppCtrl (s : State) (v : W32) (peer : OppPeer) : State :=
  if bit v 0 && !(oppositionOk s (bit v 1) peer) then safCfgErr s else updSaf s (fun x => { x with oppCtrl := v &&& 3 })

def execOppositionEnable (fn : FnId) (val : W32) (peer : OppPeer) (s : State) : Host.Outcome State Fault Refusal :=
  plain s (fun s => stewardDo s fn (fun s => writeOppCtrl s val peer))

/-- A read of SAF_OPP_FIRST unfreezes the log (R381). -/
def execSafOppFirstRead (_fn : FnId) (s : State) : Host.Outcome State Fault Refusal :=
  plain s (fun s => updSaf { s with readData := s.saf.oppFirst } (fun x => { x with frozen := false }))

/-- SAF_CHOICE_CFG: LOG2 from 8 to 20; EN from 0 to 1 takes the ring's base and size and restarts it (R387). -/
def writeChoiceCfg (s : State) (v : W32) : State :=
  let n := bits v 0 5
  if n < 8 ∨ 20 < n then safCfgErr s
  else
    let was := bit s.saf.choiceCfg 31
    updSaf s (fun x =>
      let x := { x with choiceCfg := v &&& 0x8000001F, choiceOn := bit v 31 }
      if bit v 31 && !was then { x with choiceBase := join64 x.choiceHi x.choiceLo, choiceLog2 := n, choicePos := 0, choiceSeq := 0, choicePhase := true }
      else x)

def execChoiceRingEnable (fn : FnId) (val : W32) (s : State) : Host.Outcome State Fault Refusal :=
  plain s (fun s => stewardDo s fn (fun s => writeChoiceCfg s val))

/-- SAF_CLEAR: the counters and the fault log (R389). -/
def clearSaf (x : Saf) : Saf :=
  { x with
    committed := 0, withheld := 0, faults := 0, flog := [], flogNext := 0, flogWrapped := false, oppMismatch := 0, choiceTotal := 0
    choiceKind := [], checkerFails := 0 }

def execSafClear (fn : FnId) (val : W32) (s : State) : Host.Outcome State Fault Refusal :=
  plain s (fun s => stewardDo s fn (fun s => if bit val 0 then updSaf s clearSaf else s))

/-! ### Latent faults (R360, R378) -/

/-- A checker fault: the checker, its holder, and the contexts and counts it withholds (R376). -/
def checkerFault (s : State) (checker holder : Nat) (scope : List Nat) (counts : List W64) : State :=
  raiseAt (updSaf s (fun x => { x with checkerFails := satAdd x.checkerFails 1 })) 0x23 scope counts 3 0 0 (checker * 2 ^ 40 + holder * 2 ^ 32)

/-- A visit by firmware ends: store, tiers and sync objects are as before; engine contents and the maintenance registers are not defined after it
(assumption logs 6 and 21); a wrong result is a latent fault (assumption log 21). -/
def visit (s : State) (c : Nat) (latent : Bool) : State :=
  let x := coreAt s c
  if !(enabledCore s c) ∨ !x.maint ∨ x.mnext.isSome ∨ !s.svc.released then s
  else
    let s := undefineCore s c
    let word (i : Nat) : W64 := Config.freeWord s.freeCtr i
    let s := updCore s c (fun x =>
      { x with
        mres := (List.range 8).foldl (fun t i => tset 0 t i (word i)) x.mres, mcrc := lo32 (word 8), mcnt := lo32 (word 9)
        visited := some s.now, visitDue := false })
    if latent then checkerFault s 0 (logicalOf s c) [] [] else s

def execSelfTestVisit (c : CoreId) (latentFault : Bool) (s : State) : Host.Outcome State Fault Refusal :=
  plain s (fun s => visit s c latentFault)

/-- Seconds since the least recent visit of an enabled core, and that core (Table 13.6); no visit yet reads as all ones. -/
def visitAge (s : State) : W32 × Nat :=
  (enabledCores s).foldl (fun (r : W32 × Nat) c =>
    let age : W32 := match (coreAt s c).visited with
      | none => 0xFFFFFFFF
      | some t => BitVec.ofNat 32 (min ((s.now - t) / (2400000000 * Config.unitsPerSc)) (2 ^ 32 - 1))
    if r.1.toNat < age.toNat then (age, logicalOf s c) else r) (0, 0)

def execLatentLate (s : State) : Host.Outcome State Fault Refusal :=
  plain s (fun s => if 3600 < (visitAge s).1.toNat then setSafStatus s 8 else s)

end Sys2Proof.Machine
end

