-- ==== Sys2Proof/Machine/Stretch.lean ====
section
/-! DEFINITION. Tempo markers as they are sent, throttle requests and the stretch unit, cluster wakes, and the projection of a worked
tempo's end (R54, R56, R57, R61, R65, R429). -/

namespace Sys2Proof.Machine

/-! ### Times of the worked tempo -/

def periodUnits (s : State) : Nat := periodSc s * Config.unitsPerSc

/-- The time of the pulse that ends the worked tempo in progress, held or not, by the last pulse and the period (R49, R60). -/
def endPulse (s : State) : Nat := s.tmp.pulseAt + (s.tmp.stride + b2n s.tmp.held - s.tmp.pulses) * periodUnits s

/-- The module's own cutoff (R56). -/
def cutoff (s : State) : Nat := endPulse s - Config.guardSc * Config.unitsPerSc

/-- The work of a worked tempo is in progress: a core of the lock set is not in the boundary wait (R54). -/
def inWork (s : State) : Bool := s.tmp.working && !s.lock.gated && !s.tmp.lost

/-! ### Sending markers (R57, R58) -/

/-- A marker's payload (Table 2.4). -/
def markerPayload (s : State) (count kind variant switch : Nat) : Nat :=
  count % 2 ^ 64 + (kind % 4 * 64 + variant % 4 * 16) * 2 ^ 64 + switch % 2 ^ 64 * 2 ^ 128 + phaseSc s % 2 ^ 32 * 2 ^ 192

/-- Three copies of a marker on each port of a list, all with the PHASE_SC of the first one's sending (assumption log 65). -/
def sendMarker (s : State) (ps : List Nat) (count kind variant switch : Nat) : State :=
  let p := markerPayload s count kind variant switch
  forAll [0, 1, 2] s (fun s (_ : Nat) => sendControlAll s ps 3 p)

/-- A marker that this module raises: it is not forwarded again (R57). -/
def raiseMarker (s : State) (count kind variant switch : Nat) : State :=
  sendMarker (updTmp s (fun t => { t with forwarded := (count, kind) :: t.forwarded })) (markerPorts s) count kind variant switch

/-! ### Variants (R64 to R67) -/

/-- The variant is compiled into every bolt of a LOADED or RUNNING context. -/
def variantCompiled (s : State) (v : Nat) : Bool :=
  (loadedCtxs s).all (fun k => match (ctxAt s k).bolt with | some b => decide (v < b.variants.length) | none => false)

def variantMax (s : State) : Nat := bits s.tmp.throttleCfg.eff 4 2
/-- LEAD (rule n−1). -/
def lead (s : State) : Nat := bits s.tmp.throttleCfg.eff 0 4 + 1

/-- The module can run a variant (R67). -/
def canFollow (s : State) (v : Nat) : Bool := decide (v ≤ variantMax s) && variantCompiled s v

/-- Put a switch into the pending list in count order; at one count the higher variant wins (R66). -/
def insertSwitch (l : List (Nat × BitVec 2)) (count : Nat) (v : BitVec 2) : List (Nat × BitVec 2) :=
  match l with
  | [] => [(count, v)]
  | p :: ps =>
    if count < p.1 then (count, v) :: p :: ps
    else if count = p.1 then (count, if p.2.toNat < v.toNat then v else p.2) :: ps
    else p :: insertSwitch ps count v

/-- The list has room for a further switch: 16 are held (R66). -/
def switchRoom (s : State) : Bool := decide (s.tmp.switches.length < 16)

def tmpCfgErr (s : State) : State := setTmpStatus s 9

/-- A switch joins the pending ones; with 16 pending it is refused with CFG_ERR. -/
def addSwitch (s : State) (count : Nat) (v : BitVec 2) : State :=
  if switchRoom s then updTmp s (fun t => { t with switches := insertSwitch t.switches count v }) else tmpCfgErr s

/-- The variant taken for a worked tempo: the highest of its throttle markers (R65). -/
def taken (s : State) (count : Nat) : Option (BitVec 2) :=
  (s.tmp.throttles.filter (fun p => decide (p.1 = count))).foldl (fun (v : Option (BitVec 2)) p =>
    match v with | none => some p.2 | some u => if u.toNat < p.2.toNat then some p.2 else some u) none

/-- This module's throttle marker of the worked tempo in progress, sent once (R65). -/
def sendThrottle (s : State) (v : BitVec 2) : State :=
  if s.tmp.throttles.contains (s.tmp.t.toNat, v) then s
  else raiseMarker (updTmp s (fun t => { t with throttles := t.throttles ++ [(t.t.toNat, v)] })) s.tmp.t.toNat 2 v.toNat 0

/-- A refused raise becomes a throttle request: suppressed, sent, or held for the next worked tempo (R65). -/
def throttleRequest (s : State) : State :=
  let v := s.tmp.variant.toNat + 1
  if 3 < v ∨ !(canFollow s v) ∨ (loadedCtxs s).isEmpty then setTmpStatus s 10
  else if s.tmp.working ∧ !s.tmp.edgeDue ∧ s.now ≤ cutoff s then sendThrottle s (BitVec.ofNat 2 v)
  else updTmp s (fun t => { t with heldThrottle := some (BitVec.ofNat 2 v) })

/-! ### The stretch unit (R54) -/

/-- Stretch allowance of a context under the variant in effect, in time units. -/
def allowance (s : State) (k : Nat) : Nat := match ctxVariant s k with | some v => v.allow * Config.unitsPerSc | none => 0

def lossPerAc (level : Nat) : Nat := acUnits level - acUnits0

/-- A full work window of every RUNNING context priced at a level stays within its allowance. -/
def fitsFull (s : State) (level : Nat) : Bool :=
  (workingCtxs s).all (fun k => decide (ctxW s k * lossPerAc level ≤ allowance s k))

/-- The test of a raise. -/
def fits (s : State) (level : Nat) : Bool :=
  if inWork s then
    (workingCtxs s).all (fun k => decide (s.lock.loss + (ctxW s k - lockTrc s) * lossPerAc level ≤ allowance s k))
  else fitsFull s level

/-- The level changes (a change takes effect within 16 delivered ac: here at once). -/
def changeLevel (s : State) (level : Nat) : State :=
  let s := updLock s (fun l => { l with level := level, since := 0, request := none })
  if level = 0 then s else setPwrStatus s 0

/-- Judge a request of the thermal control. A level above a newly lowered STRETCH_FLOOR stays until a lowering is asked for (assumption log 65). -/
def judge (s : State) (up : Bool) : State :=
  let k := s.lock.level
  if up then
    if k + 1 ≤ 8 ∧ k + 1 ≤ bits s.tmp.throttleCfg.eff 8 4 ∧ fits s (k + 1) then changeLevel s (k + 1) else throttleRequest s
  else if 0 < k then changeLevel s (k - 1) else s

/-- A request: held within 256 delivered ac of the last change, replacing a held one; else judged (R54). -/
def requestStretch (s : State) (up : Bool) : State :=
  if s.lock.since < 256 then updLock s (fun l => { l with request := some up }) else judge s up

/-- The highest level that is allowed for every RUNNING context's full W. -/
def levelAllowed (s : State) (level : Nat) : Nat :=
  match level with
  | 0 => 0
  | n + 1 => if fitsFull s (n + 1) then n + 1 else levelAllowed s n

/-- At an edge that begins a worked tempo the level falls as far as the allowances ask, which counts as a refused raise (R54). -/
def stretchAtEdge (s : State) : State :=
  let n := levelAllowed s s.lock.level
  if n = s.lock.level then s else throttleRequest (changeLevel s n)

/-! ### The readings of the thermal control (R432, Table 15.9) -/

/-- CRIT level of a sensor, in 1/16 °C. -/
def critLevel (k : Nat) : Int := 16 * (if k < 18 then 110 else if k < 22 then 100 else 115)

def tempOf (s : State) (k : Nat) : Int := (tget 0 s.pwr.temp k).toInt
def sampledAt (s : State) (k : Nat) : Bool := bit s.pwr.sampled k

def isArray (k : Nat) : Bool := decide (k < 18)
def isTier (k : Nat) : Bool := decide (18 ≤ k) && decide (k < 22)

def tempHi (s : State) : Int := 16 * (bits s.pwr.tempCfg 8 8 : Nat)
def tempHyst (s : State) : Int := 16 * (bits s.pwr.tempCfg 0 4 : Nat)

/-- Some sampled sensor satisfies `f`. -/
def anySensor (s : State) (f : Nat → Bool) : Bool := (List.range 26).any (fun k => sampledAt s k && f k)
def atCrit (s : State) : Bool := anySensor s (fun k => decide (critLevel k ≤ tempOf s k))
def isHot (s : State) : Bool :=
  anySensor s (fun k => (isArray k && decide (tempHi s ≤ tempOf s k)) || (isTier k && decide (tempHi s - 160 ≤ tempOf s k)))
def isCool (s : State) : Bool :=
  !(anySensor s (fun k => (isArray k && decide (tempHi s - tempHyst s < tempOf s k)) ||
    (isTier k && decide (tempHi s - 160 - tempHyst s < tempOf s k))))
def atCap (s : State) : Bool := decide (s.pwr.cap.toNat ≤ s.pwr.power.toNat)

/-- What the thermal control asks of the stretch unit on the readings as they stand: a raise, a lowering, or nothing. -/
def policyAsks (s : State) : Option Bool :=
  if isHot s || atCap s || atCrit s then some true
  else if isCool s && decide (s.pwr.power.toNat + 30 ≤ s.pwr.cap.toNat) then some false
  else none

/-- The 256 delivered ac since the last change have passed: what the thermal control asks now, in place of a held request, or else the held
request is judged. -/
def stretchSpacing (s : State) : State :=
  let judged (up : Bool) : State := judge (updLock s (fun l => { l with request := none, since := max l.since 256 })) up
  match policyAsks s, s.lock.request with
  | some up, _ => judged up
  | none, some up => judged up
  | none, none => s

def execStretchSpacingExpiry (s : State) : Host.Outcome State Fault Refusal := done s stretchSpacing

/-! ### Cluster wakes (R429) -/

/-- The module acts on pulses, and the time is in the window from 2 µs before a pulse until the commit point after its edge. -/
def inWakeWindow (s : State) : Bool :=
  keepsCount s && s.tmp.pulseSeen &&
    (s.tmp.edgeDue || s.tmp.commitDue || decide (s.tmp.pulseAt + periodUnits s ≤ s.now + usSc 2 * Config.unitsPerSc))

def wakeOf (s : State) (k : Nat) : Nat := tget 0 s.pwr.wakeAt k

/-- A wake event of an idle cluster: it is counted, and its power-up is to start. -/
def wakeCluster (s : State) (k : Nat) : State :=
  if (clusterIdle s k = 1 ∨ clusterIdle s k = 2) ∧ wakeOf s k = 0 then
    updPwr s (fun p => { p with wakeAt := tset 0 p.wakeAt k (s.now + 1), wakes := satAdd p.wakes 1 })
  else s

/-- The clusters of a context, in effect. -/
def ctxClusters (s : State) (k : Nat) : List Nat := (List.range 18).filter (fun cl => ctxHasCluster s k cl)

def wakeCtx (s : State) (k : Nat) : State := forAll (ctxClusters s k) s wakeCluster

/-- A parked context wakes (R427). -/
def unpark (s : State) (k : Nat) : State :=
  if (ctxAt s k).parked then wakeCtx (updCtx s k (fun c => { c with wakePark := true })) k else s

/-- The power-up of a cluster starts: its stores and sync objects are cleared on the way from I1 (R168, R169, Table 15.8). -/
def startWake (s : State) (k : Nat) : State :=
  let s := updPwr s (fun p => { p with cluster := tset 0 p.cluster k (if clusterIdle s k = 2 then 3 else 4), deferred := clrBit p.deferred k })
  if clusterIdle s k = 3 then forAll ((clusterCores k).filter (enabledCore s)) s (fun s c => updCore s c (fun x =>
    { msgid := x.msgid, slip := x.slip, waitSlips := x.waitSlips, rereads := x.rereads, visited := x.visited, visitDue := x.visitDue }))
  else s

/-- The power-ups deferred past a pulse start. -/
def startDeferred (s : State) : State :=
  forAll ((List.range 18).filter (fun k => bit s.pwr.deferred k)) s startWake

/-- A cluster's power-up is to start: in the window it is deferred and counted. -/
def wakeStart (s : State) (k : Nat) : State :=
  if wakeOf s k = 0 ∨ ¬ (clusterIdle s k = 1 ∨ clusterIdle s k = 2) ∨ bit s.pwr.deferred k then s
  else if inWakeWindow s then
    setPwrStatus (updPwr s (fun p => { p with deferred := orBit p.deferred k, wakeDefer := satAdd p.wakeDefer 1 })) 7
  else startWake s k

def execClusterWakeStart (k : ClusterId) (s : State) : Host.Outcome State Fault Refusal := plain s (fun s => wakeStart s k)

/-- WL of the context that holds a cluster, in µs. -/
def clusterWl (s : State) (k : Nat) : Nat :=
  match (List.range 16).find? (fun c => decide ((ctxAt s c).st ≠ .unbound) && ctxHasCluster s c k) with
  | some c => bits (ctxAt s c).pwrLat.eff 0 24
  | none => 0

/-- The cluster is ready: from I0 it is active at once; from I1 its cores are clear, in maintenance mode, and it joins at an edge.
A wake that took longer than WL is counted (R429). -/
def wakeReady (s : State) (k : Nat) : State :=
  let wl := clusterWl s k
  let late := decide (wl ≠ 0) && decide (usSc wl * Config.unitsPerSc < s.now + 1 - wakeOf s k)
  let count (s : State) : State := if late then setPwrStatus (updPwr s (fun p => { p with wakeLate := satAdd p.wakeLate 1 })) 6 else s
  let stop (s : State) : State := updPwr s (fun p => { p with wakeAt := tset 0 p.wakeAt k 0 })
  if clusterIdle s k = 4 then stop (count (updPwr s (fun p => { p with cluster := tset 0 p.cluster k 0 })))
  else if clusterIdle s k = 3 ∧ ¬ bit s.pwr.ready k then
    let s := forAll ((clusterCores k).filter (enabledCore s)) s (fun s c => updCore s c (fun x => { x with clearing := false }))
    stop (count (updPwr s (fun p => { p with ready := orBit p.ready k, readyAt := tset 0 p.readyAt k s.now })))
  else s

def execClusterWakeReady (k : ClusterId) (s : State) : Host.Outcome State Fault Refusal := plain s (fun s => wakeReady s k)

/-! ### The projected end (R56, R61, R68) -/

/-- The projection of one context: its remaining ac at the current level, over its cores that still work. -/
def projectionPassed (s : State) : Bool :=
  s.tmp.working && !s.lock.gated && (workingCtxs s).any (fun k =>
    (ctxCores s k).any (fun c => let x := coreAt s c; !(x.boundary || x.maint || x.barred)) &&
      decide (cutoff s < s.now + (ctxW s k - lockTrc s) * acUnits s.lock.level))

/-- The object a stream is blocked on in a wait. -/
def waitObject (x : Core) (st : Stream) : Option Nat :=
  match (streamOf x st).held with
  | some w => if waitHolds x w then none else some (wObj w)
  | none => none

/-- A core blocked in a wait: the core, its stream and the object. -/
def blockedWait (s : State) : Option (Nat × Nat × Nat) :=
  (lockCores s).findSome? (fun c =>
    let x := coreAt s c
    if x.maint || x.barred then none
    else match waitObject x .access, waitObject x .execute with
      | some o, _ => some (c, 0, o)
      | none, some o => some (c, 1, o)
      | none, none => none)

/-- The work of t did not end in time: stall-at-boundary where a core is blocked in a wait, else hem runaway; the ports leave the domain
(R61, R68). -/
def workFails (s : State) : State :=
  match blockedWait s with
  | some (c, st, o) =>
    let n := logicalOf s c
    exitDomain (lostFault s 6 0x1C 0 n (n * 2 ^ 38 + st * 2 ^ 37 + o * 2 ^ 29))
  | none => exitDomain (lostFault s 5 0x1B 3 0 0)

end Sys2Proof.Machine
end

