-- ==== Sys2Proof/Machine/Tempo.lean ====
section
/-! DEFINITION. Pulses, markers received, tempo lost and resume, and the TMP registers with rows of their own (02). -/

namespace Sys2Proof.Machine

/-! ### Pulses (R43 to R46, R51, R60, R61, R68) -/

/-- A tempo pulse fault: 0 outside the window, 1 missing, 2 high too long. -/
def pulseFault (s : State) (kind : Nat) : State := lostFault s 2 0x18 3 0 (kind * 2 ^ 42)

/-- FAB_EPOCH's count C0. -/
def epochCount (s : State) : W64 := join64 s.fab.epochHi s.fab.epochLo

/-- The root gives C0 to this pulse, and sends its EPOCH frames (R275 step 2). -/
def epochRoot (s : State) : State :=
  let s := updTmp s (fun t => { t with count := epochCount s, haveCount := true, countFromMarker := false })
  let s := updFab s (fun f => { f with epochDue := false, epochAdopted := true })
  let s := epochDone s
  sendControlAll s (hl3UpPorts s) 5 (epochPayload s)

/-- The count of a periodic marker, corrected for the link: it counts the pulse after its sender's last one, and the two modules' last pulses lie whole
periods apart (R78, R275 step 3). -/
def countFrom (s : State) (p : Nat) (count : W64) (phase : Nat) : State :=
  let k := (alignTo s p phase (nowSc s)).1
  updTmp s (fun t => { t with count := BitVec.ofInt 64 ((count.toNat : Int) - 1 + k), haveCount := true, countFromMarker := false, keptMarker := none })

/-- The count of this pulse (R46, R275): C0 at the root, a kept EPOCH frame's, or one more. -/
def countPulse (s : State) : State :=
  if s.fab.epochDue then epochRoot s
  else
    let s := if s.tmp.haveCount then updTmp s (fun t => { t with count := t.count + 1 }) else s
    let since (p third : Nat) : Nat := nowSc s - (portAt s p).lat.toNat - third
    match s.fab.epochKept, s.tmp.keptMarker with
    | some (p, c, third), _ => epochAdopt s p c (since p third) (nowSc s)
    | none, some (p, c, third) => countFrom s p c (since p third)
    | none, none => s

/-- The domain holds at the pulse ending this worked tempo: overrun was asserted or received for it (R60). -/
def holdsNow (s : State) : Bool :=
  (s.tmp.overrunSent || s.tmp.overrunFor.contains s.tmp.t.toNat) && !s.tmp.held && !s.tmp.lost

/-- A held tempo: the pulse is skipped (R60). -/
def holdPulse (s : State) : State :=
  let s := updTmp s (fun t => { t with held := true, pulses := t.pulses + 1, heldTotal := satAdd t.heldTotal 1 })
  let s := trace (choice (setTmpStatus s 1) 5 0 0 0 s.tmp.count) 3 0xFF 0 0
  startDeferred s

/-- A resume count that has come ends tempo lost (R45) or a snapshot stop (R272). -/
def resumeNow (s : State) : State :=
  match s.tmp.resumeAt with
  | some r =>
    if (s.tmp.lost || s.fab.snapStop) ∧ r ≤ s.tmp.count.toNat then
      let s := updFab s (fun f => { f with snapStop := false, status := clrBit f.status 8 })
      updTmp s (fun t => { t with lost := false, resumeAt := none, status := clrBit t.status 11 })
    else s
  | none => s

/-- A worked tempo under a variant that the module cannot run would begin: tempo lost, out of the domain (R67). -/
def unavailNow (s : State) : State :=
  match s.tmp.unavailAt with
  | some u =>
    if u ≤ s.tmp.count.toNat then exitDomain (enterLost (updTmp s (fun t => { t with unavailAt := none })) [13]) else s
  | none => s

/-- The module acts on the pulse: a tempo edge follows (R43). -/
def actOnPulse (s : State) : State :=
  let s := if s.tmp.working ∧ !s.tmp.lost ∧ !s.lock.gated then workFails s else s
  updTmp (unavailNow (resumeNow s)) (fun t => { t with edgeDue := true })

/-- A pulse of the count: inner, skipped by a hold, or acted on. -/
def takePulse (s : State) : State :=
  if s.tmp.working then
    if s.tmp.pulses + 1 < s.tmp.stride then startDeferred (updTmp s (fun t => { t with pulses := t.pulses + 1 }))
    else if holdsNow s then holdPulse s
    else actOnPulse (updTmp s (fun t => { t with pulses := t.pulses + 1 }))
  else actOnPulse s

/-- A pulse `rclk` RCLK cycles after the last one (R44, R46). -/
def pulse (s : State) (rclk : Nat) : State :=
  if !(bit s.tmp.ctrl 0) then s
  else
    let at_ := (if s.tmp.pulseSeen then s.tmp.pulseAt else s.now) + rclk * Config.scPerRclk * Config.unitsPerSc
    let bad := s.tmp.expect && (decide (rclk + 1 < periodRclk s) || decide (periodRclk s + 1 < rclk))
    let s := { s with now := max s.now at_ }
    let s := if bad then pulseFault s 0 else s
    let s := updTmp s (fun t => { t with pulseSeen := true, expect := true, pulseAt := at_ })
    let s := countPulse s
    if s.tmp.haveCount then takePulse s else s

def execTempoPulse (rclk : Nat) (s : State) : Host.Outcome State Fault Refusal := done s (fun s => pulse s rclk)

/-- Wall time is at least `t` (assumption log 2). -/
def atLeast (s : State) (t : Nat) : State := { s with now := max s.now t }

/-- No pulse within the period plus 2 RCLK cycles (R44). -/
def pulseMissing (s : State) : State :=
  if bit s.tmp.ctrl 0 && s.tmp.expect then
    let s := atLeast s (s.tmp.pulseAt + (periodRclk s + 2) * Config.scPerRclk * Config.unitsPerSc)
    pulseFault (updTmp s (fun t => { t with expect := false })) 1
  else s

def execTempoPulseMissing (s : State) : Host.Outcome State Fault Refusal := done s pulseMissing

/-- A high level of more than 4 RCLK cycles (R44). -/
def execTempoHighTooLong (s : State) : Host.Outcome State Fault Refusal :=
  done s (fun s => if bit s.tmp.ctrl 0 then pulseFault s 2 else s)

/-! ### Markers (R57 to R59, R62, R65 to R67) -/

/-- The periodic marker, 3,600 sc before the coming pulse, which it counts (R57). -/
def periodicMarker (s : State) : State :=
  if keepsCount s then
    let s := if s.tmp.pulseSeen then atLeast s (s.tmp.pulseAt + periodUnits s - Config.guardSc * Config.unitsPerSc) else s
    sendMarker s (markerPorts s) (s.tmp.count + 1).toNat 0 s.tmp.variant.toNat 0
  else s

def execPeriodicMarkerSend (s : State) : Host.Outcome State Fault Refusal := plain s periodicMarker

/-- The projection of the end of the worked tempo is evaluated: overrun, or, in a held period, runaway or stall-at-boundary (R56, R61). -/
def overrun (s : State) : State :=
  if !(projectionPassed s) ∨ s.tmp.lost ∨ s.tmp.edgeDue then s
  else if s.tmp.held then workFails s
  else if s.tmp.overrunSent then s
  else
    let s := updTmp s (fun t => { t with overrunSent := true, overrunFor := t.overrunFor ++ [t.t.toNat] })
    raiseMarker (setTmpStatus s 0) s.tmp.t.toNat 1 0 0

def execOverrun (s : State) : Host.Outcome State Fault Refusal := done s overrun

/-- Fields of a marker (Table 2.4). -/
def mkCount (m : BitVec 256) : W64 := BitVec.ofNat 64 (bits m 0 64)
def mkKind (m : BitVec 256) : Nat := bits m 70 2
def mkVariant (m : BitVec 256) : BitVec 2 := BitVec.ofNat 2 (bits m 68 2)
def mkSwitch (m : BitVec 256) : Nat := bits m 128 64
def mkPhase (m : BitVec 256) : Nat := bits m 192 32
/-- Its reserved bits are zero, and SWITCH_COUNT is where its kind has none (R16, R58). -/
def mkFormed (m : BitVec 256) : Bool :=
  decide (bits m 64 4 = 0) && decide (bits m 72 56 = 0) && decide (bits m 224 32 = 0) && (decide (mkKind m = 3) || decide (mkSwitch m = 0))

/-- The worst skew measured (TMP_SKEW), ns. -/
def noteSkew (s : State) (ns : Nat) : State :=
  updTmp s (fun t => { t with skew := if t.skew.toNat < ns then BitVec.ofNat 16 ns else t.skew })

/-- A periodic marker: the count and the phase are checked (R46, R59), or the count is taken from it (R78); the first one that comes before any pulse
is kept until the next pulse. -/
def periodicArrive (s : State) (p : Nat) (m : BitVec 256) : State :=
  if s.tmp.countFromMarker then
    if s.tmp.pulseSeen then countFrom s p (mkCount m) (mkPhase m)
    else if s.tmp.keptMarker.isSome then s
    else updTmp s (fun t => { t with keptMarker := some (Fin.ofNat 16 p, mkCount m, nowSc s - (portAt s p).lat.toNat - mkPhase m) })
  else if !s.tmp.pulseSeen ∨ !s.tmp.haveCount then s
  else
    let theirs := mkPhase m + (portAt s p).lat.toNat
    let diff := ((theirs : Int) - (phaseSc s : Nat)).natAbs
    let ns := min (diff * 5 / 12) 65535
    let s := noteSkew s ns
    let s := if mkCount m = s.tmp.count + 1 then s else lostFault s 12 0x19 2 p (p * 2 ^ 40)
    if 600 < diff then lostFault s 3 0x1A 2 p (p * 2 ^ 40 + ns * 2 ^ 24) else s

/-- The module has acted on the pulse that ended worked tempo `t`. -/
def tempoEnded (s : State) (t : Nat) : Bool :=
  (s.tmp.ended && decide (t ≤ s.tmp.lastT.toNat)) || (s.tmp.edgeDue && s.tmp.working && decide (t = s.tmp.t.toNat))

/-- Hold divergence (R62, R65). -/
def diverge (s : State) (p count : Nat) : State := lostFault s 4 0x1E 2 p count

def overrunArrive (s : State) (p count : Nat) : State :=
  let late := tempoEnded s count && !(s.tmp.overrunFor.contains count) && !s.tmp.lost
  let s := if late then diverge s p count else s
  if s.tmp.overrunFor.contains count then s else updTmp s (fun t => { t with overrunFor := t.overrunFor ++ [count] })

/-- A marker names a variant that the module cannot follow: the fault at receipt, and tempo lost at the switch (R67). -/
def variantUnavailable (s : State) (p v count : Nat) : State :=
  let s := raiseAt s 0x28 [] [] 2 p 0 (v * 2 ^ 42 + p * 2 ^ 38)
  updTmp s (fun t => { t with unavailAt := some (match t.unavailAt with | some u => min u count | none => count) })

/-- A throttle marker (R65). One that comes after its worked tempo's end is a hold divergence alone, even where it names a variant that the module
lacks (assumption log 65). -/
def throttleArrive (s : State) (p count : Nat) (v : BitVec 2) : State :=
  if tempoEnded s count then
    let higher := match taken s count with | some u => decide (u.toNat < v.toNat) | none => true
    if higher && !s.tmp.lost then diverge s p count else s
  else if !(canFollow s v.toNat) then variantUnavailable s p v.toNat (count + lead s)
  else updTmp s (fun t => { t with throttles := t.throttles ++ [(count, v)] })

def announceArrive (s : State) (p switch : Nat) (v : BitVec 2) : State :=
  if canFollow s v.toNat then addSwitch s switch v else variantUnavailable s p v.toNat switch

/-- A marker of kind 1 to 3 goes on once per count and kind (R57). -/
def forwardMarker (s : State) (p : Nat) (m : BitVec 256) : State :=
  let key := ((mkCount m).toNat, mkKind m)
  if s.tmp.forwarded.contains key then s
  else
    sendMarker (updTmp s (fun t => { t with forwarded := key :: t.forwarded })) ((markerPorts s).filter (fun q => decide (q ≠ p)))
      (mkCount m).toNat (mkKind m) (mkVariant m).toNat (mkSwitch m)

/-- One copy of a marker: the first good copy is used, the others discarded (R57). -/
def markerArrive (s : State) (p : Nat) (crcOk : Bool) (m : BitVec 256) : State :=
  if !(bit s.tmp.ctrl 0) ∨ p ∉ markerPorts s then s
  else if !crcOk then updPort s p (fun x => { x with crcN := satAdd x.crcN 1 })
  else
    let key := (p, (mkCount m).toNat, bits m 64 128)
    if s.tmp.copiesUsed.contains key ∨ !(mkFormed m) then s
    else
      let s := updTmp s (fun t => { t with copiesUsed := key :: t.copiesUsed })
      let c := (mkCount m).toNat
      match mkKind m with
      | 0 => periodicArrive s p m
      | 1 => overrunArrive (forwardMarker s p m) p c
      | 2 => throttleArrive (forwardMarker s p m) p c (mkVariant m)
      | _ => announceArrive (forwardMarker s p m) p (mkSwitch m) (mkVariant m)

def execMarkerReceive (p : PortId) (_copy : Fin 3) (crcOk : Bool) (payload : BitVec 256) (s : State) : Host.Outcome State Fault Refusal :=
  done s (fun s => markerArrive s p crcOk payload)

/-! ### The stalemate detector (R69) -/

/-- Nothing in flight can signal an object. -/
def noSignalFor (x : Core) (o : Nat) : Bool :=
  x.ops.all (fun a => decide (a.sop = 0) || decide (a.sobj.toNat ≠ o)) && x.sigs.all (fun g => decide (g.sobj ≠ o))

def stalemate (s : State) (c : Nat) : State :=
  let x := coreAt s c
  match waitObject x .access, waitObject x .execute with
  | some a, some e =>
    if a < 0xC0 ∧ e < 0xC0 ∧ noSignalFor x a ∧ noSignalFor x e then
      let n := logicalOf s c
      lostFault s 7 0x1D 0 n (n * 2 ^ 38 + a * 2 ^ 30 + e * 2 ^ 22)
    else s
  | _, _ => s

def execStalemateTimeout (c : CoreId) (s : State) : Host.Outcome State Fault Refusal :=
  done s (fun s => if enabledCore s c then stalemate s c else s)

/-! ### TMP registers with rows of their own (R77, R78, Table 2.9) -/

def resumeCount (s : State) : Nat := (join64 s.tmp.resumeHi s.tmp.resumeLo).toNat

/-- A write of TMP_CTRL that the module refuses: EN falls with a bolt loaded, or a resume without a count or with one below the current
plus 2 (R45, R78, R438). -/
def tmpCtrlBad (s : State) (v : W32) : Bool :=
  (bit s.tmp.ctrl 0 && !(bit v 0) && !(loadedCtxs s).isEmpty) ||
  (bit v 2 && !(bit v 0 && keepsCount s && decide (s.tmp.count.toNat + 2 ≤ resumeCount s)))

/-- EN falls: no pulse, no worked tempo, no count (R78). -/
def tempoOff (s : State) : State :=
  updTmp s (fun t => { t with
    haveCount := false, count := 0, working := false, pulseSeen := false, expect := false, edgeDue := false, held := false
    countFromMarker := false, keptMarker := none, overrunSent := false, pulses := 0 })

/-- A write of TMP_CTRL. -/
def writeTmpCtrl (s : State) (v : W32) : State :=
  if tmpCtrlBad s v then tmpCfgErr s
  else
    let was := bit s.tmp.ctrl 0
    let s := updTmp s (fun t => { t with ctrl := v &&& 3 })
    let s := if was && !(bit v 0) then tempoOff s else s
    let s := if !was && bit v 0 && bit s.glb.boot 5 then enterLost (updTmp s (fun t => { t with countFromMarker := true })) [] else s
    if bit v 2 then updTmp s (fun t => { t with resumeAt := some (resumeCount s) }) else s

def execTempoResume (fn : FnId) (val : W32) (s : State) : Host.Outcome State Fault Refusal :=
  done s (fun s => stewardDo s fn (fun s => writeTmpCtrl s val))
def execTempoEnable (fn : FnId) (val : W32) (s : State) : Host.Outcome State Fault Refusal :=
  done s (fun s => stewardDo s fn (fun s => writeTmpCtrl s val))

/-- TMP_VARIANT_SET announces a switch (R66, R67, R438). -/
def writeVariantSet (s : State) (v : W32) : State :=
  let target := bits v 0 2
  let count := (join64 s.tmp.setHi s.tmp.setLo).toNat
  if !(canFollow s target) ∨ !(keepsCount s) ∨ count < s.tmp.count.toNat + lead s ∨ !(switchRoom s) then tmpCfgErr s
  else raiseMarker (addSwitch s count (BitVec.ofNat 2 target)) s.tmp.count.toNat 3 target count

def execVariantAnnounce (fn : FnId) (val : W32) (s : State) : Host.Outcome State Fault Refusal :=
  plain s (fun s => stewardDo s fn (fun s => writeVariantSet s val))

/-- TMP_COUNT reads zero while no count is kept (R78). -/
def readCountLo (s : State) : W32 × State :=
  (lo32 (countNow s), updTmp s (fun t => { t with countHiLatch := some (hi32 (countNow s)) }))
def readCountHi (s : State) : W32 × State :=
  match s.tmp.countHiLatch with
  | some w => (w, updTmp s (fun t => { t with countHiLatch := none }))
  | none => (hi32 (countNow s), s)

/-- The count of the earliest pending switch. -/
def firstSwitch (s : State) : W64 := match s.tmp.switches with | p :: _ => BitVec.ofNat 64 p.1 | [] => 0
def readSwitchLo (s : State) : W32 × State :=
  (lo32 (firstSwitch s), updTmp s (fun t => { t with switchHiLatch := some (hi32 (firstSwitch s)) }))
def readSwitchHi (s : State) : W32 × State :=
  match s.tmp.switchHiLatch with
  | some w => (w, updTmp s (fun t => { t with switchHiLatch := none }))
  | none => (hi32 (firstSwitch s), s)

/-- What a register read returned. -/
def readInto (r : W32 × State) : State := { r.2 with readData := r.1 }

/-- Every function reads the TMP block; an unconfigured PF decodes only GLB and BSC (R77, R316). -/
def execTmpCountLoRead (_fn : FnId) (s : State) : Host.Outcome State Fault Refusal :=
  plain s (fun s => if s.glb.unconfigured then { s with readData := 0 } else readInto (readCountLo s))
def execTmpSwitchCountLoRead (_fn : FnId) (s : State) : Host.Outcome State Fault Refusal :=
  plain s (fun s => if s.glb.unconfigured then { s with readData := 0 } else readInto (readSwitchLo s))

/-- TMP_CLEAR: every counter of the block (R77). -/
def clearTmp (s : State) : State :=
  let s := updTmp s (fun t => { t with heldTotal := 0, hemMax := 0, devCount := 0 })
  let s := forAll (List.range 72) s (fun s c => updCore s c (fun x => { x with slip := 0, waitSlips := 0, rereads := 0 }))
  forAll (List.range 16) s (fun s p => updPort s p (fun x => { x with retries := 0, retryNc := 0 }))

def execTmpClear (fn : FnId) (val : W32) (s : State) : Host.Outcome State Fault Refusal :=
  plain s (fun s => stewardDo s fn (fun s => if bit val 0 then clearTmp s else s))

end Sys2Proof.Machine
end

