-- ==== Sys2Proof/Machine/Host.lean ====
section
/-! DEFINITION. PCIe functions and their rings: acceptance of host commands, doorbells, MSI-X, binding and partition of contexts,
function-level reset, port B as a trace channel, and the PCIe link (11). -/

namespace Sys2Proof.Machine

/-! ### Acceptance (R325, R326) -/

/-- A PF, or a VF that is enabled on a configured module (R316). -/
def fnEnabled (s : State) (f : Nat) : Bool := fnIsPf f || ((fnAt s f).enabled && !s.glb.unconfigured)

/-- The function's BAR0 and BAR2 decode their blocks: not on an unconfigured module (R316). -/
def hostReach (s : State) (f : Nat) : Bool := fnEnabled s f && !s.glb.unconfigured

/-- An entry of the submission ring can be fetched: one is new, and its completion ring has a free entry to reserve (R326). -/
def fetchable (s : State) (f q : Nat) : Bool :=
  let p := qpAt (fnAt s f) q
  hostReach s f && qpEnabled p && decide (p.sqHead ≠ p.sqTail) &&
    decide (p.open_ < cqSize p - 1 - (p.cqTail + cqSize p - p.cqHead) % cqSize p)

/-- The header's reserved bits are zero and its OPCODE is `op` (Table 11.5, R16). -/
def hdrOk (hdr : BitVec 512) (op : Nat) : Bool :=
  decide (bits hdr 16 8 = op) && decide (bits hdr 24 7 = 0) && decide (bits hdr 32 480 = 0)

/-- A fetched command of opcode `op` is checked and accepted as the next command; `run` carries it out under its number. -/
def hostCmd (s : State) (f q : Nat) (hdr : BitVec 512) (op : Nat) (bodyOk : Bool) (run : State → Nat → State) : State :=
  if !(fetchable s f q) then s
  else
    let id := s.nextCmd
    let s := updQp s f q (fun p => { p with sqHead := (p.sqHead + 1) % sqSize p, open_ := p.open_ + 1 })
    let c : Cmd := ⟨id, f, q, BitVec.ofNat 16 (bits hdr 0 16), bit hdr 31, (fnCtx s f).getD 16, .other, false, none, false⟩
    let s := { s with cmds := s.cmds ++ [c], nextCmd := id + 1 }
    if hdrOk hdr op && bodyOk then run s id else finishCmd s id 1 0 0

def updCmd (s : State) (id : Nat) (g : Cmd → Cmd) : State :=
  { s with cmds := s.cmds.map (fun c => if c.id = id then g c else c) }

/-- The command goes on for a context in one of the states that Table 11.6 allows; a parked context's park ends (R427). -/
def forCtx (s : State) (id : Nat) (k : Option Nat) (none_ : Nat) (ok : CtxSt → Bool) (run : State → Nat → State) : State :=
  match k with
  | none => finishCmd s id none_ 0 0
  | some k =>
    if ok (ctxAt s k).st then run (unpark (updCmd s id (fun c => { c with ctx := k })) k) k
    else finishCmd s id 0x11 0 0

def stRunning (st : CtxSt) : Bool := decide (st = .running)
def stLoaded (st : CtxSt) : Bool := decide (st = .loaded)
def stLoadRun (st : CtxSt) : Bool := stRunning st || stLoaded st
def stBound (st : CtxSt) : Bool := decide (st ≠ .unbound)

/-! ### Doorbells (R328) and MSI-X (R318) -/

def dbIgnored (s : State) (f : Nat) : State := updFn s f (fun x => { x with dbErr := satAdd x.dbErr 1 })

/-- A ring doorbell: a single 4 B write to offset 0 of its page, an index of an enabled ring; others are ignored and counted. -/
def ringDoorbell (s : State) (f off size : Nat) (val : W64) (enabled : Bool) (ring : Nat) (set : State → Nat → State) : State :=
  if !(hostReach s f) then s
  else if size ≠ 4 ∨ off ≠ 0 ∨ !enabled ∨ ring ≤ bits val 0 16 then dbIgnored s f
  else set s (bits val 0 16)

def execSqTailDoorbell (fn : FnId) (q : Fin 4) (off size : Nat) (val : W64) (s : State) : Host.Outcome State Fault Refusal :=
  let p := qpAt (fnAt s fn) q
  plain s (fun s => ringDoorbell s fn off size val (qpEnabled p) (sqSize p) (fun s i => updQp s fn q (fun p => { p with sqTail := i })))

def execCqHeadDoorbell (fn : FnId) (q : Fin 4) (off size : Nat) (val : W64) (s : State) : Host.Outcome State Fault Refusal :=
  let p := qpAt (fnAt s fn) q
  plain s (fun s => ringDoorbell s fn off size val (qpEnabled p) (cqSize p) (fun s i => updQp s fn q (fun p => { p with cqHead := i })))

/-- The event ring's head moves, and held events follow (R330). -/
def execEventHeadDoorbell (fn : FnId) (off size : Nat) (val : W64) (s : State) : Host.Outcome State Fault Refusal :=
  let x := fnAt s fn
  plain s (fun s => ringDoorbell s fn off size val (evtEnabled x) (evtSize x) (fun s i =>
    evtDrain 64 (updFn s fn (fun x => { x with evtHead := i })) fn))

/-- The vector's mask bit in the MSI-X table: bit 0 of the entry's last word. -/
def msixMasked (x : Fn) (v : Nat) : Bool := bit (tget 0 x.msixTable (4 * v + 3)) 0

/-- A due vector is sent unless masked, and at most once per 2 µs (R318). -/
def sendMsix (s : State) (f : FnId) (v : Nat) : State :=
  let x := fnAt s f
  if bit x.msix v && !(msixMasked x v) && decide (tget 0 x.msixNext v ≤ s.now) then
    updFn { s with wire := s.wire ++ [.msix f v] } f (fun x => { x with
      msix := clrBit x.msix v, msixNext := tset 0 x.msixNext v (s.now + usSc 2 * Config.unitsPerSc) })
  else s

def execMsixSend (fn : FnId) (vec : Fin 64) (s : State) : Host.Outcome State Fault Refusal := plain s (fun s => sendMsix s fn vec)

/-! ### HQ registers of a function (R339, Table 11.15) -/

/-- HQ's CFG_ERR. -/
def hqCfgErr (s : State) : State := { s with ctxStatus := orBit s.ctxStatus 0 }

def aligned4k (lo : W32) : Bool := decide (bits lo 0 12 = 0)

/-- HQ_QCFG: its fields change only while EN is 0 and every command has completed; clearing EN stops fetching. -/
def writeQcfg (s : State) (f q : Nat) (v : W32) : State :=
  let p := qpAt (fnAt s f) q
  if qpEnabled p then
    if bit v 31 then hqCfgErr s else updQp s f q (fun p => qpSettle { p with qcfg := clrBit p.qcfg 31 })
  else
    let sq := bits v 0 4
    let cq := bits v 4 4
    if p.open_ ≠ 0 ∨ sq < 4 ∨ 12 < sq ∨ cq < 4 ∨ (bit v 31 ∧ !(aligned4k p.sqLo && aligned4k p.cqLo)) then hqCfgErr s
    else updQp s f q (fun p => { p with qcfg := v &&& 0x803F00FF })

def execQueueEnable (fn : FnId) (q : Fin 4) (val : W32) (s : State) : Host.Outcome State Fault Refusal :=
  plain s (fun s => if hostReach s fn then writeQcfg s fn q val else s)

/-- HQ_EVT_CFG, in the same way; an enabled ring begins at index 0 with PHASE 1, and takes the held events. -/
def writeEvtCfg (s : State) (f : Nat) (v : W32) : State :=
  let x := fnAt s f
  let n := bits v 0 4
  if evtEnabled x then
    if bit v 31 then hqCfgErr s else updFn s f (fun x => { x with evtCfg := clrBit x.evtCfg 31, evtTail := 0, evtHead := 0, evtPhase := true })
  else if n < 4 ∨ 12 < n ∨ (bit v 31 ∧ !(aligned4k x.evtLo)) then hqCfgErr s
  else evtDrain 64 (updFn s f (fun x => { x with evtCfg := v &&& 0x803F000F, evtTail := 0, evtHead := 0, evtPhase := true })) f

/-- HQ_CLEAR: the function's counters. -/
def clearHq (s : State) (f : Nat) : State := updFn s f (fun x => { x with dbErr := 0, evtLost := 0 })

def execHqClear (fn : FnId) (val : W32) (s : State) : Host.Outcome State Fault Refusal :=
  plain s (fun s => if hostReach s fn && bit val 0 then clearHq s fn else s)

/-! ### Binding and partition (R321, R322, R428 to R430) -/

def selCtx (s : State) : Nat := bits s.ctxSel 0 4

/-- The function that an HQ_CTX_BIND word names. -/
def bindFn (b : W32) : Option Nat := fnOfBind (bit b 8) (bits b 4 4)
/-- The context is bound, or its binding waits for the edge. -/
def claims (c : Ctx) : Bool := bit c.bind.acc 31 || decide (c.st ≠ .unbound)

/-- A partition's clusters are live, not another context's, and not being cleared (R322, R410). -/
def clustersOk (s : State) (k : Nat) (v : Nat) : Bool :=
  (List.range 18).all (fun cl => decide (v / 2 ^ cl % 2 = 0) ||
    (clusterLive s cl && !(bit s.bsc.clearing cl) &&
      (List.range 16).all (fun o => decide (o = k) || !(claims (ctxAt s o)) ||
        !(bit (ctxAt s o).clusters.acc cl || bit (ctxAt s o).clusters.eff cl))))

/-- A write of HQ_CTX_BIND is allowed. -/
def bindOk (s : State) (k : Nat) (v : W32) : Bool :=
  let c := ctxAt s k
  let valid := bit v 31
  match bindFn v with
  | none => false
  | some f =>
    decide (c.st ≠ .running) && !(decide (c.st = .loaded) && valid) &&
    (!valid || (fnEnabled s f && !(fnPortB f && s.glb.traceActive) && (bit c.bind.acc 31 || clustersOk s k c.clusters.acc.toNat) &&
      (List.range 16).all (fun o => decide (o = k) || !(bit (ctxAt s o).bind.acc 31) || decide (bindFn (ctxAt s o).bind.acc ≠ some f))))

/-- Idle clusters of an accepted binding wake (R430). -/
def wakeAccepted (s : State) (k : Nat) : State :=
  if bit (ctxAt s k).bind.acc 31 then forAll ((List.range 18).filter (fun cl => bit (ctxAt s k).clusters.acc cl)) s wakeCluster else s

def writeBind (s : State) (v : W32) : State :=
  let k := selCtx s
  if bindOk s k v then wakeAccepted (updCtx s k (fun c => { c with bind := { c.bind with acc := v &&& 0x800001F0 } })) k
  else hqCfgErr s

/-- A write of HQ_CTX_CLUSTERS: only while UNBOUND or BOUND. -/
def writeClusters (s : State) (v : W32) : State :=
  let k := selCtx s
  let st := (ctxAt s k).st
  if (st = .unbound ∨ st = .bound) ∧ clustersOk s k (bits v 0 18) then
    wakeAccepted (updCtx s k (fun c => { c with clusters := { c.clusters with acc := v &&& 0x3FFFF } })) k
  else hqCfgErr s

/-- FORCE_STOP at the next edge (R323). -/
def writeCtxCtrl (s : State) (v : W32) : State :=
  if bit v 0 ∧ (ctxAt s (selCtx s)).st = .running then updCtx s (selCtx s) (fun c => { c with force := true }) else s

def execContextBind (fn : FnId) (val : W32) (s : State) : Host.Outcome State Fault Refusal :=
  plain s (fun s => stewardDo s fn (fun s => writeBind s val))
def execPartitionWrite (fn : FnId) (val : W32) (s : State) : Host.Outcome State Fault Refusal :=
  plain s (fun s => stewardDo s fn (fun s => writeClusters s val))
def execForceStop (fn : FnId) (val : W32) (s : State) : Host.Outcome State Fault Refusal :=
  plain s (fun s => stewardDo s fn (fun s => writeCtxCtrl s val))

/-! ### Port B as a trace channel (R336) -/

/-- A context is bound to a port-B function, in effect or accepted. -/
def portBBound (s : State) : Bool :=
  (List.range 16).any (fun k =>
    let c := ctxAt s k
    (bit c.bind.acc 31 && bit c.bind.acc 8) || (bit c.bind.eff 31 && bit c.bind.eff 8))

def portBVfs (s : State) : Bool := ((List.range 8).map (· + 10)).any (fun f => (fnAt s f).enabled)

/-- GLB_TRACE_CTRL: EN is refused on the steward port, with a port-B binding or with port-B VFs. -/
def writeTrace (s : State) (v : W32) : State :=
  let bad := bit v 0 && !(bit s.glb.traceCtrl 0) && (s.glb.stewardB || portBBound s || portBVfs s)
  let err (w : W32) : W32 := w1c w (v &&& 4)
  if bad then updGlb s (fun g => { g with traceCtrl := orBit (err g.traceCtrl) 2 })
  else updGlb s (fun g => { g with traceCtrl := (err g.traceCtrl &&& 4) ||| (v &&& 0xFF01) })

def execTraceModeRequest (fn : FnId) (val : W32) (s : State) : Host.Outcome State Fault Refusal :=
  plain s (fun s => stewardDo s fn (fun s => writeTrace s val))

/-! ### WLOAD destinations, as an abandoned load needs them (R324, R333) -/

/-- Write host data to a destination: 0 tier column, 1 own store, 2 spool chunks from SPOOL_TAIL. False: a merge was abandoned. -/
def loadWrite (s : State) (c dkind laddr : Nat) (bs : List Byte) : Bool × State :=
  if dkind = 0 then writeColumn s c (laddr - 0x10000000) bs
  else if dkind = 1 then flowStoreWrite s c laddr bs
  else
    let x := coreAt s c
    let base := 512 * spoolBlock x
    (true, forAll (List.range (bs.length / 1024)) s (fun s i =>
      (writeColumn s c (base + 1024 * ((spoolTail x + i) % spoolChunks x)) (slice bs (1024 * i) 1024)).2))

/-- The whole destination becomes zeros with valid CRC. -/
def loadZero (s : State) (k : CmdKind) : State :=
  match k with
  | .wload d c a n _ _ _ _ => (loadWrite s c d a (List.replicate n 0)).2
  | _ => s

/-! ### Function-level reset (R315, R324) -/

/-- An outstanding command of the function is abandoned without a completion. -/
def abandon (s : State) (c : Cmd) : State :=
  let s := { s with cmds := s.cmds.filter (fun x => decide (x.id ≠ c.id)) }
  match c.kind with
  | .wload .. => if c.started then loadZero s c.kind else s
  | .boltLoad .. =>
    match (ctxAt s c.ctx).fill with
    | some f => if f.cmd = c.id then boltFail s c.ctx c.id 0 0 f.ranges else s
    | none => s
  | .admission _ => updSrv s (fun x => { x with admits := x.admits.filter (fun i => decide (i ≠ c.id)) })
  | .cancel _ => updSrv s (fun x => { x with cancels := x.cancels.filter (fun i => decide (i ≠ c.id)) })
  | .patchLoad slot .. => setPatch s slot {}
  | .patchDrop _ => s
  | .other => s

/-- The rings of a function are disabled, with their indices at 0. -/
def ringsOff (x : Fn) : Fn :=
  { x with
    qp := (List.range 4).foldl (fun (t : Tbl QPair) q => tupd {} t q (fun p =>
      { p with qcfg := clrBit p.qcfg 31, sqHead := 0, sqTail := 0, cqHead := 0, cqTail := 0, phase := true, open_ := 0 })) x.qp
    evtCfg := clrBit x.evtCfg 31, evtTail := 0, evtHead := 0, evtPhase := true, msix := 0 }

/-- DMA to the steward's host stops, and with it the choice ring, until it is enabled again (R324, R387; assumption log 69). -/
def choiceOff (s : State) (f : Nat) : State := if isSteward s f then updSaf s (fun x => { x with choiceOn := false }) else s

/-- A function-level reset. -/
def flr (s : State) (f : Nat) : State :=
  let s := choiceOff (updFn s f ringsOff) f
  let s := forAll (s.cmds.filter (fun c => decide (c.fn = f))) s abandon
  match fnCtx s f with
  | none => s
  | some k => updCtx s k (fun c => { c with
      runAt := none, runCmd := none, stopAt := none, stopCmd := none
      force := c.force || decide (c.st = .running), flr := decide (c.st = .running) })

def execFunctionLevelReset (fn : FnId) (s : State) : Host.Outcome State Fault Refusal :=
  done s (fun s => if fnEnabled s fn then flr s fn else s)

/-- The functions of a PCIe port. -/
def portFns (p : PciePort) : List Nat := match p with | .a => List.range 9 | .b => (List.range 9).map (· + 9)
def portNo (p : PciePort) : Nat := match p with | .a => 0 | .b => 1

def flrPort (s : State) (p : PciePort) : State := forAll (portFns p) s flr

/-- GLB_PCIE_A and GLB_PCIE_B. -/
def pcieWord (s : State) (p : PciePort) : W32 := match p with | .a => s.glb.pcieA | .b => s.glb.pcieB
def setPcieWord (s : State) (p : PciePort) (w : W32) : State :=
  match p with | .a => updGlb s (fun g => { g with pcieA := w }) | .b => updGlb s (fun g => { g with pcieB := w })

/-- A link goes down: a reset of every function of the port, and, where it was up, the event of KIND 0x02 (R315, R330). -/
def linkDown (s : State) (p : PciePort) : State :=
  let was := bit (pcieWord s p) 7
  let s := setPcieWord (flrPort s p) p 0
  if was then postSteward s 2 0 0 (16 + portNo p) 0 else s

def execPcieLinkDown (p : PciePort) (s : State) : Host.Outcome State Fault Refusal := done s (fun s => linkDown s p)
def execPcieHotReset (p : PciePort) (s : State) : Host.Outcome State Fault Refusal := done s (fun s => flrPort s p)

def perstLow (p : PciePort) (s : State) : Bool := match p with | .a => !s.pwr.perstA | .b => !s.pwr.perstB

/-- The level of PERST_x_N. -/
def setPerst (s : State) (p : PciePort) (level : Bool) : State :=
  match p with
  | .a => updPwr s (fun x => { x with perstA := level })
  | .b => updPwr s (fun x => { x with perstB := level })

/-- PERST_x_N falls: it acts on its port as a link loss (R422); its level is kept in any condition of the module. -/
def perstFall (s : State) (p : PciePort) : State :=
  let s := setPerst s p false
  if live s then settle (linkDown s p) else s

def execPerstAssert (p : PciePort) (s : State) : Host.Outcome State Fault Refusal := .next (answer s (perstFall s p))

def execPerstDeassert (p : PciePort) (s : State) : Host.Outcome State Fault Refusal := .next (answer s (setPerst s p true))

/-- Training of a PCIe link ends: GLB_PCIE_x and the event (R330). -/
def execPcieLinkUp (p : PciePort) (speed : BitVec 4) (flit : Bool) (width : BitVec 6) (s : State) : Host.Outcome State Fault Refusal :=
  done s (fun s =>
    if perstLow p s then s
    else
      let was := bit (pcieWord s p) 7
      let s := setPcieWord s p (BitVec.ofNat 32 (speed.toNat * 256 + 128 + b2n flit * 64 + width.toNat))
      if was then s else postSteward s 2 0 0 (2 ^ 31 + 16 + portNo p) 0)

/-- SR-IOV enables a number of VFs; not on port B in trace mode, nor on an unconfigured module (R316, R336). -/
def writeVfs (s : State) (p : PciePort) (n : Nat) : State :=
  let b : Bool := match p with | .a => false | .b => true
  if s.glb.unconfigured || decide (8 < n) || (b && s.glb.traceActive) then s
  else forAll (List.range 8) s (fun s i =>
    updFn s (i + (if b then 10 else 1)) (fun x => { x with enabled := decide (i < n) }))

end Sys2Proof.Machine
end

