-- ==== Sys2Proof/Machine/Control.lean ====
section
/-! DEFINITION. Writes of core control words, by the service complex or by a bolt's control-word list, and how they take effect at a
tempo edge (R47, R135, R150, R161, R170, Tables 4.17 and 5.10). -/

namespace Sys2Proof.Machine

/-- A spool of base and size lies within the tier column, from a 1 KiB boundary (Table 4.17). -/
def spoolOk (base size : W32) : Bool :=
  decide (base.toNat % 1024 = 0) && decide (0x10000000 ≤ base.toNat) && decide (base.toNat + 1024 * (bits size 0 18 + 1) ≤ 0x1C000000)

/-- A write of SPOOL_BASE or SPOOL_SIZE starts a new spool: at once in maintenance mode, at the next tempo edge otherwise (R135). -/
def writeSpoolWord (s : State) (c off : Nat) (v : W32) : State × Bool :=
  let x := coreAt s c
  let base := if off = 0x200 then v else cwAt x 0x200
  let size := if off = 0x204 then v &&& 0x8003FFFF else cwAt x 0x204
  let w := if off = 0x200 then base else size
  if !(spoolOk base size) then (s, false)
  else if x.maint then (setCore s c { setCwEff (setCw x off w) off w with spoolHead := 0, spoolOld := 0 }, true)
  else (setCore s c { setCw x off w with spoolNew := true }, true)

/-- The words of a region place it within the own store (R161). -/
def ringFits (base cfg : W32) : Bool := decide (bits base 0 17 + (bits cfg 0 8 + 1) * (bits cfg 8 12 + 1) ≤ Config.storeLines)

/-- A RING_BIND value names objects of the right kinds (R161). -/
def bindKindsOk (bind : W32) : Bool := isArrival (bits bind 8 8) && isCounter (bits bind 0 8)

/-- A write of a ring word; RING_PTR is read-only. -/
def writeRingWord (s : State) (c off : Nat) (v : W32) : State × Bool :=
  let x := coreAt s c
  let k := off % 16
  let b := off - k
  let w := v &&& (if k = 0 then 0x1FFFF else if k = 4 then 0xFFFFF else 0x8000FFFF)
  if k = 12 then (s, true)
  else if k = 8 then (if bindKindsOk w then setCore s c (setCw x off w) else s, bindKindsOk w)
  else if ringFits (if k = 0 then w else cwAt x b) (if k = 4 then w else cwAt x (b + 4)) then (setCore s c (setCw x off w), true)
  else (s, false)

/-- The bits of NEIGH_EN that the core may set (R150). -/
def neighMask (s : State) (c : Nat) (v : W32) : W32 :=
  BitVec.ofNat 32 ((List.range 4).foldl (fun a d => a + (if bit v d && neighbourOk s c d then 2 ^ d else 0)) 0)

/-- A write of a word of the core control region with the service complex's rights; false where its description refuses it. -/
def writeCoreWord (s : State) (c off : Nat) (v : W32) : State × Bool :=
  if isSyncWord off then writeSync s c off v
  else if off = 0x008 then (updCore s c (fun x => setCw x off (neighMask s c v)), true)
  else if off = 0x00C then (updCore s c (fun x => { x with storeFault := w1c x.storeFault v }), true)
  else if off = 0x048 then
    if bits v 0 2 = 3 then (s, false) else (updCore s c (fun x => setCw x off (v &&& 3)), true)
  else if off = 0x070 then (if bit v 0 then updCore s c clearCoreCounts else s, true)
  else if off = 0x200 ∨ off = 0x204 then writeSpoolWord s c off v
  else if off = 0x20C then
    let w := v &&& 0x3FFFF
    (updCore s c (fun x => setCwEff (setCw x off w) off w), true)
  else if 0x400 ≤ off ∧ off < 0x500 then writeRingWord s c off v
  else (s, true)

/-! ### At a tempo edge -/

/-- A region's words take effect; enabling one sets its fill count equal to the release counter's value, so it starts empty (R161). -/
def ringEdge (x : Core) (r : Nat) : Core :=
  let b := 0x400 + 16 * r
  let x := [b, b + 4, b + 8].foldl (fun (x : Core) (o : Nat) => setCwEff x o (cwAt x o)) x
  let on := bit (cwEffAt x (b + 8)) 31
  updRing x r (fun g => { g with
    fill := if on && !g.enabled then (syncAt x (ringRel x r)).val else g.fill, enabled := on, sources := [] })

/-- Accepted control words take effect (R47); NEIGH_EN follows the partitions and idle clusters of the edge (`neighEdge`). -/
def cwEdge (s : State) (c : Nat) : State :=
  updCore s c (fun x =>
    let x := setCwEff x 0x048 (cwAt x 0x048)
    let x := if x.spoolNew then
        { setCwEff (setCwEff x 0x200 (cwAt x 0x200)) 0x204 (cwAt x 0x204) with spoolNew := false, spoolHead := 0, spoolOld := 0 }
      else x
    (List.range 16).foldl ringEdge x)

end Sys2Proof.Machine
end

