-- ==== Sys2Proof/Machine/Weights.lean ====
section
/-! DEFINITION. Host commands NOP, WLOAD, RDOUT, HOSTCOPY, RUN and STOP (R323, R331 to R335, R352, R404, R408). -/

namespace Sys2Proof.Machine

/-- The `n` bytes of a command's body from byte `b`, as a number. -/
def bodyNat (body : BitVec 1536) (b n : Nat) : Nat := bits body (8 * b) (8 * n)

/-- The body is zero from byte `b` on. -/
def bodyEnds (body : BitVec 1536) (b : Nat) : Bool := decide (body.toNat / 2 ^ (8 * b) = 0)

def aligned (a n : Nat) : Bool := decide (a % n = 0)

/-! ### NOP -/

def execHostNop (fn : FnId) (q : Fin 4) (hdr : BitVec 512) (body : BitVec 1536) (s : State) : Host.Outcome State Fault Refusal :=
  done s (fun s => hostCmd s fn q hdr 0x00 (bodyEnds body 0) (fun s id => finishCmd s id 0 0 0))

/-! ### The target of WLOAD and RDOUT (Table 11.6, R333) -/

/-- The physical core of a logical number, and the context that a function's command for it targets: its own, or, for the steward PF,
the one whose partition holds the core. -/
def loadTarget (s : State) (f core : Nat) : Option Nat :=
  if isSteward s f then (physicalOf s core).bind (ctxOfCore s) else fnCtx s f

/-- A store that is being cleared takes no outside access (R169): a store destination on it is refused like one outside the partition
(assumption log 66). -/
def storeOpen (s : State) (c kind : Nat) : Bool := decide (kind ≠ 1) || !(coreAt s c).clearing

/-- The core is in a context's partition. -/
def inCtx (s : State) (k core : Nat) : Option Nat :=
  match physicalOf s core with
  | some c => if ctxOfCore s c = some k ∧ bit s.bsc.clearing (clusterOf c) = false then some c else none
  | none => none

/-- The bytes of a region: 0 tier column, 1 own store, 2 control region. -/
def regionLo (k : Nat) : Nat := if k = 0 then 0x10000000 else if k = 1 then 0 else 0x40000000
def regionLen (k : Nat) : Nat := if k = 0 then 0xC000000 else if k = 1 then 0x800000 else 0x2000
def inRegion (k a n : Nat) : Bool := decide (regionLo k ≤ a) && decide (a + n ≤ regionLo k + regionLen k)

/-! ### WLOAD (R332, R333) -/

def wlKind (b : BitVec 1536) : Nat := bits b 30 2
def wlCore (b : BitVec 1536) : Nat := bits b 24 6
def wlAen (b : BitVec 1536) : Bool := bit b 23
def wlArrive (b : BitVec 1536) : Nat := bits b 8 8
def wlKey (b : BitVec 1536) : Nat := bits b 0 3
def wlAddr (b : BitVec 1536) : Nat := bits b 32 32
def wlHost (b : BitVec 1536) : Nat := bits b 64 64
def wlLen (b : BitVec 1536) : Nat := bits b 128 32
def wlSig (b : BitVec 1536) : Nat := bits b 192 64

/-- The body is well formed (Table 11.11, R16). -/
def wlBodyOk (b : BitVec 1536) : Bool :=
  decide (bits b 3 5 = 0) && decide (bits b 16 7 = 0) && decide (bits b 160 32 = 0) && bodyEnds b 32 &&
  decide (wlKind b < 3) && aligned (wlAddr b) 64 && (decide (wlKind b ≠ 2) || decide (wlAddr b = 0)) &&
  aligned (wlHost b) 64 && aligned (wlSig b) 64 && (!(wlAen b) || isArrival (wlArrive b))

/-- A publisher key of a context. -/
def ctxKey (s : State) (k i : Nat) : Option PubKey := tget none (ctxAt s k).keys i

/-- The checks of R333, in its order; then the command waits for its start, with a copy of its key (R405). -/
def wloadRun (s : State) (b : BitVec 1536) (id k : Nat) : State :=
  let end_ (st : Nat) : State := finishCmd s id st 0 0
  let kind := wlKind b
  match inCtx s k (wlCore b) with
  | none => end_ 0x13
  | some c =>
    if !(storeOpen s c kind) then end_ 0x13
    else if (kind < 2 ∧ inRegion kind (wlAddr b) (wlLen b) = false) ∨ (kind = 2 ∧ wlLen b % 1024 ≠ 0) then end_ 0x12
    else if wlLen b = 0 then end_ 0
    else match ctxKey s k (wlKey b) with
      | none => end_ 0x14
      | some key => updCmd s id (fun x => { x with
          kind := .wload kind c (wlAddr b) (wlLen b) (BitVec.ofNat 64 (wlHost b)) key (BitVec.ofNat 64 (wlSig b))
            (if wlAen b then some (BitVec.ofNat 8 (wlArrive b)) else none) })

/-- A steward's CORE that no context holds is a CORE in no target's partition. -/
def noTarget (s : State) (f : Nat) : Nat := if isSteward s f then 0x13 else 0x10

def execWload (fn : FnId) (q : Fin 4) (hdr : BitVec 512) (body : BitVec 1536) (s : State) : Host.Outcome State Fault Refusal :=
  done s (fun s => hostCmd s fn q hdr 0x08 (wlBodyOk body) (fun s id =>
    forCtx s id (loadTarget s fn (wlCore body)) (noTarget s fn) stBound (fun s k => wloadRun s body id k)))

/-- Two destinations overlap; appends to the spool of one core always do. -/
def wloadOverlap (a b : CmdKind) : Bool :=
  match a, b with
  | .wload d c x n _ _ _ _, .wload d' c' x' n' _ _ _ _ =>
    decide (c = c') && decide (d = d') && (decide (d = 2) || (decide (x < x' + n') && decide (x' < x + n)))
  | _, _ => false

/-- An earlier-accepted WLOAD of the context with an overlapping destination has not completed. -/
def wloadWaits (s : State) (c : Cmd) : Bool :=
  s.cmds.any (fun e => decide (e.id < c.id) && decide (e.ctx = c.ctx) && wloadOverlap e.kind c.kind)

/-- Chunks that no set takes, from SPOOL_TAIL on to O (R135). -/
def spoolRoom (x : Core) : Nat :=
  let n := spoolChunks x
  let o := if spoolCyclic x then 0 else x.spoolOld
  n - 1 - (spoolTail x + n - o % n) % n

/-- Chunks that an append may take: none of a cyclic spool (R135). -/
def spoolFree (x : Core) : Nat := if spoolCyclic x then 0 else spoolRoom x

/-- The record that the weight log adds (R408). -/
def logRecord (block : List Byte) (msg : List Byte) (kind dkind core laddr len : Nat) : List Byte :=
  slice block 32 32 ++ slice block 64 32 ++ sha256 msg ++ leBytes 1 kind ++ leBytes 1 dkind ++ leBytes 1 core ++ [0] ++
    leBytes 4 laddr ++ leBytes 8 len ++ List.replicate 16 0

/-- The command's signature block, 512 B. -/
def sigBlock (s : State) (f : Nat) (a : W64) : List Byte := readBytes (hostMem s f) a.toNat 512

/-- The WLOAD starts: its host data is read and written, and its signature checked inline (R333); the outcome is acted on at
LOAD_VERIFY_COMPLETE. -/
def wloadBegin (s : State) (id : Nat) : State :=
  match findCmd s id with
  | none => s
  | some c =>
    match c.kind with
    | .wload d core a n h key sig arr =>
      if c.started ∨ wloadWaits s c then s
      else if d = 2 ∧ spoolFree (coreAt s core) < n / 1024 then finishCmd s id 0x16 0 0
      else
        let data := readBytes (hostMem s c.fn) h.toNat n
        let block := sigBlock s c.fn sig
        let ok := loadVerifies ⟨1, n, 0, 0, keyDigest key⟩ key block data
        let rec_ := logRecord block (signedMessage block data) 1 d (logicalOf s core) a n
        let (whole, s) := loadWrite s core d a data
        updCmd s id (fun x => { x with
          kind := .wload d core a n h key sig arr, started := true, torn := !whole, good := if ok then some (digestOf rec_) else none })
    | _ => s

def execWloadStart (id : Nat) (s : State) : Host.Outcome State Fault Refusal := done s (fun s => wloadBegin s id)

def addWeightLog (s : State) (k : Nat) (d : BitVec 256) : State := updCtx s k (fun c => { c with weightLog := c.weightLog + d })

/-- The end of a WLOAD (R333). One whose write has failed at a fenced line or block ends as one with a DMA error (assumption log 66). -/
def wloadEnd (s : State) (c : Cmd) (dmaOk : Bool) : State :=
  match c.kind with
  | .wload d core _ n _ _ _ arr =>
    if !c.started then s
    else if !dmaOk || c.torn then finishCmd (loadZero s c.kind) c.id 0x15 0 0
    else match c.good with
      | none => finishCmd (loadZero s c.kind) c.id 0x14 0 0
      | some g =>
        let s := match arr with | some o => queueArrival s core o none | none => s
        let s := if d = 2 then updCore s core (fun x =>
            let t := BitVec.ofNat 32 ((spoolTail x + n / 1024) % spoolChunks x)
            setCwEff (setCw x 0x20C t) 0x20C t)
          else s
        finishCmd (addWeightLog s c.ctx g) c.id 0 0 0
  | _ => s

/-! ### RDOUT (R334) -/

def rdKind (b : BitVec 1536) : Nat := bits b 30 2
def rdCore (b : BitVec 1536) : Nat := bits b 24 6
def rdAddr (b : BitVec 1536) : Nat := bits b 32 32
def rdHost (b : BitVec 1536) : Nat := bits b 64 64
def rdLen (b : BitVec 1536) : Nat := bits b 128 32

def rdBodyOk (b : BitVec 1536) : Bool :=
  decide (bits b 0 24 = 0) && bodyEnds b 20 && decide (rdKind b < 3) && aligned (rdAddr b) 64 && aligned (rdHost b) 64

/-- Read units of a region (lines or blocks) of `size` bytes from a byte offset: the bytes, the offset of the first unit that does not
deliver, and the machine after. -/
def readUnits (s : State) (size a n : Nat) (read : State → Nat → List Byte × Bool × State) : List Byte × Option Nat × State :=
  let u0 := a / size
  let cnt := (a + n - 1) / size - u0 + 1
  let (ds, bad, s) := (List.range cnt).foldl (fun (r : List Byte × Option Nat × State) i =>
    let (d, ok, s) := read r.2.2 (u0 + i)
    (r.1 ++ d, (if ok then r.2.1 else match r.2.1 with | some b => some b | none => some ((u0 + i) * size - a)), s)) ([], none, s)
  (slice ds (a % size) n, bad, s)

/-- The bytes of a read-out: a line or block that does not deliver reads as zeros. -/
def rdoutBytes (s : State) (c kind a n : Nat) : List Byte × Option Nat × State :=
  if kind = 0 then readUnits s 512 (a - 0x10000000) n (fun s b => readBlock s c b false)
  else if kind = 1 then readUnits s 64 a n (fun s l => let (d, ok, s) := readLine s c l false; (bytesOfLine d, ok, s))
  else (slice ((List.range ((n + 3) / 4)).flatMap (fun i => leBytes 4 (coreWord s c (a - 0x40000000 + 4 * i)).toNat)) 0 n, none, s)

def rdoutRun (s : State) (b : BitVec 1536) (f id k : Nat) : State :=
  match inCtx s k (rdCore b) with
  | none => finishCmd s id 0x13 0 0
  | some c =>
    if !(storeOpen s c (rdKind b)) then finishCmd s id 0x13 0 0
    else if inRegion (rdKind b) (rdAddr b) (rdLen b) = false then finishCmd s id 0x12 0 0
    else if rdLen b = 0 then finishCmd s id 0 0 0
    else
      let (d, bad, s) := rdoutBytes s c (rdKind b) (rdAddr b) (rdLen b)
      let s := setHostMem s f (writeBytes (hostMem s f) (rdHost b) d)
      match bad with
      | some o => finishCmd s id 0x18 o 0
      | none => finishCmd s id 0 0 0

def execRdout (fn : FnId) (q : Fin 4) (hdr : BitVec 512) (body : BitVec 1536) (s : State) : Host.Outcome State Fault Refusal :=
  done s (fun s => hostCmd s fn q hdr 0x09 (rdBodyOk body) (fun s id =>
    forCtx s id (loadTarget s fn (rdCore body)) (noTarget s fn) stBound (fun s k => rdoutRun s body fn id k)))

/-! ### HOSTCOPY (R331) -/

/-- The pending request of a tag. -/
def findTag (s : State) (tag : Nat) : Option HostCopy := s.svc.hostCopies.find? (fun h => decide (h.tag.toNat = tag))

def dropTag (s : State) (tag : Nat) : State :=
  updSvc s (fun v => { v with hostCopies := v.hostCopies.filter (fun h => decide (h.tag.toNat ≠ tag)) })

/-- The steward's answer to a host-copy request. -/
def hostcopyRun (s : State) (b : BitVec 1536) (f id : Nat) : State :=
  let tag := bits b 0 16
  if !(isSteward s f) then finishCmd s id 0x10 0 0
  else match findTag s tag with
    | none => finishCmd s id 0x17 0 0
    | some h =>
      let d := readBytes (hostMem s f) (bits b 64 64) 512
      repairAnswer (finishCmd (dropTag s tag) id 0 0 0) h.block 2 (some d)

def execHostcopy (fn : FnId) (q : Fin 4) (hdr : BitVec 512) (body : BitVec 1536) (s : State) : Host.Outcome State Fault Refusal :=
  done s (fun s => hostCmd s fn q hdr 0x0A
    (decide (bits body 16 48 = 0) && bodyEnds body 16 && aligned (bits body 64 64) 64) (fun s id => hostcopyRun s body fn id))

/-- 100 ms after its posting a request expires: a failed source (R331). -/
def hostCopyExpire (s : State) (tag : Nat) : State :=
  match findTag s tag with
  | none => s
  | some h => repairAnswer (dropTag s tag) h.block 2 none

def execHostCopyExpiry (tag : W16) (s : State) : Host.Outcome State Fault Refusal := done s (fun s => hostCopyExpire s tag.toNat)

/-! ### RUN and STOP (R323, R352) -/

/-- A bolt load of the context is outstanding. -/
def boltLoading (s : State) (k : Nat) : Bool :=
  s.cmds.any (fun c => decide (c.ctx = k) && match c.kind with | .boltLoad .. => true | _ => false)

/-- RUN: refused without a tempo count, below the count plus 2, or while another RUN or a bolt load waits. -/
def runRun (s : State) (b : BitVec 1536) (id k : Nat) : State :=
  let n := bits b 0 64
  if !(keepsCount s) || decide (n < s.tmp.count.toNat + 2) || (ctxAt s k).runAt.isSome || boltLoading s k then finishCmd s id 0x11 0 0
  else updCtx s k (fun c => { c with runAt := some n, runCmd := some id })

def execRun (fn : FnId) (q : Fin 4) (hdr : BitVec 512) (body : BitVec 1536) (s : State) : Host.Outcome State Fault Refusal :=
  done s (fun s => hostCmd s fn q hdr 0x11 (bodyEnds body 8) (fun s id =>
    forCtx s id (fnCtx s fn) 0x10 stLoaded (fun s k => runRun s body id k)))

/-- STOP: refused for a bolt with CARRY (R356), while another STOP waits, or for a worked tempo that has ended; 0 names the worked tempo
in progress. -/
def stopRun (s : State) (b : BitVec 1536) (id k : Nat) : State :=
  let n := if bits b 0 64 = 0 then s.tmp.t.toNat else bits b 0 64
  let carry : Bool := match (ctxAt s k).bolt with | some x => x.carry | none => false
  if carry || decide (n < s.tmp.t.toNat) || (ctxAt s k).stopAt.isSome then finishCmd s id 0x11 0 0
  else updCtx s k (fun c => { c with stopAt := some n, stopCmd := some id })

def execStop (fn : FnId) (q : Fin 4) (hdr : BitVec 512) (body : BitVec 1536) (s : State) : Host.Outcome State Fault Refusal :=
  done s (fun s => hostCmd s fn q hdr 0x12 (bodyEnds body 8) (fun s id =>
    forCtx s id (fnCtx s fn) 0x10 stRunning (fun s k => stopRun s body id k)))

end Sys2Proof.Machine
end

