-- ==== Sys2Proof/Machine/Image.lean ====
section
/-! DEFINITION. The parts of a bolt image and what its declarations must meet: header, directory, tempo declaration, frame-set headers,
router and fabric tables, serving declaration, replica directory (R64, R74, R134, R183, R226, R229, R231, R235, R266, R267, R290, R349). -/

namespace Sys2Proof.Machine

/-- The bytes lo to hi − 1 of a list are zero. -/
def zeroIn (bs : List Byte) (lo hi : Nat) : Bool := ((bs.drop lo).take (hi - lo)).all (fun b => decide (b = 0))

def cdiv (a b : Nat) : Nat := (a + b - 1) / b

/-! ### Header and directory (Tables 12.5, 12.6) -/

def imgSigned (img : List Byte) : Nat := sliceNat img 64 8
def imgSections (img : List Byte) : Nat := sliceNat img 28 4 + 1

/-- The refusal cause of a header, 0 where it passes: 0x01 to 0x04 in this order. -/
def headerCause (s : State) (k : Nat) (img : List Byte) : Nat :=
  if img.length < 256 + 4096 ∨ sliceNat img 0 4 ≠ 0x425A3341 ∨ sliceNat img 4 2 ≠ 1 ∨ 1 < sliceNat img 7 1 ∨ sliceNat img 17 3 ≠ 0 ∨
      2 ^ 18 ≤ sliceNat img 20 4 ∨ sliceNat img 26 2 ≠ 0 ∨ zeroIn img 72 256 = false ∨ imgSigned img % 4096 ≠ 0 ∨
      imgSigned img ≠ img.length - 4096 then 1
  else if sliceNat img 6 1 ≠ s.card.cores.toNat ∨ sliceNat img 8 9 ≠ s.card.coreMap.toNat then 2
  else if sliceNat img 24 2 ≠ s.card.results.toNat then 3
  else if sliceNat img 20 4 ≠ bits (ctxAt s k).clusters.eff 0 18 then 4
  else 0

/-- A directory entry. -/
structure Sect where
  kind : Nat
  target : Nat
  rsv : Nat
  dest : Nat
  off : Nat
  len : Nat

def sectAt (img : List Byte) (i : Nat) : Sect :=
  let f := sliceNat img
  let a := 256 + 16 * i
  ⟨f (a + 3) 1, f (a + 2) 1, f a 2, f (a + 4) 4, 64 * f (a + 8) 4, f (a + 12) 4⟩

def sections (img : List Byte) : List Sect := (List.range (imgSections img)).map (sectAt img)

/-- A section's bytes. -/
def sectData (img : List Byte) (t : Sect) : List Byte := slice img t.off t.len

/-- The first words of a list of `n`-byte records. -/
def recWords (d : List Byte) (n : Nat) : List Nat := (List.range (d.length / n)).map (fun i => sliceNat d (n * i) 4)

/-- What a section writes: space, index, first and end, in units of the space (2 KiB chunks count as tier blocks). -/
def sectSpans (img : List Byte) (t : Sect) : List (Nat × Nat × Nat × Nat) :=
  match t.kind with
  | 0x02 => [(5, t.target, 2 * t.dest, 2 * (t.dest + cdiv t.len 1024))]
  | 0x03 => (recWords (sectData img t) 8).map (fun o => (3, t.target, o, o + 1))
  | 0x04 => [(4, t.target, t.dest, t.dest + cdiv t.len 64)]
  | 0x05 => [(5, t.target, t.dest, t.dest + cdiv t.len 512)]
  | 0x08 => (recWords (sectData img t) 12).map (fun o => (8, t.target, o, o + 1))
  | 0x09 => [(9, t.target, t.dest, t.dest + t.len / 4)]
  | k => [(k, t.target, 0, 1)]

/-- Two ranges of one space meet. -/
def spansMeet (a b : Nat × Nat × Nat × Nat) : Bool :=
  decide (a.1 = b.1) && decide (a.2.1 = b.2.1) && decide (a.2.2.1 < b.2.2.2) && decide (b.2.2.1 < a.2.2.2)

/-- Some two of the sections write one place. -/
def spansOverlap : List (List (Nat × Nat × Nat × Nat)) → Bool
  | [] => false
  | x :: xs => xs.any (fun y => x.any (fun a => y.any (fun b => spansMeet a b))) || spansOverlap xs

/-- The router is one that R231 allows a context: a core router of its clusters, or a selvedge router. -/
def ctxRouter (s : State) (k r : Nat) : Bool :=
  (decide (72 ≤ r) && decide (r < 88)) || (enabledCore s r && ctxHasCluster s k (clusterOf r))

/-- The TARGET of a section is allowed (R349). -/
def targetOk (s : State) (k : Nat) (t : Sect) : Bool :=
  if t.kind = 0x08 then ctxRouter s k t.target
  else if t.kind = 0x09 then decide (t.target < 16)
  else if 0x02 ≤ t.kind ∧ t.kind ≤ 0x06 then
    match inCtx s k t.target with
    | some c => decide (t.kind ≠ 0x04) || storeOpen s c 1
    | none => false
  else decide (t.target = 0)

/-- A directory entry is well formed (cause 0x05): kind, reserved bits, content, target, and the end of its region. -/
def sectOk (s : State) (k : Nat) (img : List Byte) (t : Sect) : Bool :=
  decide (t.kind ∈ [0x01, 0x02, 0x03, 0x04, 0x05, 0x06, 0x08, 0x09, 0x0A, 0x0B, 0x0C]) && decide (t.rsv = 0) &&
  decide (t.off + t.len ≤ imgSigned img) && targetOk s k t &&
  (decide (t.kind ∈ [0x02, 0x04, 0x05, 0x09]) || decide (t.dest = 0)) &&
  (decide (t.kind ≠ 0x02) || decide (2 * (t.dest + cdiv t.len 1024) ≤ Config.columnBlocks)) &&
  (decide (t.kind ≠ 0x04) || decide (t.dest + cdiv t.len 64 ≤ Config.storeLines)) &&
  (decide (t.kind ≠ 0x05) || decide (t.dest + cdiv t.len 512 ≤ Config.columnBlocks)) &&
  (decide (t.kind ≠ 0x09) || decide (t.dest + t.len / 4 ≤ 256))

/-- The directory passes (cause 0x05). -/
def directoryOk (s : State) (k : Nat) (img : List Byte) : Bool :=
  decide (256 + 16 * imgSections img ≤ imgSigned img) && (sections img).all (sectOk s k img) &&
  !(spansOverlap ((sections img).map (sectSpans img)))

/-! ### Tempo declaration (R49, R64, R74, R437) -/

/-- The variant record `v` of a declaration of `n` cores. -/
def variantRec (d : List Byte) (n v : Nat) : List Byte := slice d (16 + v * (32 + 4 * n)) (32 + 4 * n)

def variantOf (d : List Byte) (n v : Nat) : Variant :=
  let r := variantRec d n v
  ⟨sliceNat r 0 4 % 2 ^ 23, sliceNat r 4 4 % 4 + 1, sliceNat r 8 4, (List.range n).map (fun c => sliceNat r (32 + 4 * c) 4)⟩

/-- One variant meets R49 and R74, for a pulse period in RCLK cycles. -/
def variantOk (period v : Nat) (r : List Byte) (x : Variant) : Bool :=
  let l := x.stride * period * Config.scPerRclk
  let h := l - 4 * x.work
  decide (sliceNat r 0 4 < 2 ^ 23) && decide (sliceNat r 4 4 < 16) && decide (sliceNat r 4 4 / 4 = v) && zeroIn r 12 32 &&
  decide (l ≤ usSc 8000) && decide (4 * x.work ≤ l) && decide (usSc 2 ≤ h) && decide (l ≤ 50 * h) && decide (x.allow + Config.guardSc ≤ h)

/-- Strides and stretch allowances do not decrease (R64). -/
def noDecrease : List Variant → Bool
  | a :: b :: r => decide (a.stride ≤ b.stride) && decide (a.allow ≤ b.allow) && noDecrease (b :: r)
  | _ => true

/-- Each stride equals that of every other LOADED or RUNNING context (R437). -/
def stridesAgree (s : State) (k : Nat) (vs : List Variant) : Bool :=
  (loadedCtxs s).all (fun o => decide (o = k) || match (ctxAt s o).bolt with
    | some b => (List.zip vs b.variants).all (fun p => decide (p.1.stride = p.2.stride))
    | none => true)

/-- The variants of a declaration that passes (cause 0x06 otherwise). -/
def tempoDecl (s : State) (k : Nat) (d : List Byte) : Option (List Variant) :=
  let h := sliceNat d 0 4
  let n := coreCount s
  let nv := h / 2 ^ 20 % 4 + 1
  let vs := (List.range nv).map (variantOf d n)
  if h < 2 ^ 22 ∧ h % 2 ^ 20 + 1 = periodRclk s ∧ sliceNat d 4 4 = n ∧ zeroIn d 8 16 = true ∧ d.length = 16 + nv * (32 + 4 * n) ∧
      (List.range nv).all (fun v => variantOk (periodRclk s) v (variantRec d n v) (variantOf d n v)) = true ∧
      noDecrease vs = true ∧ stridesAgree s k vs = true then some vs
  else none

/-! ### Frame sets (R134) -/

def hdrByte (h : BitVec 8192) (i : Nat) : Nat := bits h (8 * i) 8

/-- The frames of a declared variant lie in the set, past its header chunk. -/
def frameFits (len off n : Nat) : Bool := decide (1 ≤ off) && decide (off < len) && decide (off + frameChunks n ≤ len)

/-- A frame-set header meets R134 for a bolt of `n` variants. -/
def setHdrOk (h : BitVec 8192) (n : Nat) : Bool :=
  decide (bits h 27 5 = 0) && decide (hdrVariants h = n) && decide (bits h 64 448 = 0) && decide (bits h 1024 7168 = 0) &&
  (List.range 4).all (fun v =>
    if v < n then
      [67, 71, 75, 79].all (fun b => decide (hdrByte h (b + 16 * v) = 0)) &&
      frameFits (hdrSetLen h) (hdrAOff h v) (hdrALen h v) && frameFits (hdrSetLen h) (hdrXOff h v) (hdrXLen h v)
    else decide (bits h (8 * (64 + 16 * v)) 128 = 0))

/-- The sets that begin in a section of `n` chunks pass, from chunk `c`; a cyclic spool ends exactly with its set of LAST 1, and a
streamed one has none (R135). `m` bounds the sets. -/
def setsOk (d : List Byte) (variants n : Nat) (cyclic : Bool) : Nat → Nat → Bool
  | 0, _ => true
  | m + 1, c =>
    if n ≤ c then !cyclic
    else
      let h := BitVec.ofNat 8192 (sliceNat d (1024 * c) 1024)
      setHdrOk h variants &&
        (if hdrLast h then cyclic && decide (c + hdrSetLen h = n) else setsOk d variants n cyclic m (c + hdrSetLen h))

/-! ### Router tables (R226, R229, R231, R235) -/

/-- A write of a weft table's staged copy (Table 8.11). -/
def writeWeft (x : Router) (r off : Nat) (v : W64) : Router :=
  if 0x800 ≤ off ∧ off < 0x1800 then { x with streamStaged := tset 0 x.streamStaged ((off - 0x800) / 4) (lo32 v) }
  else if 0x1800 ≤ off ∧ off < 0x1A00 ∧ r < 72 then { x with seamStaged := tset 0 x.seamStaged ((off - 0x1800) / 8) v }
  else if slotOffset r off then
    { x with slotStaged := tset 0 x.slotStaged ((off - 0x10000) / 0x8000 * 4096 + (off - 0x10000) % 0x8000 / 8) v }
  else x

/-- Every port of a mask leads somewhere. -/
def maskLeads (s : State) (r m : Nat) : Bool := (List.range 8).all (fun p => decide (m / 2 ^ p % 2 = 0) || portLeads s r p)

/-- The router as its staged tables would make it. -/
def stagedRouter (x : Router) : Router := { x with stream := x.streamStaged, seam := x.seamStaged, slot := x.slotStaged }

/-- A context's stream entries in a router: number and word. -/
def ctxStreams (x : Router) (k : Nat) : List (Nat × W32) := x.stream.filter (fun (p : Nat × W32) => bit p.2 31 && decide (bits p.2 26 4 = k))

/-- A stream entry is well formed and names ports that are there. -/
def streamOk (s : State) (r : Nat) (x : Router) (e : W32) : Bool :=
  decide (bits e 0 9 = 0) && portLeads s r (bits e 23 3) &&
  (if bit e 30 then
    let m := tget 0 x.seam (bits e 9 6)
    decide (r < 72) && decide (bits e 15 8 = 0) && maskLeads s r (seamIn m) && maskLeads s r (seamOutMask m)
  else decide (bits e 9 6 = 0) && maskLeads s r (bits e 15 8))

/-- The input that a slot entry's IN must name: the stream entry's, or the first of a seam's inputs for its result (Table 8.7). -/
def slotSource (x : Router) (stream out : Nat) : Option Nat :=
  let e := tget 0 x.stream stream
  if bit e 31 && !(bit e 30) && bit e (15 + out) then some (bits e 23 3)
  else
    match x.seam.find? (fun p => seamValid p.2 && decide (seamOutStream p.2 = stream) && decide (seamOutMask p.2 / 2 ^ out % 2 = 1)) with
    | some p => (List.range 8).find? (fun i => decide (seamIn p.2 / 2 ^ i % 2 = 1))
    | none => none

def slStart (e : W64) : Nat := bits e 40 24
def slLen (e : W64) : Nat := bits e 28 12 + 1
def slVmask (e : W64) : Nat := bits e 24 4

/-- START + LEN lies within 2 × W of some variant of VMASK (R229). -/
def slotInWork (vs : List Variant) (e : W64) : Bool :=
  decide (slVmask e = 0) ||
  (List.range 4).any (fun v => decide (slVmask e / 2 ^ v % 2 = 1) && match vs[v]? with
    | some x => decide (slStart e + slLen e ≤ 2 * x.work)
    | none => false)

/-- A context's entry meets what R227 and R229 ask of one entry. -/
def slotOk (x : Router) (vs : List Variant) (out : Nat) (e : W64) : Bool :=
  decide (bits e 10 1 = 0) && slotInWork vs e && decide (slotSource x (bits e 0 10) out = some (bits e 21 3))

/-- Two entries of one output overlap (R229). -/
def slotsMeet (a b : W64) : Bool :=
  let m := 2 ^ min (bits a 18 3) (bits b 18 3)
  decide (slStart a < slStart b + slLen b) && decide (slStart b < slStart a + slLen a) &&
  decide (slVmask a &&& slVmask b ≠ 0) && decide (bits a 11 7 % m = bits b 11 7 % m)

def slotsClash : List W64 → Bool
  | [] => false
  | a :: r => r.any (slotsMeet a) || slotsClash r

/-- The entries ascend in START. -/
def ascending : List W64 → Bool
  | a :: b :: r => decide (slStart a ≤ slStart b) && ascending (b :: r)
  | _ => true

/-- Reserved nc of entries within the aligned window `i` of 4,096 nc, in a variant and a worked-tempo index. -/
def windowUse (es : List W64) (v w i : Nat) : Nat :=
  (es.map (fun e =>
    let m := 2 ^ bits e 18 3
    if slVmask e / 2 ^ v % 2 = 1 ∧ w % m = bits e 11 7 % m then
      min (slStart e + slLen e) (4096 * (i + 1)) - max (slStart e) (4096 * i)
    else 0)).foldl (· + ·) 0

/-- The windows that entries reach. -/
def windowsOf (es : List W64) : List Nat := (es.flatMap (fun e => [slStart e / 4096, (slStart e + slLen e - 1) / 4096])).dedup

/-- The largest use of a window by one context's entries, over the worked-tempo indices. -/
def windowMost (es : List W64) (v i : Nat) : Nat := ((List.range 128).map (fun w => windowUse es v w i)).foldl max 0

/-- No window of an output has more than `most` reserved nc, each context's entries at their own worst index. -/
def windowsOk (x : Router) (es : List W64) (ks : List Nat) (most : Nat) : Bool :=
  let own (k : Nat) : List W64 := es.filter (fun e => decide (streamOwner x (bits e 0 10) = some k))
  (windowsOf es).all (fun i => (List.range 4).all (fun v =>
    decide ((ks.map (fun k => windowMost (own k) v i)).foldl (· + ·) 0 ≤ most)))

/-- A router's staged slot tables pass R229 for the bolt of a context. -/
def slotTablesOk (s : State) (k r : Nat) (vs : List Variant) : Bool :=
  let x := stagedRouter (routerAt s r)
  (List.range 8).all (fun o =>
    let es := slotEntries x o
    es.all (fun e => decide (e = 0) || (streamOwner x (bits e 0 10)).isSome) && ascending es && !(slotsClash es) && windowsOk x es (List.range 16) 3840 &&
    (es.filter (fun e => decide (streamOwner x (bits e 0 10) = some k))).all (fun e => slotOk x vs o e && portLeads s r o)) &&
  (ctxStreams x k).all (fun p => streamOk s r x p.2) &&
  x.seam.all (fun (p : Nat × W64) => !(seamValid p.2) || (maskLeads s r (seamIn p.2) && maskLeads s r (seamOutMask p.2)))

/-- The seams of a router pass R235: two inputs or more, and disjoint buffer ranges within the 64 entries. -/
def seamsOk (x : Router) : Bool :=
  let es := (x.seam.filter (fun (p : Nat × W64) => seamValid p.2)).map (fun p => (p.1, p.2))
  es.all (fun p => decide (bits p.2 0 25 = 0) && decide (2 ≤ ((List.range 8).filter (fun i => decide (seamIn p.2 / 2 ^ i % 2 = 1))).length) &&
    decide (seamBase p.2 + seamDepth p.2 ≤ 64) &&
    es.all (fun q => decide (q.1 = p.1) || decide (seamBase p.2 + seamDepth p.2 ≤ seamBase q.2) || decide (seamBase q.2 + seamDepth q.2 ≤ seamBase p.2)))

/-! ### Fabric slots and quotas (R266, R267, Table 9.4) -/

/-- FLITS of the staged entries of a port that `f` selects. -/
def reservedFlits (s : State) (p : Nat) (f : W32 → Bool) : Nat :=
  ((s.fab.slotStaged.filter (fun (e : Nat × W32) => decide (e.1 / 256 = p) && bit e.2 31 && f e.2)).map (fun e => bits e.2 7 10 + 1)).foldl (· + ·) 0

/-- A port's quotas hold for a context, its selvedge router's fabric-side slot table is empty, and a port below HL3 carries no weft. -/
def portQuotaOk (s : State) (k p : Nat) : Bool :=
  let q := (tget {} s.fab.quota (p * 16 + k)).eff
  let x := stagedRouter (routerAt s (72 + p))
  let mine := reservedFlits s p (fun e => decide (bits e 27 4 = k))
  let weft := (ctxStreams x k).any (fun e => bit e.2 15 || decide (bits e.2 23 3 = 0))
  decide (mine ≤ bits q 0 10) && decide (reservedFlits s p (fun _ => true) ≤ 960) &&
  [1, 2].all (fun o => windowsOk x (slotEntries x o) [k] (bits q 20 12)) && (slotEntries x 0).isEmpty &&
  (decide ((portAt s p).gen = 3) || (decide (mine = 0) && !weft))

/-! ### Serving declaration (R290) -/

/-- The groups' records stand in group order after the pool words (assumption log 9). -/
def servGroups (d : List Byte) : Nat := 32 + 8 * (sliceNat d 0 4 % 64 + 1)
def servTail (d : List Byte) : List Byte := d.drop (servGroups d + 128)

def poolWord (d : List Byte) (i : Nat) : Nat := sliceNat d (32 + 8 * i) 8
def poolRec (w : Nat) : Pool := ⟨w / 2 ^ 32 % 2 ^ 20 + 1, w / 2 ^ 20 % 64, w % 2 ^ 19⟩

def groupBytes (d : List Byte) (g : Nat) : List Byte := slice d (servGroups d + 32 * g) 32
def groupRecOf (r : List Byte) : GroupRec :=
  let a := sliceNat r 0 4
  let b := sliceNat r 4 4
  ⟨decide (a / 2 ^ 31 = 1), a / 2 ^ 24 % 128 + 1, a / 2 ^ 16 % 256 + 1, b / 2 ^ 26, b / 2 ^ 19 % 128, b / 2 ^ 8 % 256⟩

def bindingOf (r : List Byte) : Binding :=
  let a := sliceNat r 0 4
  let b := sliceNat r 4 4
  ⟨a / 2 ^ 28, a / 2 ^ 26 % 4, a / 2 ^ 20 % 64, a % 2 ^ 17, b / 2 ^ 25, b / 2 ^ 17 % 256, b / 2 ^ 11 % 64, sliceNat r 8 3, sliceNat r 12 3⟩

def selOf (r : List Byte) : SelEntry :=
  let a := sliceNat r 0 4
  let b := sliceNat r 4 4
  let c := sliceNat r 12 4
  ⟨a / 2 ^ 30, a / 2 ^ 24 % 64, a % 2 ^ 17, b / 2 ^ 12 % 2 ^ 12, b % 2 ^ 12 + 1, sliceNat r 8 4, c / 2 ^ 20 + 1, c / 2 ^ 13 % 128, c / 2 ^ 6 % 128⟩

/-- Bindings and selection entries of the tail; how many are bindings is not given (Config.bindingCount). -/
def tailBindings (t : List Byte) : Nat := min (Config.bindingCount t) (t.length / 16)

def servDeclOf (d : List Byte) : ServDecl :=
  let f := sliceNat d
  let h := f 0 4
  let t := servTail d
  let n := tailBindings t
  { kvfmt := BitVec.ofNat 64 (f 0 8), blockBytes := 65536 * 2 ^ (h / 2 ^ 30), coded := decide (h / 2 ^ 29 % 2 = 1), shards := h % 64 + 1,
    bpt := 64 * (f 4 4 + 1), embBase := BitVec.ofNat 64 (f 8 8), embBytes := f 16 3 + 1, vocab := f 20 4 + 1,
    pools := (List.range (h % 64 + 1)).map (fun i => poolRec (poolWord d i)),
    groups := (List.range 4).map (fun g => groupRecOf (groupBytes d g)),
    bindings := (List.range n).map (fun i => bindingOf (slice t (16 * i) 16)),
    sels := (List.range (t.length / 16 - n)).map (fun i => selOf (slice t (16 * (n + i)) 16)) }

/-- The span S of a binding (Table 10.8). -/
def bindSpan (g : GroupRec) (b : Binding) : Nat := if b.kind = 0 then cdiv (g.lanes * g.q) 4 else 1

/-- Reserved bits of the declaration are zero, and its length is whole. -/
def servReserved (d : List Byte) : Bool :=
  let x := servDeclOf d
  let t := servTail d
  let n := tailBindings t
  let f := sliceNat d
  decide (f 0 4 / 2 ^ 6 % 2 ^ 23 = 0) && decide (f 19 1 = 0) && zeroIn d 24 32 && decide (servGroups d + 128 ≤ d.length) && decide (t.length % 16 = 0) &&
  (List.range x.shards).all (fun i => let w := poolWord d i; decide (w / 2 ^ 52 = 0) && decide (w / 2 ^ 26 % 64 = 0) && decide (w / 2 ^ 19 % 2 = 0)) &&
  (List.range 4).all (fun g => let r := groupBytes d g
    decide (sliceNat r 0 2 = 0) && decide (sliceNat r 4 1 = 0) && decide (sliceNat r 6 1 % 8 = 0) && zeroIn r 8 32) &&
  (List.range n).all (fun i => let r := slice t (16 * i) 16
    decide (sliceNat r 0 4 / 2 ^ 17 % 8 = 0) && decide (sliceNat r 4 4 % 2 ^ 11 = 0) && decide (sliceNat r 11 1 = 0) && decide (sliceNat r 15 1 = 0)) &&
  (List.range (t.length / 16 - n)).all (fun i => let r := slice t (16 * (n + i)) 16
    decide (sliceNat r 0 4 / 2 ^ 17 % 128 = 0) && decide (sliceNat r 7 1 = 0) && decide (sliceNat r 12 4 % 64 = 0))

def poolInColumn (s : State) (k : Nat) (x : ServDecl) (p : Pool) : Bool :=
  (inCtx s k p.core).isSome && decide (p.first + p.blocks * (x.blockBytes / 512) ≤ Config.columnBlocks)

def groupOk (s : State) (k : Nat) (g : GroupRec) : Bool :=
  !g.used || (decide (g.lanes * g.q ≤ 2048) && (inCtx s k g.steer).isSome && isArrival g.bindArr)

def bindingOk (s : State) (k : Nat) (x : ServDecl) (b : Binding) : Bool :=
  match x.groups[b.group]? with
  | none => false
  | some g =>
    g.used && decide (b.kind < 7) && (inCtx s k b.core).isSome && decide (b.d + 2 * bindSpan g b ≤ Config.storeLines) &&
    (decide (b.kind = 0) || decide (b.lane < g.lanes)) && (!(decide (b.kind = 2) || decide (b.kind = 3)) || decide (b.row < g.q)) &&
    (!(decide (b.kind = 1) || decide (b.kind = 2)) || decide (b.shard < x.shards))

def selOk (s : State) (k : Nat) (x : ServDecl) (e : SelEntry) : Bool :=
  match x.groups[e.group]? with
  | none => false
  | some g => g.used && (inCtx s k e.core).isSome && decide (e.row0 + e.rows ≤ g.lanes * g.q) &&
      decide (e.lline + 2 * (e.rows * e.lpr) ≤ Config.storeLines)

/-- Every field of the declaration is in its range. -/
def servFieldsOk (s : State) (k : Nat) (d : List Byte) : Bool :=
  let x := servDeclOf d
  servReserved d && decide (x.blockBytes % x.bpt = 0) && x.pools.all (poolInColumn s k x) && x.groups.all (groupOk s k) &&
  x.bindings.all (bindingOk s k x) && x.sels.all (selOk s k x)

/-- Slices in ascending order cover the indices below `vocab` exactly once, from `pos` on. -/
def slicesCover (vocab : Nat) : List (Nat × Nat) → Nat → Bool
  | [], pos => decide (vocab ≤ pos)
  | (b, n) :: r, pos => decide (b = pos) && slicesCover vocab r (pos + n)

/-- The selection slices cover the vocabulary exactly once for every row (R290). -/
def selCover (x : ServDecl) : Bool :=
  x.groups.zipIdx.all (fun gi => !gi.1.used || (List.range (gi.1.lanes * gi.1.q)).all (fun row =>
    let mine := x.sels.filter (fun e => decide (e.group = gi.2) && decide (e.row0 ≤ row) && decide (row < e.row0 + e.rows) && decide (e.vbase < x.vocab))
    slicesCover x.vocab ((mine.map (fun e => (e.vbase, 32 * e.lpr))).mergeSort (fun a b => decide (a.1 ≤ b.1))) 0))

/-! ### Replica directory (R183) -/

def replicaRec (d : List Byte) (i : Nat) : List Byte := slice d (32 * i) 32
def replicaOfRec (r : List Byte) : Replica :=
  let a := sliceNat r 0 4
  ⟨a / 2 ^ 20 % 64, a % 2 ^ 19, sliceNat r 4 4 % 2 ^ 19 + 1, BitVec.ofNat 64 (sliceNat r 8 8), decide (sliceNat r 16 1 % 2 = 1)⟩
def replicasOf (d : List Byte) : List Replica := (List.range (d.length / 32)).map (fun i => replicaOfRec (replicaRec d i))

/-- At most 256 entries, reserved bits zero, each range in the column of a core of the partition. -/
def replicasOk (s : State) (k : Nat) (d : List Byte) : Bool :=
  decide (d.length % 32 = 0) && decide (d.length ≤ 32 * 256) &&
  (List.range (d.length / 32)).all (fun i =>
    let r := replicaRec d i
    let x := replicaOfRec r
    decide (sliceNat r 0 4 / 2 ^ 26 = 0) && decide (sliceNat r 0 4 / 2 ^ 19 % 2 = 0) && decide (sliceNat r 4 4 < 2 ^ 19) && decide (sliceNat r 16 4 < 2) &&
    zeroIn r 20 32 && (inCtx s k x.core).isSome && decide (x.first + x.blocks ≤ Config.columnBlocks))

def replicasMeet (a b : Replica) : Bool := decide (a.core = b.core) && decide (a.first < b.first + b.blocks) && decide (b.first < a.first + a.blocks)

def replicasClash : List Replica → Bool
  | [] => false
  | a :: r => r.any (replicasMeet a) || replicasClash r

end Sys2Proof.Machine
end

