-- ==== Sys2Proof/Machine/Bolt.lean ====
section
/-! DEFINITION. BOLT_LOAD and the end of its verification: sections, cross-checks, relocation, fill (R323, R349 to R354, R363, R404). -/

namespace Sys2Proof.Machine

/-- A load in progress: the machine, the destination ranges written so far, and the refusal cause, 0 while there is none. -/
structure Loading where
  s : State
  ranges : List (Nat × Nat × Nat × Nat)
  cause : Nat

/-- Go on unless the load is refused. -/
def ldThen (l : Loading) (f : Loading → Loading) : Loading := if l.cause = 0 then f l else l
/-- Refuse with a cause unless a check holds. -/
def ldCheck (ok : Bool) (cause : Nat) (l : Loading) : Loading := if ok then l else { l with cause := cause }
/-- Write, having noted the range. -/
def ldWrite (l : Loading) (r : Nat × Nat × Nat × Nat) (f : State → State) : Loading := { l with s := f l.s, ranges := l.ranges ++ [r] }

def ldEach {α : Type} (xs : List α) (l : Loading) (f : Loading → α → Loading) : Loading := xs.foldl (fun l x => ldThen l (fun l => f l x)) l

/-! ### Sections (R350 step 2) -/

/-- A word that a control-word list may name (R349). -/
def controlNamed (off : Nat) : Bool :=
  decide (off % 4 = 0) && (decide (off = 0x008) || decide (off = 0x048) || (decide (0x200 ≤ off) && decide (off < 0x210)) ||
    (decide (0x400 ≤ off) && decide (off < 0x500)) || isSyncWord off)

/-- One word of a control-word list. -/
def ldControl (l : Loading) (c off : Nat) (v : W32) : Loading :=
  if !(controlNamed off) then { l with cause := 5 }
  else
    let (s, ok) := writeCoreWord l.s c off v
    if ok then { l with s := s, ranges := l.ranges ++ [(c, 2, off, 4)] } else { l with cause := 0x10 }

/-- The words of a list of pairs: offset and value. -/
def pairs (d : List Byte) (n : Nat) : List (Nat × Nat) := (List.range (d.length / n)).map (fun i => (sliceNat d (n * i) 4, sliceNat d (n * i + 4) (n - 4)))

/-- Pad to whole units with zeros. -/
def padTo (n : Nat) (d : List Byte) : List Byte := slice d 0 (n * cdiv d.length n)

/-- The eight window words of a core, engines 0 to 3, active then shadow (R87). -/
def ldWindows (l : Loading) (c : Nat) (d : List Byte) : Loading :=
  let ws := (List.range 8).map (fun i => BitVec.ofNat 64 (sliceNat d (8 * i) 8))
  if d.length ≠ 64 ∨ ws.all winOk = false then { l with cause := 0x0F }
  else ldWrite l (c, 3, 0, 64) (fun s => updCore s c (fun x => [0, 1, 2, 3].foldl (fun (x : Core) (e : Nat) =>
    updEngine x e (fun g => { g with activeWin := ws.getD (2 * e) 0, shadowWin := ws.getD (2 * e + 1) 0 })) x))

/-- The offset names a weft table of a router's window. -/
def weftOffset (r off : Nat) : Bool :=
  (decide (0x800 ≤ off) && decide (off < 0x1800) && decide (off % 4 = 0)) ||
  (decide (0x1800 ≤ off) && decide (off < 0x1A00) && decide (off % 8 = 0) && decide (r < 72)) ||
  (slotOffset r off && decide (off % 8 = 0))

/-- A router entry, staged; a stream entry names the bolt's own context (R231). -/
def ldRouter (k r : Nat) (l : Loading) (p : Nat × Nat) : Loading :=
  let stream := decide (p.1 < 0x1800)
  if !(weftOffset r p.1) || (stream && (decide (2 ^ 32 ≤ p.2) || (decide (p.2 / 2 ^ 31 = 1) && decide (p.2 / 2 ^ 26 % 16 ≠ k)))) then { l with cause := 8 }
  else { l with s := updRouter l.s r (fun x => writeWeft x r p.1 (BitVec.ofNat 64 p.2)) }

/-- A fabric slot entry, staged (Table 9.10). -/
def ldSlot (k p : Nat) (l : Loading) (e : Nat × W32) : Loading :=
  if bits e.2 0 7 ≠ 0 ∨ (bit e.2 31 = true ∧ bits e.2 27 4 ≠ k) then { l with cause := 0x0A }
  else { l with s := updFab l.s (fun f => { f with slotStaged := tset 0 f.slotStaged (p * 256 + e.1) e.2 }) }

/-- Apply a section; spool contents come after the others. -/
def ldSection (k : Nat) (img : List Byte) (l : Loading) (t : Sect) : Loading :=
  let d := sectData img t
  match t.kind, physicalOf l.s t.target with
  | 0x01, _ => ldCheck (tempoDecl l.s k d).isSome 6 l
  | 0x03, some c => if d.length % 8 ≠ 0 then { l with cause := 5 } else ldEach (pairs d 8) l (fun l p => ldControl l c p.1 (BitVec.ofNat 32 p.2))
  | 0x04, some c => let d := padTo 64 d; ldWrite l (c, 1, 64 * t.dest, d.length) (fun s => (flowStoreWrite s c (64 * t.dest) d).2)
  | 0x05, some c => let d := padTo 512 d; ldWrite l (c, 0, 512 * t.dest, d.length) (fun s => (writeColumn s c (512 * t.dest) d).2)
  | 0x06, some c => ldWindows l c d
  | 0x08, _ => if d.length % 12 ≠ 0 then { l with cause := 8 } else ldEach (pairs d 12) l (ldRouter k t.target)
  | 0x09, _ =>
    if d.length % 4 ≠ 0 then { l with cause := 0x0A }
    else ldEach ((List.range (d.length / 4)).map (fun i => (t.dest + i, BitVec.ofNat 32 (sliceNat d (4 * i) 4)))) l (ldSlot k t.target)
  | 0x0A, _ => ldCheck (servFieldsOk l.s k d) 0x0B l
  | 0x0B, _ => ldCheck (replicasOk l.s k d) 0x0C l
  | _, _ => l

/-- The section of a kind that occurs once, if the image has it. -/
def sectOf (img : List Byte) (kind : Nat) : Option Sect := (sections img).find? (fun t => decide (t.kind = kind))

/-- The bolt's variants. -/
def imgVariants (s : State) (k : Nat) (img : List Byte) : List Variant :=
  match sectOf img 0x01 with | some t => (tempoDecl s k (sectData img t)).getD [] | none => []

/-- Spool contents: SPOOL_BASE set, the sets checked and fitted into the chunks that no set takes, written from SPOOL_TAIL on, SPOOL_TAIL set
(R133 to R135). They are the resident cycle of a cyclic spool, to which nothing is appended afterwards (assumption log 38). -/
def ldSpool (k : Nat) (img : List Byte) (l : Loading) (t : Sect) : Loading :=
  match physicalOf l.s t.target with
  | none => { l with cause := 7 }
  | some c =>
    let d := padTo 1024 (sectData img t)
    let n := d.length / 1024
    let (s, ok) := writeSpoolWord l.s c 0x200 (BitVec.ofNat 32 (0x10000000 + 1024 * t.dest))
    let x := coreAt s c
    let chunks := spoolChunks x
    let tail := spoolTail x
    if !ok || decide (spoolRoom x < n) || !(setsOk d (imgVariants s k img).length n (spoolCyclic x) (n + 1) 0) then { l with cause := 7 }
    else
      let l := ldWrite l (c, 2, 0x200, 4) (fun _ => s)
      let l := ldEach (List.range n) l (fun l i =>
        let a := 512 * spoolBlock x + 1024 * ((tail + i) % chunks)
        ldWrite l (c, 0, a, 1024) (fun s => (writeColumn s c a (slice d (1024 * i) 1024)).2))
      let w := BitVec.ofNat 32 ((tail + n) % chunks)
      ldWrite l (c, 2, 0x20C, 4) (fun s => updCore s c (fun x => setCwEff (setCw x 0x20C w) 0x20C w))

/-- The context's staged entries of an earlier bolt go; then every section is applied. -/
def ldSections (k : Nat) (img : List Byte) (l : Loading) : Loading :=
  let l := ldEach ((sections img).filter (fun t => decide (t.kind ≠ 0x02))) { l with s := discardStaged l.s k } (ldSection k img)
  let l := ldThen l (ldCheck (sectOf img 0x01).isSome 6)
  ldEach ((sections img).filter (fun t => decide (t.kind = 0x02))) l (ldSpool k img)

/-! ### Cross-checks (R350 step 4) -/

def ldCross (k : Nat) (img : List Byte) (l : Loading) : Loading :=
  let s := l.s
  let vs := imgVariants s k img
  let rs := (List.range 88).filter (routerExists s)
  let l := ldCheck (rs.all (fun r => slotTablesOk s k r vs)) 8 l
  let l := ldThen l (ldCheck (rs.all (fun r => decide (72 ≤ r) || seamsOk (stagedRouter (routerAt s r)))) 9)
  let l := ldThen l (ldCheck ((List.range 16).all (portQuotaOk s k)) 0x0A)
  let l := ldThen l (match sectOf img 0x0A with
    | some t => ldCheck (selCover (servDeclOf (sectData img t))) 0x0B
    | none => id)
  ldThen l (match sectOf img 0x0B with
    | some t => ldCheck (!(replicasClash (replicasOf (sectData img t)))) 0x0C
    | none => id)

/-! ### Placement and relocation (R353, R354) -/

def placement (img : List Byte) : List Byte := img.drop (img.length - 4096)

def plPeers (p : List Byte) : Nat := sliceNat p 4 2
def plGroups (p : List Byte) : Nat := sliceNat p 6 2
def plPeer (p : List Byte) (i : Nat) : Nat := sliceNat p (64 + 2 * i) 2
def plGroup (p : List Byte) (j : Nat) : Nat := sliceNat p (2112 + 2 * j) 2

def placementOk (p : List Byte) : Bool :=
  decide (sliceNat p 0 4 = 0x504C3341) && decide (plPeers p ≤ 1024) && decide (plGroups p ≤ 256) && decide (sliceNat p 8 1 ≤ 1) &&
  zeroIn p 9 64 && zeroIn p 2624 4096 && (List.range (plPeers p)).all (fun i => decide (plPeer p i ≤ 0xBFF)) &&
  (List.range (plGroups p)).all (fun j => decide (0xC00 ≤ plGroup p j) && decide (plGroup p j ≤ 0xFFE))

/-- A relocation entry (Table 12.9). -/
structure Reloc where
  space : Nat
  core : Nat
  off : Nat
  kind : Nat
  shift : Nat
  width : Nat
  index : Nat
  rsv : Bool

def relocAt (d : List Byte) (i : Nat) : Reloc :=
  let f := sliceNat d
  let a := 16 * i
  let h := f (a + 8) 2
  ⟨f (a + 3) 1 / 64, f (a + 3) 1 % 64, f (a + 4) 4, h / 2 ^ 12, h / 2 ^ 6 % 64, h % 64 + 1, f (a + 10) 2, decide (f a 3 = 0) && decide (f (a + 12) 4 = 0)⟩

/-- The value that an entry writes; none where its KIND or INDEX is not allowed. -/
def relocValue (s : State) (k : Nat) (p : List Byte) (e : Reloc) : Option Nat :=
  match e.kind with
  | 0 => if e.index = 0 then some (ownChip s) else none
  | 1 => if e.index < plPeers p then some (plPeer p e.index) else none
  | 2 => if e.index < plGroups p then some (plGroup p e.index) else none
  | 3 => if e.index = 0 then some (bits (tget {} s.fab.job k).eff 0 16) else none
  | _ => none

/-- The 4 B control words that the replaced bits of an entry touch. -/
def relocWords (e : Reloc) : List Nat :=
  (if e.shift < 32 then [e.off] else []) ++ (if 32 < e.shift + e.width then [e.off + 4] else [])

/-- The word of an entry, on physical core `c`, lies in what the bolt's sections have written. -/
def relocInSection (l : Loading) (e : Reloc) (c : Nat) : Bool :=
  let within (region a n : Nat) : Bool :=
    l.ranges.any (fun r => decide (r.1 = c) && decide (r.2.1 = region) && decide (r.2.2.1 ≤ a) && decide (a + n ≤ r.2.2.1 + r.2.2.2))
  match e.space with
  | 0 => within 1 e.off 8
  | 1 => within 0 e.off 8
  | 2 => within 0 (512 * spoolBlock (coreAt l.s c) + e.off) 8
  | _ => (relocWords e).all (fun o => within 2 o 4)

/-- The bits of a word replaced. -/
def relocMerge (e : Reloc) (w v : Nat) : Nat := (setBits (BitVec.ofNat 64 w) e.shift e.width v).toNat

/-- Apply an entry to its word. -/
def relocWrite (l : Loading) (e : Reloc) (c v : Nat) : Loading :=
  let s := l.s
  if e.space = 0 then
    let (d, _, s) := readStore s c e.off 8 false
    { l with s := (flowStoreWrite s c e.off (leBytes 8 (relocMerge e (leNat d) v))).2 }
  else if e.space < 3 then
    let a := e.off + (if e.space = 2 then 512 * spoolBlock (coreAt s c) else 0)
    let (d, _, s) := readColumn s c a 8 false
    { l with s := (writeColumn s c a (leBytes 8 (relocMerge e (leNat d) v))).2 }
  else
    let w := (coreWord s c e.off).toNat + (coreWord s c (e.off + 4)).toNat * 2 ^ 32
    let n := relocMerge e w v
    ldEach (relocWords e) l (fun l o => ldControl l c o (BitVec.ofNat 32 (if o = e.off then n else n / 2 ^ 32)))

/-- One entry of the table. -/
def ldReloc (k : Nat) (img : List Byte) (l : Loading) (e : Reloc) : Loading :=
  match relocValue l.s k (placement img) e, physicalOf l.s e.core with
  | some v, some c =>
    if !e.rsv || decide (64 < e.shift + e.width) || decide (2 ^ e.width ≤ v) || decide (e.off % 8 ≠ 0) || !(relocInSection l e c) then { l with cause := 0x0D }
    else relocWrite l e c v
  | _, _ => { l with cause := 0x0D }

def ldRelocate (k : Nat) (img : List Byte) (l : Loading) : Loading :=
  let l := ldCheck (placementOk (placement img)) 0x0D l
  match sectOf img 0x0C with
  | none => l
  | some t =>
    let d := sectData img t
    let l := ldThen l (ldCheck (decide (d.length % 16 = 0)) 0x0D)
    ldEach ((List.range (d.length / 16)).map (relocAt d)) l (ldReloc k img)

/-! ### The whole load (R350) -/

/-- The bolt that an accepted image gives. -/
def imgBolt (s : State) (k : Nat) (img block : List Byte) : Bolt :=
  { variants := imgVariants s k img, carry := decide (sliceNat img 7 1 = 1), digest := BitVec.ofNat 256 (sliceNat img 32 32),
    measured := digestOf (signedMessage block (img.take (imgSigned img))),
    serving := (sectOf img 0x0A).map (fun t => servDeclOf (sectData img t)),
    replicas := match sectOf img 0x0B with | some t => replicasOf (sectData img t) | none => [], castled := false }

/-- Load an image whose data has come, for command `id` of context `k`. -/
def loadImage (s : State) (k id : Nat) (key : PubKey) (img block : List Byte) : State :=
  let h := headerCause s k img
  let l : Loading := ⟨s, [], h⟩
  let l := ldThen l (ldCheck (directoryOk s k img) 5)
  let l := ldThen l (ldSections k img)
  if l.cause ≠ 0 then boltFail l.s k id 0x1A l.cause l.ranges
  else if !(loadVerifies ⟨0, imgSigned img, 0, 0, keyDigest key⟩ key block (img.take (imgSigned img))) then boltFail l.s k id 0x14 0 l.ranges
  else
    let b := imgBolt l.s k img block
    let l := ldThen (ldCross k img l) (ldRelocate k img)
    if l.cause ≠ 0 then boltFail l.s k id 0x1A l.cause l.ranges
    else if sliceNat (placement img) 8 1 = 1 then fillStart l.s k id b l.ranges
    else boltDone l.s k id b

/-! ### BOLT_LOAD (Table 11.7) -/

def blBodyOk (b : BitVec 1536) : Bool :=
  decide (bits b 32 32 = 0) && decide (bits b 131 61 = 0) && bodyEnds b 32 && aligned (bits b 64 64) 64 && aligned (bits b 192 64) 64 &&
  decide (bits b 0 32 ≠ 0)

/-- BOLT_LOAD is accepted: refused in LOADED with a lane that is not FREE, with a RUN waiting, or while another load runs; the key is
copied (R405). -/
def boltRun (s : State) (b : BitVec 1536) (id k : Nat) : State :=
  if (ctxLanes s k).any (fun l => !(laneFree s l)) || (ctxAt s k).runAt.isSome || boltLoading s k then finishCmd s id 0x11 0 (countNow s)
  else match ctxKey s k (bits b 128 3) with
    | none => finishCmd s id 0x14 0 (countNow s)
    | some key => updCmd s id (fun x => { x with
        kind := .boltLoad (BitVec.ofNat 64 (bits b 64 64)) (bits b 0 32) key (BitVec.ofNat 64 (bits b 192 64)) })

def stBoltLoad (st : CtxSt) : Bool := decide (st = .bound) || decide (st = .loaded)

def execBoltLoad (fn : FnId) (q : Fin 4) (hdr : BitVec 512) (body : BitVec 1536) (s : State) : Host.Outcome State Fault Refusal :=
  done s (fun s => hostCmd s fn q hdr 0x10 (blBodyOk body) (fun s id =>
    forCtx s id (fnCtx s fn) 0x10 stBoltLoad (fun s k => boltRun s body id k)))

/-- The image of a bolt load has come, or its DMA has failed. -/
def boltEnd (s : State) (c : Cmd) (dmaOk : Bool) : State :=
  match c.kind with
  | .boltLoad h n key sig =>
    if c.started then s
    else if !dmaOk then finishCmd s c.id 0x15 0 (countNow s)
    else
      let s := updCmd s c.id (fun x => { x with kind := .boltLoad h n key sig, started := true })
      loadImage s c.ctx c.id key (readBytes (hostMem s c.fn) h.toNat n) (sigBlock s c.fn sig)
  | _ => s

/-- The inline verification of a load ends (R333, R350). -/
def loadEnd (s : State) (id : Nat) (dmaOk : Bool) : State :=
  match findCmd s id with
  | none => s
  | some c => boltEnd (wloadEnd s c dmaOk) c dmaOk

def execLoadVerifyComplete (id : Nat) (dmaOk : Bool) (s : State) : Host.Outcome State Fault Refusal := done s (fun s => loadEnd s id dmaOk)

end Sys2Proof.Machine
end

