-- ==== Sys2Proof/Machine/Select.lean ====
section
/-! DEFINITION. The selection of a token: binary32 arithmetic, Philox4x32-10, the correctly rounded logarithm, and the selection lanes
(R295, R296). -/

namespace Sys2Proof.Machine

/-! ### binary32 -/

/-- The magnitude n / d rounded to nearest even in binary32, as its encoding without sign. -/
def mag32 (n d : Nat) : Nat :=
  if n = 0 ∨ d = 0 then 0
  else
    let e0 : Int := (Nat.log2 n : Int) - Nat.log2 d
    let below := if 0 ≤ e0 then decide (n < d * 2 ^ e0.toNat) else decide (n * 2 ^ (-e0).toNat < d)
    let e := if below then e0 - 1 else e0
    let q : Int := max (e - 23) (-149)
    let a := if 0 ≤ q then n else n * 2 ^ (-q).toNat
    let b := if 0 ≤ q then d * 2 ^ q.toNat else d
    let r := a / b
    let m := a % b
    let r := if 2 * m < b then r else if b < 2 * m then r + 1 else r + r % 2
    min ((q + 149).toNat * 2 ^ 23 + r) 0x7F800000

/-- A finite binary32 magnitude as numerator and denominator. -/
def val32 (m : Nat) : Nat × Nat :=
  let d := (fp32.value m)
  if 0 ≤ d.e then (d.m.natAbs * 2 ^ d.e.toNat, 1) else (d.m.natAbs, 2 ^ (-d.e).toNat)

/-- A binary32 number as sign and magnitude encoding. -/
structure F32 where
  neg : Bool
  mag : Nat

/-- The exact sum of two finite numbers, or of an infinity and a finite number, rounded. -/
def add32 (x y : F32) : F32 :=
  if x.mag = 0x7F800000 then x
  else
    let (a, b) := val32 x.mag
    let (c, d) := val32 y.mag
    let p : Int := (if x.neg then -1 else 1) * ((a * d : Nat) : Int) + (if y.neg then -1 else 1) * ((c * b : Nat) : Int)
    ⟨decide (p < 0), mag32 p.natAbs (b * d)⟩

/-- The order of binary32 numbers; both zeros are equal. -/
def rank32 (x : F32) : Int := if x.neg then -(x.mag : Int) else x.mag

/-! ### The logarithm -/

/-- Bits after the point of the logarithm's fixed-point terms. -/
def lnBits : Nat := 256

/-- 2 × artanh(n / d) for n ≤ d / 3, in units of 2^−lnBits: the sum of 2 z^(2i+1) / (2i+1). -/
def artanh2 (n d : Nat) : Nat :=
  let z := n * 2 ^ lnBits / d
  let z2 := z * z / 2 ^ lnBits
  ((List.range 96).foldl (fun (r : Nat × Nat) i => (r.1 + 2 * r.2 / (2 * i + 1), r.2 * z2 / 2 ^ lnBits)) (0, z)).1

/-- ln(n / d) in units of 2^−lnBits. -/
def lnFix (n d : Nat) : Int :=
  let e0 : Int := (Nat.log2 n : Int) - Nat.log2 d
  let below := if 0 ≤ e0 then decide (n < d * 2 ^ e0.toNat) else decide (n * 2 ^ (-e0).toNat < d)
  let e := if below then e0 - 1 else e0
  let a := if 0 ≤ e then n else n * 2 ^ (-e).toNat
  let b := if 0 ≤ e then d * 2 ^ e.toNat else d
  e * (artanh2 1 3 : Int) + (artanh2 (a - b) (a + b) : Int)

/-- ln of a positive number, rounded to binary32. -/
def ln32 (n d : Nat) : F32 := let v := lnFix n d; ⟨decide (v < 0), mag32 v.natAbs (2 ^ lnBits)⟩

/-! ### Philox4x32-10 -/

def philoxRound (c : W32 × W32 × W32 × W32) (k0 k1 : W32) : W32 × W32 × W32 × W32 :=
  let p0 : W64 := (0xD2511F53 : W64) * c.1.setWidth 64
  let p1 : W64 := (0xCD9E8D57 : W64) * c.2.2.1.setWidth 64
  (hi32 p1 ^^^ c.2.1 ^^^ k0, lo32 p1, hi32 p0 ^^^ c.2.2.2 ^^^ k1, lo32 p0)

/-- Ten rounds; the key grows by the round constants. -/
def philox (k0 k1 c0 c1 c2 c3 : W32) : W32 × W32 × W32 × W32 :=
  (List.range 10).foldl (fun c i =>
    philoxRound c (k0 + 0x9E3779B9 * BitVec.ofNat 32 i) (k1 + 0xBB67AE85 * BitVec.ofNat 32 i)) (c0, c1, c2, c3)

/-! ### The score (R296) -/

/-- What a row's selection depends on beside its logits: SEQID, SEED, the position its sample will occupy, TEMP. -/
structure SelKey where
  seqid : W64
  seed : W64
  pos : Nat
  temp : W16

/-- The Gumbel term of a vocabulary index. -/
def gumbel (k : SelKey) (v : Nat) : F32 :=
  let x := (philox (lo32 k.seed) (hi32 k.seed) (BitVec.ofNat 32 v) (BitVec.ofNat 32 k.pos) (lo32 k.seqid) (hi32 k.seqid)).1
  let l := ln32 (2 * (x.toNat / 512) + 1) (2 ^ 24)
  let (n, d) := val32 l.mag
  let g := ln32 n d
  ⟨!g.neg, g.mag⟩

/-- The score of a logit, as a rank: larger is better. -/
def score (k : SelKey) (v : Nat) (logit : W16) : Int :=
  let m := logit.toNat % 2 ^ 15
  let neg := bit logit 15
  if 0x7F80 < m then Config.nanScore logit.toNat
  else
    let x : F32 := ⟨neg, m * 2 ^ 16⟩
    if k.temp.toNat % 2 ^ 15 = 0 then rank32 x
    else
      let q : F32 := if x.mag = 0x7F800000 then x
        else
          let (n, d) := val32 x.mag
          let (tn, td) := val32 (k.temp.toNat % 2 ^ 15 * 2 ^ 16)
          ⟨neg, mag32 (n * td) (d * tn)⟩
      rank32 (add32 q (gumbel k v))

/-- The better of two candidates: the larger score, and of equal scores the smaller index. -/
def better (a b : Option (Int × Nat)) : Option (Int × Nat) :=
  match a, b with
  | none, y => y
  | x, none => x
  | some x, some y => if x.1 < y.1 ∨ (x.1 = y.1 ∧ y.2 < x.2) then some y else some x

/-! ### Selection lanes (R295) -/

def selEntry (s : State) (k n : Nat) : Option SelEntry := (servDecl s k).bind (fun d => d.sels[n]?)

def selId (k n : Nat) : Nat := k * 65536 + n

/-- This module follows a LEAD (R382). -/
def following (s : State) : Bool := s.saf.oppActive && bit s.saf.oppCtrl 1
def leading (s : State) : Bool := s.saf.oppActive && !(bit s.saf.oppCtrl 1)

/-- The sequence lane of a group's row. -/
def rowLane (g : Nat) (r : GroupRec) (row : Nat) : Nat := 128 * g + row / r.q

def stepRow (s : State) (g row : Nat) : StepRow := tget {} s.srv.rows (g * 2048 + row)

/-- What selects a row of the step in progress on a core, where its SAMPLED bit is set; on a FOLLOW, the key that the LEAD sent. -/
def rowKey (s : State) (g : Nat) (r : GroupRec) (core row : Nat) : Option SelKey :=
  if following s then (tget none s.saf.mirrorNow (core * 2048 + row)).map (fun k => ⟨k.1, k.2.1, k.2.2.1, k.2.2.2⟩)
  else
    let x := stepRow s g row
    if x.valid && x.sampled then
      let l := laneAt s (rowLane g r row)
      some ⟨l.seqid, l.seed, x.pos + 1, l.temp⟩
    else none

/-- A set TRIG starts the lane, which clears it. -/
def selStart (s : State) (k n : Nat) : State :=
  match selEntry s k n with
  | none => s
  | some e =>
    match physicalOf s e.core with
    | none => s
    | some c =>
      if (ctxAt s k).st = .running ∧ (syncAt (coreAt s c) e.trig).val ≠ 0 ∧ selId k n ∉ s.srv.selRun then
        let s := effectAt s c 14 (clk s c) (.value 0) e.trig
        updSrv s (fun x => { x with selRun := x.selRun ++ [selId k n] })
      else s

/-- The best candidate of one line of logits: 32 bfloat16 values from a vocabulary index. -/
def lineBest (key : SelKey) (vocab base : Nat) (d : Line) (b : Option (Int × Nat)) : Option (Int × Nat) :=
  (List.range 32).foldl (fun b i =>
    if base + i < vocab then better b (some (score key (base + i) (BitVec.ofNat 16 (bits d (16 * i) 16)), base + i)) else b) b

/-- A row's lines are read, and its best candidate goes to the engine. -/
def selRow (s : State) (k c : Nat) (d : ServDecl) (g : Nat) (r : GroupRec) (e : SelEntry) (row : Nat) : State :=
  match rowKey s g r e.core row with
  | none => s
  | some key =>
    let l0 := e.lline + (ctxAt s k).w % 2 * e.rows * e.lpr + (row - e.row0) * e.lpr
    let (best, s) := (List.range e.lpr).foldl (fun (b : Option (Int × Nat) × State) i =>
      let (x, _, s) := readLine b.2 c (l0 + i) false
      (lineBest key d.vocab (e.vbase + 32 * i) x b.1, s)) (none, s)
    updSrv s (fun x => { x with cands := tupd none x.cands (g * 2048 + row) (fun b => better b best) })

/-- The lane has read its last line: its candidates are sent and DONE is set. -/
def selDone (s : State) (k n : Nat) : State :=
  match selEntry s k n, servDecl s k with
  | some e, some d =>
    match physicalOf s e.core, d.groups[e.group]? with
    | some c, some r =>
      if selId k n ∈ s.srv.selRun then
        let s := forAll (List.range e.rows) s (fun s i => selRow s k c d e.group r e (e.row0 + i))
        let s := updSrv s (fun x => { x with selRun := x.selRun.filter (fun i => decide (i ≠ selId k n)), selDone := x.selDone ++ [selId k n] })
        effectAt s c 14 (clk s c) (.value 1) e.done
      else s
    | _, _ => s
  | _, _ => s

def execSelectionLaneStart (ctx : CtxId) (entry : Nat) (s : State) : Host.Outcome State Fault Refusal := done s (fun s => selStart s ctx entry)
def execSelectionLaneDone (ctx : CtxId) (entry : Nat) (s : State) : Host.Outcome State Fault Refusal := done s (fun s => selDone s ctx entry)

end Sys2Proof.Machine
end

