-- ==== Sys2Proof/Machine/Compose.lean ====
section
/-! DEFINITION. The preparation of a step: drafts, rows, KV blocks, bindings, and the MIRROR frames of a LEAD (R288, R291 to R294, R298,
R299, R307, R309, R382). -/

namespace Sys2Proof.Machine

/-! ### Sequence states -/

/-- The state that the step in progress was prepared from: what the ended tempo decided until its commit point, else the committed one. -/
def laneBase (x : Lane) : SeqSt := match x.edec with | some d => d.st | none => x.com
/-- The state that the next step is prepared from. -/
def laneNow (x : Lane) : SeqSt := match x.dec with | some d => d.st | none => laneBase x

/-- The last 16 of a list of tokens. -/
def last16 (l : List W32) : List W32 := l.drop (l.length - 16)

/-- The lane takes rows (R294). -/
def laneTakes (x : Lane) : Bool := decide (x.st = .decoding) || (decide (x.st = .feeding) && x.fed)

/-- Remove a lane's rows from both steps. -/
def clearRows (s : State) (l : Nat) : State :=
  match groupRec s (laneAt s l).ctx (l / 128) with
  | none => s
  | some r =>
    let lo := l / 128 * 2048 + l % 128 * r.q
    updSrv s (fun x => { x with rows := tclear x.rows lo (lo + r.q), nextRows := tclear x.nextRows lo (lo + r.q) })

/-! ### Drafts (R298, R299) -/

def dropDraft (s : State) (k : Nat) : State := updSrvCtx s k (fun x => { x with draftDrop := satAdd x.draftDrop 1 })

/-- A draft record: SEQID, BASE and tokens, where it is well formed (Table 10.11). -/
def draftParse (b : List Byte) : Option (W64 × Nat × List W32) :=
  let w := sliceNat b 8 4
  let n := w / 2 ^ 24 % 16
  if w / 2 ^ 28 ≠ 0 ∨ n = 0 ∨ 8 < n ∨ sliceNat b 12 4 ≠ 0 ∨ zeroIn b (16 + 4 * n) 64 = false then none
  else some (BitVec.ofNat 64 (sliceNat b 0 8), w % 2 ^ 24, (List.range n).map (fun i => BitVec.ofNat 32 (sliceNat b (16 + 4 * i) 4)))

/-- One record that has arrived: kept for its lane, the most recent one only. -/
def takeDraft (s : State) (k : Nat) (b : List Byte) : State :=
  match draftParse b with
  | none => setSrvStatus (dropDraft s k) 2
  | some (seqid, base, toks) =>
    match laneOfSeq s k seqid with
    | none => dropDraft s k
    | some l =>
      let x := laneAt s l
      if x.st = .feeding ∨ x.st = .decoding then
        setLane (if x.draft.isSome then dropDraft s k else s) l { x with draft := some (base, toks) }
      else dropDraft s k

/-- Every record in the context's draft ring is taken, and its slot released. -/
def takeDrafts (s : State) (k : Nat) : State :=
  let w := (srvCtxAt s k).draft.eff
  match physicalOf s (bits w 24 6) with
  | none => s
  | some c =>
    let r := bits w 0 4
    if bit w 31 && (ringAt (coreAt s c) r).enabled then
      let x := coreAt s c
      let n := ringFilled x r
      let first := (syncAt x (ringRel x r)).val.toNat
      let s := forAll (List.range n) s (fun s i =>
        let l := ringBase x r + (first + i) % ringSlots x r * ringLines x r
        let (d, ok, s) := readLine s c l false
        if ok then takeDraft s k (bytesOfLine d) else s)
      addSync s c (ringRel x r) n
    else s

/-- The drafts that a record gives a state, where it is usable. -/
def usableDrafts (st : SeqSt) (base : Nat) (toks : List W32) : Option (List W32) :=
  let e1 := st.kvlen + st.pend.length
  let held (p : Nat) : Option W32 := st.hist[st.hist.length + p - e1]?
  if base ≤ e1 ∧ e1 ≤ base + 16 ∧
      (toks.zipIdx.all (fun (t : W32 × Nat) => decide (e1 ≤ base + t.2) || decide (held (base + t.2) = some t.1))) = true then
    some (toks.drop (e1 - base))
  else none

/-! ### Rows (R294) -/

/-- Pending rows of a lane's step. -/
def pendRows (x : Lane) (q : Nat) : Nat := min (laneNow x).pend.length q

/-- The drafts of a lane's step. -/
def laneDrafts (x : Lane) (q : Nat) : List W32 :=
  let st := laneNow x
  let n := pendRows x q
  if n = st.pend.length then
    match x.draft with
    | some (b, t) => ((usableDrafts st b t).getD []).take (min (q - n) (x.limit - 1 - (st.kvlen + n)))
    | none => []
  else []

/-- The rows of a lane's step, in order. -/
def laneRows (x : Lane) (q : Nat) : List StepRow :=
  let st := laneNow x
  let n := pendRows x q
  let last := decide (n = st.pend.length)
  let row (i : Nat) (t : W32) (draft : Bool) : StepRow :=
    ⟨t, true, draft, last && decide (n ≤ i + 1), st.kvlen + i, x.patch⟩
  (st.pend.take n).zipIdx.map (fun p => row p.2 p.1 false) ++ (laneDrafts x q).zipIdx.map (fun p => row (n + p.2) p.1 true)

/-- Allocate the block of a position in every shard, noting the entries for R282. -/
def allocPos (s : State) (k : Nat) (d : ServDecl) (l pos : Nat) : State :=
  forAll (List.range d.shards) s (fun s sh =>
    let x := laneAt s l
    let b := pos / kvTpb d
    let e := laneEntry x sh b
    if kvTaken (kvWord s e) then s else updLane (kvAllocate s k d x sh b) l (fun x => { x with alloc := x.alloc ++ [e] }))

/-- Blocks allocated in a discarded step go back (R282). -/
def unalloc (s : State) (k : Nat) (x : Lane) (es : List Nat) : State :=
  forAll es s (fun s e =>
    let w := kvWord s e
    if kvTaken w then
      let s := updSrv s (fun y => { y with taken := tset false y.taken (poolKey (bits w 19 6) (bits w 0 19)) false })
      addReserved (setKv s e (BitVec.ofNat 64 (2 ^ 63))) k ((e - x.extent) / x.bps) (· + 1)
    else s)

/-- Compose a lane's rows of the next step. A draft record stays while pending tokens take every row (R299). -/
def prepLane (s : State) (k : Nat) (d : ServDecl) (g : Nat) (r : GroupRec) (i : Nat) : State :=
  let l := 128 * g + i
  let x := laneAt s l
  if !(laneTakes x) ∨ x.ctx ≠ k then s
  else
    let rows := laneRows x r.q
    let st := laneNow x
    let open_ := decide (pendRows x r.q = st.pend.length)
    let bad := open_ && (match x.draft with | some (b, t) => (usableDrafts st b t).isNone | none => false)
    let s := if bad then dropDraft s k else s
    let s := updSrv s (fun y => { y with
      nextRows := rows.zipIdx.foldl (fun (t : Tbl StepRow) p => tset {} t (g * 2048 + i * r.q + p.2) p.1) y.nextRows })
    let drafted := rows.any (fun (y : StepRow) => y.draft)
    let s := setLane s l { x with draft := if open_ then none else x.draft, gambit := if x.dec.isSome then .decided else if drafted then .proposed else .plain }
    forAll rows s (fun s (y : StepRow) => allocPos s k d l y.pos)

/-! ### MIRROR frames (R382, Table 13.4) -/

/-- Send an item of the step to the FOLLOW: type, logical core, line, row, data. -/
def mirrorItem (s : State) (typ core line row : Nat) (data : List Byte) : State :=
  if leading s then
    let item := typ * 2 ^ 62 + core % 64 * 2 ^ 56 + line % 2 ^ 17 * 2 ^ 39 + row % 2 ^ 11 * 2 ^ 28
    let n := s.srv.mirrorItem
    sendOppose (updSrv s (fun x => { x with mirrorItem := n + 1 }))
      (leNat (leBytes 8 s.tmp.t.toNat ++ [2, 0] ++ leBytes 2 (n % 65536) ++ leBytes 4 0 ++ leBytes 8 item ++ slice data 0 64))
  else s

/-! ### Bindings (R291 to R293, Tables 10.8 and 10.9) -/

/-- A step record. -/
def stepRecord (y : StepRow) : List Byte :=
  leBytes 4 (if y.valid then y.token.toNat else 0) ++
  leBytes 4 (b2n y.valid * 2 ^ 31 + b2n y.draft * 2 ^ 30 + b2n y.sampled * 2 ^ 29 + y.pos % 2 ^ 24) ++
  leBytes 4 (match y.patch with | some p => 2 ^ 31 + p % 64 | none => 0) ++ leBytes 4 0

def nextRow (s : State) (g row : Nat) : StepRow := tget {} s.srv.nextRows (g * 2048 + row)

/-- The global address of a byte of a column of this module. -/
def columnAddr (s : State) (core off : Nat) : W64 := gaMake (ownChip s) core (0x10000000 + off)

/-- The piece size of a context's patch pool (R340). -/
def patchCores (x : SrvCtx) : List Nat := (List.range 64).filter (fun i => bit (join64 x.coresHi.eff x.coresLo.eff) i)
def patchSlotBytes (x : SrvCtx) : Nat := (bits x.pool.eff 0 9 + 1) * 65536
def patchPiece (x : SrvCtx) : Nat := patchSlotBytes x / (patchCores x).length

/-- Byte offset within its column of a slot's piece. -/
def patchOffset (s : State) (k slot : Nat) : Nat :=
  let x := srvCtxAt s k
  bits x.cblk.eff 0 19 * 512 + (poolSlots s k).idxOf slot * patchPiece x

/-- Blocks of a shard that a shuttle moves: those that hold positions below KVLEN. -/
def shipBlocks (d : ServDecl) (kvlen : Nat) : Nat := cdiv kvlen (kvTpb d)

/-- The first lane of a context in a state with coded blocks to go. -/
def codedLane (s : State) (k g : Nat) (st : LaneSt) (ready : Lane → Nat → Bool) : Option (Nat × Nat) :=
  ((List.range 128).map (fun i => 128 * g + i)).findSome? (fun l =>
    let x := laneAt s l
    if x.st = st ∧ x.ctx = k then (x.shuttle.todo.find? (ready x)).map (fun o => (l, o)) else none)

/-- The address of a shuttle block, by its ordinal: shard by shard. -/
def shuttleBlock (s : State) (d : ServDecl) (x : Lane) (kvlen o : Nat) : W64 :=
  let n := shipBlocks d kvlen
  let w := kvWord s (laneEntry x (o / n) (o % n))
  columnAddr s (bits w 19 6) (512 * bits w 0 19)

/-- A coded block is bound to the next step. -/
def bindCoded (s : State) (l o n : Nat) : State :=
  updLane s l (fun x => { x with shuttle := { x.shuttle with todo := x.shuttle.todo.filter (fun i => decide (i ≠ o)), prep := x.shuttle.prep ++ [(o, n)] } })

/-- A valid segment of one raw line of zeros (R307). -/
def emptySegment : List Byte :=
  let src : List Byte := List.replicate 64 0
  let tail := twPack 32 [0] ++ twBlockHead true 1 2 0 (crc32c src).toNat ++ src
  let h := leBytes 2 0x5457 ++ [1, 0] ++ leBytes 4 0 ++ leBytes 4 (tail.length / 64) ++ leBytes 2 0 ++ List.replicate 46 0
  h ++ leBytes 4 (crc32c h).toNat ++ tail

/-- Stage a segment in the range of a binding (R307). -/
def stage (s : State) (k n core : Nat) (seg : List Byte) : State :=
  match physicalOf s core with
  | some c => (writeColumn s c (512 * (Config.stagingBlock k n)) seg).2
  | none => s

/-- KVLEN of a landing sequence: of its verified record, else what its offer named. -/
def landLen (x : Lane) : Nat := match x.shuttle.record with | some r => r.1.kvlen | none => x.com.kvlen

/-- LEN and GADDR of a descriptor binding; no GADDR is stated for a LEN of 0. -/
def bindValue (s : State) (k : Nat) (d : ServDecl) (g : Nat) (r : GroupRec) (n : Nat) (b : Binding) : Nat × W64 × State :=
  let l := 128 * g + b.lane
  let x := laneAt s l
  let row := b.lane * r.q + b.row
  let y := nextRow s g row
  let busy := (nextRow s g (b.lane * r.q)).valid
  let none_ : Nat × W64 × State := (0, Config.freeWord (s.freeCtr + 1) 0, { s with freeCtr := s.freeCtr + 1 })
  match b.kind with
  | 1 =>
    let end_ := (laneNow x).kvlen + pendRows x r.q
    let cnt := min (kvTpb d) (end_ - b.blk * kvTpb d)
    let w := kvWord s (laneEntry x b.shard b.blk)
    if busy && decide (0 < cnt) && decide (b.blk < x.bps) then (d.bpt * cnt, columnAddr s (bits w 19 6) (512 * bits w 0 19), s) else none_
  | 2 =>
    if y.valid then
      let (core, off) := kvPlace s d x b.shard y.pos
      (d.bpt, columnAddr s core off, s)
    else none_
  | 3 => if y.valid then (d.embBytes, d.embBase + BitVec.ofNat 64 (y.token.toNat * d.embBytes), s) else none_
  | 4 =>
    match x.patch with
    | some p => if busy then (b.plen, columnAddr s b.core (patchOffset s k p + b.blk), s) else none_
    | none => none_
  | 5 =>
    if d.coded then
      match codedLane s k g .shipping (fun x _ => decide (x.shuttle.step = 4)) with
      | some (l, o) => (d.blockBytes, shuttleBlock s d (laneAt s l) (laneAt s l).com.kvlen o, bindCoded s l o n)
      | none => none_
    else none_
  | _ =>
    if d.coded then
      match codedLane s k g .landing (fun x o => s.srv.segs.any (fun e => decide (e.1 = x.shuttle.ident) && decide (e.2.1 = o))) with
      | some (l, o) =>
        let x := laneAt s l
        let seg := ((s.srv.segs.find? (fun e => decide (e.1 = x.shuttle.ident) && decide (e.2.1 = o))).map (fun e => e.2.2)).getD []
        (d.blockBytes, shuttleBlock s d x (landLen x) o, bindCoded (stage s k n b.core seg) l o n)
      | none => let r := none_; (r.1, r.2.1, stage r.2.2 k n b.core emptySegment)
    else none_

/-- Write one binding, to the banks, at the parity of worked-tempo index w + 1. -/
def bindWrite (s : State) (k : Nat) (d : ServDecl) (g : Nat) (r : GroupRec) (n : Nat) (b : Binding) : State :=
  match physicalOf s b.core with
  | none => s
  | some c =>
    let line := b.d + ((ctxAt s k).w + 1) % 2 * bindSpan r b
    if b.kind = 0 then
      forAll (List.range (bindSpan r b)) s (fun s j =>
        let bs := (List.range 4).flatMap (fun i =>
          let row := 4 * j + i
          stepRecord (if row < r.lanes * r.q then nextRow s g row else {}))
        mirrorItem (flowStoreWrite s c (64 * (line + j)) bs).2 0 b.core (line + j) 0 bs)
    else
      let (len, addr, s) := bindValue s k d g r n b
      let s := (flowStoreWrite s c (64 * line) (leBytes 3 len)).2
      let s := (flowStoreWrite s c (64 * line + 8) (leBytes 8 addr.toNat)).2
      mirrorItem s 0 b.core line 0 (leBytes 3 len ++ List.replicate 5 0 ++ leBytes 8 addr.toNat)

/-- The physical cores on which a group has bindings. -/
def bindCores (s : State) (d : ServDecl) (g : Nat) : List Nat :=
  (((d.bindings.filter (fun b => decide (b.group = g))).map (·.core)).dedup).filterMap (physicalOf s)

/-- One arrival per core at BIND_ARR after the pass's last write to it (R293). -/
def bindArrivals (s : State) (d : ServDecl) (g : Nat) (r : GroupRec) : State :=
  forAll (bindCores s d g) s (fun s c => queueArrival s c (BitVec.ofNat 8 r.bindArr) none)

/-- The selection keys of the next step go to the FOLLOW. -/
def mirrorKeys (s : State) (d : ServDecl) (g : Nat) (r : GroupRec) : State :=
  forAll (d.sels.filter (fun e => decide (e.group = g))) s (fun s e => forAll (List.range e.rows) s (fun s i =>
    let y := nextRow s g (e.row0 + i)
    let x := laneAt s (rowLane g r (e.row0 + i))
    if y.valid && y.sampled then
      mirrorItem s 1 e.core 0 (e.row0 + i)
        (leBytes 8 x.seqid.toNat ++ leBytes 8 x.seed.toNat ++ leBytes 3 (y.pos + 1) ++ [0] ++ leBytes 2 x.temp.toNat)
    else s))

/-- The rows and bindings of a group's next step. -/
def composeGroup (s : State) (k : Nat) (d : ServDecl) (g : Nat) (r : GroupRec) : State :=
  let s := updSrv s (fun x => { x with nextRows := tclear x.nextRows (g * 2048) (g * 2048 + 2048) })
  let s := forAll (List.range r.lanes) s (fun s i => prepLane s k d g r i)
  forAll ((d.bindings.zipIdx).filter (fun p => decide (p.1.group = g))) s (fun s p => bindWrite s k d g r p.2 p.1)

/-- Prepare a group's next step: drafts, rows, bindings, arrivals. -/
def prepGroup (s : State) (k : Nat) (d : ServDecl) (g : Nat) (r : GroupRec) : State :=
  let s := composeGroup (takeDrafts s k) k d g r
  bindArrivals (mirrorItem (mirrorKeys s d g r) 2 r.steer 0 0 []) d g r

end Sys2Proof.Machine
end

