-- ==== Sys2Proof/Machine/Decide.lean ====
section
/-! DEFINITION. The decision of a group: gambits, records, the serving signature, SEL_FLAG (R297, R300, R303, R375, R380). -/

namespace Sys2Proof.Machine

/-- The token selected for a row. -/
def rowToken (s : State) (g row : Nat) : W32 := match tget none s.srv.cands (g * 2048 + row) with | some c => BitVec.ofNat 32 c.2 | none => 0

/-- Drafts accepted: the longest prefix that equals the selections. -/
def accepted : List W32 → List W32 → Nat
  | d :: ds, t :: ts => if d = t then accepted ds ts + 1 else 0
  | _, _ => 0

/-- A token record (R303). -/
def tokenRec (tok : W32) (pos : Nat) (draft : Bool) : TokenRec :=
  BitVec.ofNat 64 (tok.toNat + pos % 2 ^ 24 * 2 ^ 32 + b2n draft * 2 ^ 59)

/-- A record that carries END and a cause. -/
def withEnd (r : TokenRec) (cause : Nat) : TokenRec := r ||| BitVec.ofNat 64 (2 ^ 63 + cause * 2 ^ 60)

/-- END on the last record of a list. -/
def endLast (rs : List TokenRec) (cause : Nat) : List TokenRec :=
  match rs.reverse with
  | r :: rest => (withEnd r cause :: rest).reverse
  | [] => []

/-- The emission up to and including the first token equal to EOS, and whether it has one. -/
def cutEos (eos : W32) : List (W32 × Bool) → List (W32 × Bool) × Bool
  | [] => ([], false)
  | t :: ts => if t.1 = eos ∧ eos ≠ 0xFFFFFFFF then ([t], true) else let r := cutEos eos ts; (t :: r.1, r.2)

/-- The gambit unit's decision (R300): pending rows, the sampled rows' tokens, the drafts. A lane to be shipped emits one token. -/
def gambit (x : Lane) (st : SeqSt) (q : Nat) (sel drafts : List W32) : Dec :=
  if q < st.pend.length then ⟨⟨st.kvlen + q, st.pend.drop q, st.hist⟩, [], false⟩
  else
    let ship := x.ship && decide (x.st = .feeding)
    let j := if ship then 0 else accepted drafts sel
    let emit := (drafts.take j).map (fun t => (t, true)) ++ [(sel.getD j 0, false)]
    let first := st.kvlen + q
    let (a, eos) := cutEos x.eos emit
    let b := a.take (x.limit - first)
    let recs := b.zipIdx.map (fun p => tokenRec p.1.1 (first + p.2) p.1.2)
    let atLimit := decide (x.limit ≤ first + b.length)
    let byEos := eos && decide (b.length = a.length)
    let recs := if byEos then endLast recs 1 else if atLimit then endLast recs 2 else if ship then endLast recs 4 else recs
    ⟨⟨first + j, [sel.getD j 0], last16 (st.hist ++ b.map (·.1))⟩, recs, byEos || atLimit || ship⟩

/-- Decide one lane. -/
def decideLane (s : State) (k g : Nat) (r : GroupRec) (i : Nat) : State :=
  let l := 128 * g + i
  let x := laneAt s l
  let rows := ((List.range r.q).map (fun j => (i * r.q + j, stepRow s g (i * r.q + j)))).filter (fun p => p.2.valid)
  if rows.isEmpty || !(laneTakes x) || decide (x.ctx ≠ k) then s
  else
    let q := (rows.filter (fun p => !p.2.draft)).length
    let sel := (rows.filter (fun p => p.2.sampled)).map (fun p => rowToken s g p.1)
    let drafts := (rows.filter (fun p => p.2.draft)).map (fun p => p.2.token)
    let st := laneBase x
    let d := gambit x st q sel drafts
    let s := setLane s l { x with dec := some d, gambit := .decided }
    if drafts.isEmpty then s
    else choice s 2 k l (drafts.length % 16 * 16 + (accepted drafts sel) % 16) x.seqid

/-- The rows of a group's step whose tokens are selected. -/
def sampledRows (s : State) (d : ServDecl) (g : Nat) (r : GroupRec) : List Nat :=
  (List.range (r.lanes * r.q)).filter (fun row =>
    if following s then d.sels.any (fun e => decide (e.group = g) && decide (e.row0 ≤ row) && decide (row < e.row0 + e.rows) &&
        (tget none s.saf.mirrorNow (e.core * 2048 + row)).isSome)
    else let y := stepRow s g row; y.valid && y.sampled)

/-- Every selection lane of a sampled row has sent its candidate. -/
def groupReady (s : State) (k : Nat) (d : ServDecl) (g : Nat) (rows : List Nat) : Bool :=
  d.sels.zipIdx.all (fun p => decide (p.1.group ≠ g) || !(rows.any (fun row => decide (p.1.row0 ≤ row) && decide (row < p.1.row0 + p.1.rows))) ||
    s.srv.selDone.contains (selId k p.2))

/-- SEL_FLAG of the STEER core is set (R297). -/
def setSelFlag (s : State) (r : GroupRec) : State :=
  match physicalOf s r.steer with
  | some c => effectAt s c 14 (clk s c) (.value 1) r.selFlag
  | none => s

/-- The group's decision; a difference between twins raises 0x25 before SEL_FLAG (R375). A step that was prepared from a withheld one is
not decided (R282). A FOLLOW holds no lanes and makes no binding pass of its own (R382). -/
def decideGroup (s : State) (k : Nat) (d : ServDecl) (g : Nat) (r : GroupRec) (twin : Option (Fin 4)) : State :=
  let rows := sampledRows s d g r
  if s.srv.decided.contains g || !(groupReady s k d g rows) then s
  else
    let s := match twin with | some u => raise s 0x25 [k] 3 0 k (u.val * 2 ^ 40 + 128 * g * 2 ^ 31) | none => s
    let s := updSrv s (fun x => { x with
      decided := x.decided ++ [g], sigToks := rows.foldl (fun (t : Tbl W32) row => tset 0xFFFFFFFF t (g * 2048 + row) (rowToken s g row)) x.sigToks })
    if following s then setSelFlag s r
    else
      let s := if (ctxAt s k).discardNext then s else forAll (List.range r.lanes) s (fun s i => decideLane s k g r i)
      prepGroup (setSelFlag s r) k d g r

def groupDecision (s : State) (g : Nat) (twin : Option (Fin 4)) : State :=
  match groupCtx s g with
  | none => s
  | some k =>
    match servDecl s k, groupRec s k g with
    | some d, some r => if s.tmp.working && (ctxAt s k).ranNow && !(ctxAt s k).parked then decideGroup s k d g r twin else s
    | _, _ => s

def execGroupDecision (g : GroupId) (twinDiffers : Option (Fin 4)) (s : State) : Host.Outcome State Fault Refusal :=
  done s (fun s => groupDecision s g twinDiffers)

end Sys2Proof.Machine
end

