-- ==== Sys2Proof/Machine/Serve.lean ====
section
/-! DEFINITION. The serving commands: ADMIT, CANCEL, PATCH_LOAD, PATCH_DROP, the ends of their host reads, token doorbells, and the SRV
registers with rows of their own (R279, R283 to R285, R294, R303, R311, R329, R340). -/

namespace Sys2Proof.Machine

/-- A serving command goes on for a context that owns a group (R279); a FOLLOW refuses those that `follow` names (R382). -/
def forServing (s : State) (id : Nat) (k : Nat) (follow : Bool) (run : State → State) : State :=
  if (ctxGroups s k).isEmpty then finishCmd s id 1 0 (countNow s)
  else if follow && following s then finishCmd s id 0x11 0 (countNow s)
  else run s

/-! ### ADMIT (R283, Table 10.4) -/

def adSeqid (b : BitVec 1024) : W64 := BitVec.ofNat 64 (bits b 0 64)
def adSeed (b : BitVec 1024) : W64 := BitVec.ofNat 64 (bits b 64 64)
def adMode (b : BitVec 1024) : Nat := bits b 158 2
def adShout (b : BitVec 1024) : Bool := bit b 157
/-- LIMIT, in positions. -/
def adLimit (b : BitVec 1024) : Nat := bits b 128 24 + 1
/-- FEED_LEN, in tokens. -/
def adFeed (b : BitVec 1024) : Nat := bits b 160 24 + 1
def adFeedAddr (b : BitVec 1024) : Nat := bits b 192 64
def adRing (b : BitVec 1024) : Nat := bits b 256 64
def adHead (b : BitVec 1024) : Nat := bits b 320 64
def adRingLog2 (b : BitVec 1024) : Nat := bits b 384 5
def adPatchGen (b : BitVec 1024) : Nat := bits b 416 16
def adPatchId (b : BitVec 1024) : Nat := bits b 432 16
def adEos (b : BitVec 1024) : W32 := BitVec.ofNat 32 (bits b 448 32)
def adTemp (b : BitVec 1024) : W16 := BitVec.ofNat 16 (bits b 480 16)
def adShuttle (b : BitVec 1024) : W64 := BitVec.ofNat 64 (bits b 512 64)
def adPeer (b : BitVec 1024) : Nat := bits b 576 12

/-- TEMP is finite and not below −0. -/
def tempOk (t : W16) : Bool := decide (bits t 7 8 ≠ 255) && (!(bit t 15) || decide (bits t 0 15 = 0))

/-- A body without a reserved field or code, and with TEMP, FEED_LEN and RING_LOG2 allowed; FEED_LEN and LIMIT leave a position for an
emitted token. -/
def admitBodyOk (body : BitVec 1536) : Bool :=
  let b : BitVec 1024 := body.setWidth 1024
  let moved := decide (adMode b = 1) || adShout b
  decide (adMode b < 2) && decide (bits b 152 5 = 0) && decide (bits b 184 8 = 0) && decide (bits b 389 27 = 0) && decide (bits b 496 16 = 0) &&
  decide (bits b 588 20 = 0) && bodyEnds body 76 && tempOk (adTemp b) && decide (4 ≤ adRingLog2 b) && decide (adRingLog2 b ≤ 20) &&
  aligned (adRing b) 64 && aligned (adHead b) 8 && aligned (adFeedAddr b) 64 &&
  (if adMode b = 0 then decide (adFeed b + 1 ≤ adLimit b) else decide (bits b 160 24 = 0) && decide (adFeedAddr b = 0) && !(adShout b)) &&
  (moved || (decide (adShuttle b = 0) && decide (adPeer b = 0)))

/-- An accepted ADMIT waits for the next edge (R284). -/
def admitRun (s : State) (body : BitVec 1536) (id k : Nat) : State :=
  forServing s id k true (fun s =>
    updSrv (updCmd s id (fun c => { c with kind := .admission (body.setWidth 1024) })) (fun x => { x with admits := x.admits ++ [id] }))

def execAdmission (fn : FnId) (q : Fin 4) (hdr : BitVec 512) (body : BitVec 1536) (s : State) : Host.Outcome State Fault Refusal :=
  done s (fun s => hostCmd s fn q hdr 0x01 (admitBodyOk body) (fun s id =>
    forCtx s id (fnCtx s fn) 0x10 stRunning (fun s k => admitRun s body id k)))

/-- The prompt has arrived (R284, R294), or its host read has failed and the lane stays without rows. -/
def promptRead (s : State) (l : Nat) (ok : Bool) : State :=
  let x := laneAt s l
  match ctxFn s x.ctx with
  | none => s
  | some f =>
    if x.st = .feeding ∧ x.fed = false ∧ ok = true then
      let toks := (List.range x.feedLen).map (fun i => BitVec.ofNat 32 (readLe (hostMem s f) (x.feedAddr.toNat + 4 * i) 4))
      setLane s l { x with com := ⟨0, toks, last16 toks⟩, fed := true }
    else s

def execPromptReadComplete (l : LaneId) (dmaOk : Bool) (s : State) : Host.Outcome State Fault Refusal :=
  plain s (fun s => promptRead s l dmaOk)

/-! ### CANCEL (R285) -/

def execCancel (fn : FnId) (q : Fin 4) (hdr : BitVec 512) (body : BitVec 1536) (s : State) : Host.Outcome State Fault Refusal :=
  done s (fun s => hostCmd s fn q hdr 0x02 (bodyEnds body 8) (fun s id =>
    forCtx s id (fnCtx s fn) 0x10 stRunning (fun s k => forServing s id k true (fun s =>
      updSrv (updCmd s id (fun c => { c with kind := .cancel (BitVec.ofNat 64 (bits body 0 64)) })) (fun x => { x with cancels := x.cancels ++ [id] })))))

/-! ### PATCH_LOAD and PATCH_DROP (R311) -/

def plId (b : BitVec 1536) : Nat := bits b 16 16
def plGen (b : BitVec 1536) : Nat := bits b 0 16
def plLen (b : BitVec 1536) : Nat := bits b 32 32
def plKey (b : BitVec 1536) : Nat := bits b 128 3

def patchBodyOk (b : BitVec 1536) : Bool :=
  decide (plId b ≠ 0xFFFF) && decide (plGen b ≠ 0) && decide (bits b 131 61 = 0) && bodyEnds b 32 && aligned (bits b 64 64) 64 &&
  aligned (bits b 192 64) 64

/-- The slots of a context's pool that hold a PATCH_ID. -/
def slotsOf (s : State) (k ident : Nat) : List Nat :=
  (poolSlots s k).filter (fun i => decide ((patchAt s i).st ≠ .free) && decide ((patchAt s i).ident.toNat = ident))

/-- The refusals of R311 in its order; then the lowest FREE slot is taken, and the key copied (R405). -/
def patchLoadRun (s : State) (b : BitVec 1536) (id k : Nat) : State :=
  let end_ (st : Nat) : State := finishCmd s id st 0 (countNow s)
  if plLen b = 0 then end_ 0
  else match (poolSlots s k).find? (fun i => decide ((patchAt s i).st = .free)) with
    | none => end_ 7
    | some i =>
      if (slotsOf s k (plId b)).any (fun j => decide (plGen b ≤ (patchAt s j).gen.toNat)) then end_ 8
      else if patchSlotBytes (srvCtxAt s k) < plLen b then end_ 4
      else match ctxKey s k (plKey b) with
        | none => end_ 0x14
        | some key =>
          let s := setPatch s i { st := .loading, ctx := k, ident := BitVec.ofNat 16 (plId b), gen := BitVec.ofNat 16 (plGen b), cmd := some id }
          updCmd s id (fun c => { c with
            kind := .patchLoad i (BitVec.ofNat 16 (plGen b)) (BitVec.ofNat 64 (bits b 64 64)) (plLen b) key (BitVec.ofNat 64 (bits b 192 64)) })

def execPatchLoad (fn : FnId) (q : Fin 4) (hdr : BitVec 512) (body : BitVec 1536) (s : State) : Host.Outcome State Fault Refusal :=
  done s (fun s => hostCmd s fn q hdr 0x03 (patchBodyOk body) (fun s id =>
    forCtx s id (fnCtx s fn) 0x10 stLoadRun (fun s k => forServing s id k false (fun s => patchLoadRun s body id k))))

/-- A patch image over the pieces of its slot, in logical-core order (R309). -/
def writePatch (s : State) (k slot : Nat) (d : List Byte) : State :=
  let p := patchPiece (srvCtxAt s k)
  forAll (patchCores (srvCtxAt s k)).zipIdx s (fun s e =>
    match physicalOf s e.1 with
    | some c => if e.2 * p < d.length then (writeColumn s c (patchOffset s k slot) ((d.drop (e.2 * p)).take p)).2 else s
    | none => s)

/-- The host read and the inline verification of a patch image end; a failed image's destination becomes zeros (R310, R311, R333). -/
def patchEnd (s : State) (slot : Nat) (dmaOk : Bool) : State :=
  let p := patchAt s slot
  if p.st ≠ .loading ∨ p.verified = true then s
  else match p.cmd.bind (findCmd s) with
    | none => s
    | some c =>
      match c.kind with
      | .patchLoad _ gen h n key sig =>
        let fail (st : Nat) : State := finishCmd (setPatch (writePatch s p.ctx slot (List.replicate n 0)) slot {}) c.id st 0 (countNow s)
        if !dmaOk then fail 0x15
        else
          let data := readBytes (hostMem s c.fn) h.toNat n
          let block := sigBlock s c.fn sig
          if !(loadVerifies ⟨2, n, p.ident.toNat, gen.toNat, keyDigest key⟩ key block data) then fail 9
          else
            let rec_ := logRecord block (signedMessage block data) 2 slot 0 0 n
            let s := setPatch (writePatch s p.ctx slot data) slot { p with verified := true }
            updCmd s c.id (fun c => { c with started := true, good := some (digestOf rec_) })
      | _ => s

def execPatchImageVerified (slot : Fin 64) (dmaOk : Bool) (s : State) : Host.Outcome State Fault Refusal :=
  done s (fun s => patchEnd s slot dmaOk)

/-- A verified slot becomes READY; of two READY generations of one ID the older is superseded; its PATCH_LOAD completes (R310, R408). -/
def readyPatch (s : State) (i : Nat) : State :=
  let p := patchAt s i
  let same := (slotsOf s p.ctx p.ident.toNat).filter (fun j => decide (j ≠ i) && decide ((patchAt s j).st = .ready))
  let newer := same.any (fun j => decide (p.gen.toNat < (patchAt s j).gen.toNat))
  let s := setPatch s i { p with st := if newer then .draining else .ready, verified := false, cmd := none }
  let s := if newer then s else forAll same s (fun s j => setPatch s j { patchAt s j with st := .draining })
  match p.cmd.bind (findCmd s) with
  | some c => finishCmd (match c.good with | some g => addWeightLog s c.ctx g | none => s) c.id 0 i (countNow s)
  | none => s

/-- PATCH_DROP waits for the next edge where its ID has a READY slot. -/
def patchDropRun (s : State) (b : BitVec 1536) (id k : Nat) : State :=
  match (slotsOf s k (bits b 0 16)).find? (fun i => decide ((patchAt s i).st = .ready)) with
  | none => finishCmd s id 0x0A 0 (countNow s)
  | some i => updCmd (setPatch s i { patchAt s i with drop := true }) id (fun c => { c with kind := .patchDrop i })

def execPatchDrop (fn : FnId) (q : Fin 4) (hdr : BitVec 512) (body : BitVec 1536) (s : State) : Host.Outcome State Fault Refusal :=
  done s (fun s => hostCmd s fn q hdr 0x04 (bodyEnds body 2 && decide (bits body 0 16 ≠ 0xFFFF)) (fun s id =>
    forCtx s id (fnCtx s fn) 0x10 stLoadRun (fun s k => forServing s id k false (fun s => patchDropRun s body id k))))

/-! ### Token doorbells (R303, R329) -/

/-- An ignored tail write, counted for the function's context. -/
def tailIgnored (s : State) (f : Nat) : State :=
  let s := setSrvStatus s 1
  match fnCtx s f with
  | some k => updSrvCtx s k (fun x => { x with tailIgn := satAdd x.tailIgn 1 })
  | none => s

/-- A tail count for a lane: ignored below the previous one or above the head. Only single aligned writes of 8 B count (R329). -/
def tokenTail (s : State) (f off size : Nat) (val : W64) : State :=
  let l := off / 8
  let x := laneAt s l
  if size ≠ 8 ∨ off % 8 ≠ 0 ∨ 4096 ≤ off then s
  else if (groupCtx s (l / 128)).isNone ∨ groupCtx s (l / 128) ≠ fnCtx s f ∨ x.st = .free ∨
      val.toNat < x.tail.toNat ∨ x.head.toNat < val.toNat then tailIgnored s f
  else setLane s l { x with tail := val }

def execTokenDoorbell (fn : FnId) (off size : Nat) (val : W64) (s : State) : Host.Outcome State Fault Refusal :=
  plain s (fun s => if hostReach s fn then tokenTail s fn off size val else s)

/-! ### SRV registers (R279, R338, R340) -/

/-- The context that SRV's registers act on for a function: the selected one for the steward PF, else the function's own. -/
def srvSel (s : State) (f : Nat) : Option Nat := if isSteward s f then some (bits s.srv.ctxSel 0 4) else fnCtx s f

def srvCfgErr (s : State) : State := setSrvStatus s 3

/-- SRV_GROUPS: refused where it would take a group with a lane that is not FREE or give one that another context owns. -/
def writeGroups (s : State) (k : Nat) (v : W32) : State :=
  let cur := (tget {} s.srv.groups k).eff
  let lost := (List.range 4).any (fun g => bit cur g && !(bit v g) && (List.range 128).any (fun i => !(laneFree s (128 * g + i))))
  let clash := (List.range 4).any (fun g => bit v g && (List.range 16).any (fun o => decide (o ≠ k) &&
    (bit (tget {} s.srv.groups o).acc g || bit (tget {} s.srv.groups o).eff g)))
  if lost || clash then srvCfgErr s
  else updSrv s (fun x => { x with groups := tupd {} x.groups k (fun d => { d with acc := v &&& 0xF }) })

def execSrvGroupsWrite (fn : FnId) (val : W32) (s : State) : Host.Outcome State Fault Refusal :=
  plain s (fun s => stewardDo s fn (fun s => writeGroups s (bits s.srv.ctxSel 0 4) val))

/-- SRV_CLEAR: the selected context's counters. -/
def clearSrv (s : State) (k : Nat) : State := updSrvCtx s k (fun x => { x with draftDrop := 0, tailIgn := 0 })

def execSrvClear (fn : FnId) (val : W32) (s : State) : Host.Outcome State Fault Refusal :=
  plain s (fun s => match srvSel s fn with
    | some k => if hostReach s fn && bit val 0 then clearSrv s k else s
    | none => s)

end Sys2Proof.Machine
end

