-- ==== Sys2Proof/Machine/Shuttle.lean ====
section
/-! DEFINITION. Shuttles: OFFER, GRANT, state record and ACK, their time-out, and the MIRROR frames that a FOLLOW receives (R305 to R308,
R382). -/

namespace Sys2Proof.Machine

/-- The lane in a state whose shuttle has an identifier and a peer. -/
def shuttleLane (s : State) (st : LaneSt) (chip : Nat) (ident : W64) : Option Nat :=
  (List.range 512).find? (fun l =>
    let x := laneAt s l
    decide (x.st = st) && decide (x.shuttle.ident = ident) && decide (x.shuttle.peer.toNat = chip))

/-- The message carries the job tag of the lane's context (R261, R305). -/
def shuttleTag (s : State) (l : Nat) (job : W16) : Bool := decide (jobTag s (laneAt s l).ctx = some job.toNat)

/-- Blocks that a shuttle moves, over all shards. -/
def shipCount (d : ServDecl) (kvlen : Nat) : Nat := d.shards * shipBlocks d kvlen

/-- The peer is reached through a down-trained port (R308). -/
def legacyPeer (s : State) (chip : Nat) : Bool :=
  match routePort s chip (ownChip s) 0xFF 0 with | some p => decide ((portAt s p).gen ≠ 3) | none => false

/-! ### OFFER (steps 2 and 3) -/

/-- The GRANT: its addresses go to the peer, or, with the awaited record's format word, to the context's legacy host buffer (R308). -/
def sendGrant (s : State) (l : Nat) (d : ServDecl) (addrs : List W64) : State :=
  let x := laneAt s l
  let list := addrs.flatMap (fun a => leBytes 8 a.toNat)
  if legacyPeer s x.shuttle.peer.toNat then
    let w := srvCtxAt s x.ctx
    match ctxFn s x.ctx with
    | some f => setHostMem s f (writeBytes (hostMem s f) (join64 w.legacyHi.eff w.legacyLo.eff).toNat
        (leBytes 8 x.shuttle.ident.toNat ++ leBytes 8 d.kvfmt.toNat ++ leBytes 8 addrs.length ++ list))
    | none => s
  else sendShuttle s l 3 addrs.length 0 list

/-- The checks of step 2 on an OFFER for a landing lane, the blocks of step 3, and the GRANT. -/
def takeOffer (s : State) (l : Nat) (o : Offer) : State :=
  let x := laneAt s l
  match servDecl s x.ctx with
  | none => s
  | some d =>
    if !(shuttleTag s l o.job) || decide (o.kvfmt ≠ d.kvfmt) then shuttleAbort s l 0x0B
    else if x.limit ≤ o.kvlen then shuttleAbort s l 4
    else
      let n := shipBlocks d o.kvlen
      let s := forAll (List.range d.shards) s (fun s sh => forAll (List.range n) s (fun s b => kvAllocate s x.ctx d x sh b))
      let addrs := (List.range (shipCount d o.kvlen)).map (shuttleBlock s d x o.kvlen)
      let s := setLane s l { x with
        com := { x.com with kvlen := o.kvlen }
        shuttle := { x.shuttle with step := 5, grants := addrs, todo := if d.coded then List.range (shipCount d o.kvlen) else [] } }
      sendGrant s l d addrs

/-- An OFFER before its admission is held (R305). -/
def offerArrive (s : State) (o : Offer) : State :=
  match shuttleLane s .landing o.chip.toNat o.ident with
  | some l => if (laneAt s l).shuttle.step = 2 then takeOffer s l o else s
  | none => updSrv s (fun x => { x with offers := x.offers ++ [o] })

def execShuttleOfferReceive (chip : BitVec 12) (job : W16) (ident kvfmt : W64) (kvlen : BitVec 24) (s : State) :
    Host.Outcome State Fault Refusal :=
  done s (fun s => offerArrive s ⟨chip, ident, job, kvfmt, kvlen.toNat, s.now⟩)

/-- The shuttle timeout of a context, in time units. -/
def shuttleTmo (s : State) (k : Nat) : Nat := usSc (bits (srvCtxAt s k).tmo.eff 0 20) * Config.unitsPerSc

/-- An admission in mode 1 meets an OFFER held for it, unless that is older than the shuttle timeout. -/
def heldOffer (s : State) (l : Nat) : State :=
  let x := laneAt s l
  let mine (o : Offer) : Bool := decide (o.ident = x.shuttle.ident) && decide (o.chip = x.shuttle.peer)
  match s.srv.offers.find? (fun o => mine o && decide (s.now ≤ o.at_ + shuttleTmo s x.ctx)) with
  | some o => takeOffer (updSrv s (fun y => { y with offers := y.offers.filter (fun o => !(mine o)) })) l o
  | none => s

/-! ### GRANT and puts (steps 3 to 5) -/

/-- Put one block: its positions below KVLEN, into its granted address; a block that does not deliver fails the shuttle (R306). -/
def putBlock (s : State) (l : Nat) (d : ServDecl) (o : Nat) : State :=
  let x := laneAt s l
  let n := shipBlocks d x.com.kvlen
  let cnt := min (kvTpb d) (x.com.kvlen - o % n * kvTpb d)
  let w := kvWord s (laneEntry x (o / n) (o % n))
  match physicalOf s (bits w 19 6) with
  | none => s
  | some c =>
    let (data, ok, s) := readColumn s c (512 * bits w 0 19) (cnt * d.bpt) false
    if (laneAt s l).st ≠ .shipping then s
    else if !ok then shuttleAbort s l 0x0C
    else sendServ s l true (x.shuttle.grants.getD o 0) data

/-- The GRANT at the source: the puts begin, or, where CODED is 1, wait for their SHIP bindings (R307). -/
def grantArrive (s : State) (chip : Nat) (job : W16) (ident : W64) (addrs : List W64) : State :=
  match shuttleLane s .shipping chip ident with
  | none => s
  | some l =>
    let x := laneAt s l
    match servDecl s x.ctx with
    | none => s
    | some d =>
      let n := shipCount d x.com.kvlen
      if x.shuttle.step ≠ 3 then s
      else if !(shuttleTag s l job) then shuttleAbort s l 0x0B
      else if addrs.length ≠ n then s
      else
        let h := { x.shuttle with grants := addrs, step := 4, putsLeft := if d.coded then 0 else n, todo := if d.coded then List.range n else [] }
        let s := setLane s l { x with shuttle := h }
        if d.coded then s else forAll (List.range n) s (fun s o => putBlock s l d o)

def execShuttleGrantReceive (chip : BitVec 12) (job : W16) (ident : W64) (addrs : List W64) (s : State) : Host.Outcome State Fault Refusal :=
  done s (fun s => grantArrive s chip.toNat job ident addrs)

/-! ### The state record (steps 5 and 6, Table 10.15) -/

/-- KVLEN, PEND and HIST of a record. -/
def recordState (b : List Byte) : SeqSt :=
  let hist := (List.range 16).map (fun i => BitVec.ofNat 32 (sliceNat b (32 + 4 * i) 4))
  ⟨sliceNat b 16 3, [BitVec.ofNat 32 (sliceNat b 20 4)], hist.drop (15 - min 15 (sliceNat b 16 3))⟩

/-- Every block has been put: the ACK goes out, and the lane decodes from the next edge. -/
def shuttleLanded (s : State) (l : Nat) : State :=
  let x := laneAt s l
  match x.shuttle.record with
  | some r =>
    if x.st = .landing ∧ x.shuttle.step = 5 ∧ x.shuttle.puts = r.2 then
      sendShuttle (setLane s l { x with shuttle := { x.shuttle with step := 6 } }) l 4 0 0 []
    else s
  | none => s

/-- A slot of the landing ring that a legacy source has filled is taken (R308). -/
def takeLanding (s : State) (k : Nat) : Option State :=
  let w := (srvCtxAt s k).land.eff
  match physicalOf s (bits w 24 6) with
  | some c =>
    let r := bits w 0 4
    if bit w 31 && decide (0 < ringFilled (coreAt s c) r) then some (addSync s c (ringRel (coreAt s c) r) 1) else none
  | none => none

/-- The record's checks: SEQID, SEED, the KV format word and KVLEN of the OFFER, the put count, the CRC, and the reserved bytes, which make it
a failed record (R16, Table 10.15, assumption log 64). -/
def recordCause (x : Lane) (d : ServDecl) (b : List Byte) (puts : Nat) : Nat :=
  if sliceNat b 0 8 ≠ x.seqid.toNat ∨ sliceNat b 8 8 ≠ x.seed.toNat ∨ sliceNat b 24 8 ≠ d.kvfmt.toNat then 0x0B
  else if sliceNat b 124 4 ≠ (crc32c (b.take 124)).toNat ∨ sliceNat b 16 4 ≠ x.com.kvlen ∨ puts ≠ shipCount d x.com.kvlen ∨ sliceNat b 96 28 ≠ 0 then 0x0C
  else 0

/-- The record arrives at the destination; blocks of an uncoded shuttle have all been put by then (step 5). -/
def recordArrive (s : State) (chip : Nat) (job : W16) (ident : W64) (record : BitVec 1024) (puts : Nat) : State :=
  match shuttleLane s .landing chip ident with
  | none => s
  | some l =>
    let x := laneAt s l
    let legacy := legacyPeer s chip
    match servDecl s x.ctx, (if legacy then takeLanding s x.ctx else some s) with
    | some d, some s =>
      let b := leBytes 128 record.toNat
      if x.shuttle.step ≠ 5 then s
      else if !(shuttleTag s l job) then shuttleAbort s l 0x0B
      else match recordCause x d b puts with
        | 0 =>
          let h := { x.shuttle with record := some (recordState b, puts), puts := if d.coded then x.shuttle.puts else puts }
          shuttleLanded (setLane s l { x with shuttle := h }) l
        | st => shuttleAbort s l st
    | _, _ => s

def execShuttleStateRecordReceive (chip : BitVec 12) (job : W16) (ident : W64) (record : BitVec 1024) (puts : Nat) (s : State) :
    Host.Outcome State Fault Refusal :=
  done s (fun s => recordArrive s chip.toNat job ident record puts)

/-! ### ACK and time-out -/

/-- ACK with status 0 at the source retires the lane at the next edge (R281); another status ends the shuttle on this side (R306). -/
def shuttleAckIn (s : State) (chip : Nat) (job : W16) (ident : W64) (status : Nat) : State :=
  match shuttleLane s .shipping chip ident, shuttleLane s .landing chip ident with
  | some l, _ =>
    let x := laneAt s l
    if !(shuttleTag s l job) then shuttleAbort s l 0x0B
    else if status ≠ 0 then shuttleFail s l status
    else if x.shuttle.step = 6 then setLane s l { x with st := .ending, ended := true, shuttle := {} }
    else s
  | none, some l => if status ≠ 0 ∧ shuttleTag s l job = true then shuttleFail s l status else s
  | none, none => s

def execShuttleAckReceive (chip : BitVec 12) (job : W16) (ident : W64) (status : Byte) (s : State) : Host.Outcome State Fault Refusal :=
  done s (fun s => shuttleAckIn s chip.toNat job ident status.toNat)

/-- A side that has not taken its next step within the timeout (R305); a destination that has sent its ACK only awaits the edge. -/
def shuttleExpire (s : State) (l : Nat) : State :=
  let x := laneAt s l
  if x.st = .shipping ∨ (x.st = .landing ∧ x.shuttle.step ≠ 6) then shuttleAbort s l 0x0D else s

def execShuttleTimeout (l : LaneId) (s : State) : Host.Outcome State Fault Refusal := done s (fun s => shuttleExpire s l)

/-! ### MIRROR frames at a FOLLOW (R382, Table 13.4) -/

/-- A slot that a mirrored step names: READY from then on, superseding its PATCH_ID's older generation (R310); the FOLLOW lacks it
otherwise. -/
def namePatch (s : State) (k slot : Nat) : State :=
  let p := patchAt s slot
  if p.ctx ≠ k ∨ p.st = .free ∨ (p.st = .loading ∧ p.verified = false) then raise s 0x21 [k] 3 0 k 0
  else if p.st = .loading then readyPatch s slot
  else s

/-- The lines of a STEP binding. -/
def stepLine (s : State) (k core line : Nat) : Bool :=
  match servDecl s k with
  | some d => d.bindings.any (fun b => decide (b.kind = 0) && decide (b.core = core) && decide (b.d ≤ line) &&
      (match d.groups[b.group]? with | some r => decide (line < b.d + 2 * bindSpan r b) | none => false))
  | none => false

/-- A line write of the LEAD: a line of step records as it is, else LEN and GADDR of a descriptor, with this module's chip ID in place of
the LEAD's. -/
def mirrorWrite (s : State) (k c core line : Nat) (data : List Byte) : State :=
  if stepLine s k core line then
    let pens := ((List.range 4).map (fun i => sliceNat data (16 * i + 8) 4)).filter (fun w => decide (2 ^ 31 ≤ w))
    forAll pens (flowStoreWrite s c (64 * line) data).2 (fun s w => namePatch s k (w % 64))
  else
    let a := BitVec.ofNat 64 (sliceNat data 8 8)
    let a := if gaChip a = (portAt s 15).neighChip.toNat then gaMake (ownChip s) (gaCore a) (gaOff a) else a
    (flowStoreWrite (flowStoreWrite s c (64 * line) (data.take 3)).2 c (64 * line + 8) (leBytes 8 a.toNat)).2

/-- The group of a context that a core steers. -/
def steerGroup (d : ServDecl) (core : Nat) : Option (Nat × GroupRec) :=
  (d.groups.zipIdx.find? (fun p => p.1.used && decide (p.1.steer = core))).map (fun p => (p.2, p.1))

/-- One MIRROR item. -/
def mirrorArrive (s : State) (f : Flit256) : State :=
  let item := opItem f
  let core := item / 2 ^ 56 % 64
  let data := leBytes 64 (bits f 192 512)
  match physicalOf s core with
  | none => s
  | some c =>
    match ctxOfCore s c with
    | none => s
    | some k =>
      match item / 2 ^ 62 with
      | 0 => mirrorWrite s k c core (item / 2 ^ 39 % 2 ^ 17) data
      | 1 =>
        let key := some (BitVec.ofNat 64 (sliceNat data 0 8), BitVec.ofNat 64 (sliceNat data 8 8), sliceNat data 16 3, BitVec.ofNat 16 (sliceNat data 20 2))
        let i := core * 2048 + item / 2 ^ 28 % 2 ^ 11
        if opCount f = s.tmp.t then updSaf s (fun x => { x with mirrorKeys := tset none x.mirrorKeys i key })
        else updSaf s (fun x => { x with mirrorNow := tset none x.mirrorNow i key })
      | 2 =>
        match servDecl s k with
        | some d => match steerGroup d core with | some (g, r) => bindArrivals s d g r | none => s
        | none => s
      | _ => s

end Sys2Proof.Machine
end

