-- ==== Sys2Proof/Machine/SrvEdge.lean ====
section
/-! DEFINITION. The serving actions of a tempo edge, in the order of Table 10.2; they act at the commit point (R366). -/

namespace Sys2Proof.Machine

/-- The occupied lanes, in order. -/
def busyLanes (s : State) : List Nat := s.srv.lanes.map (·.1)

/-! ### Step 1: commit or discard (R282) -/

/-- The segment that a SHIP binding's encode left in its staging range, as far as its header states (R307). -/
def stagedSegment (s : State) (k n core : Nat) : List Byte × Bool × State :=
  match physicalOf s core with
  | none => ([], false, s)
  | some c =>
    let a := 512 * Config.stagingBlock k n
    let (h, ok, s) := readColumn s c a 64 false
    if ok then readColumn s c a (64 * (1 + sliceNat h 8 4)) false else ([], false, s)

/-- The committed tempo's coded blocks: staged segments go out from the source; blocks that the LAND PUTs have written count at the
destination. -/
def codedCommit (s : State) (l : Nat) : State :=
  let x := laneAt s l
  match x.shuttle.fin, servDecl s x.ctx with
  | [], _ => s
  | _, none => s
  | fin, some d =>
    let s := updLane s l (fun x => { x with shuttle := { x.shuttle with fin := [] } })
    if x.st = .shipping then
      forAll fin s (fun s e =>
        let (seg, ok, s) := stagedSegment s x.ctx e.2 ((d.bindings[e.2]?).map (·.core) |>.getD 0)
        if (laneAt s l).st ≠ .shipping then s
        else if !ok then shuttleAbort s l 0x0C
        else
          let s := updLane s l (fun x => { x with shuttle := { x.shuttle with putsLeft := x.shuttle.putsLeft + 1 } })
          sendServ s l true (gaMake x.shuttle.peer.toNat 0xFF 0x1000000) (mailbox 5 x.shuttle.ident e.1 0 seg))
    else
      let s := updSrv s (fun y => { y with segs := y.segs.filter (fun g => !(decide (g.1 = x.shuttle.ident) && fin.any (fun e => decide (e.1 = g.2.1)))) })
      shuttleLanded (updLane s l (fun x => { x with shuttle := { x.shuttle with puts := x.shuttle.puts + fin.length } })) l

/-- A lane enters SHIPPING and sends its OFFER (steps 1 and 2 of Table 10.14). -/
def startShip (s : State) (l : Nat) : State :=
  let x := laneAt s l
  let kvfmt := match servDecl s x.ctx with | some d => d.kvfmt | none => 0
  let s := updLane (clearRows s l) l (fun x => { x with st := .shipping, dec := none, ended := false, shuttle := { x.shuttle with step := 3 } })
  sendShuttle s l 1 kvfmt.toNat x.com.kvlen []

/-- CAUSE of the last record, where it carries END. -/
def endCause (rs : List TokenRec) : Nat := match rs.getLast? with | some r => if bit r 63 then bits r 60 3 else 0 | none => 0

/-- Step 1 for a lane whose worked tempo is committed. -/
def commitLane (s : State) (l : Nat) : State :=
  let s := codedCommit s l
  let x := laneAt s l
  match x.edec with
  | none => updLane s l (fun x => { x with ealloc := [], gambit := if x.gambit = .decided then .open else x.gambit })
  | some d =>
    let s := setLane s l { x with
      com := d.st, edec := none, ealloc := [], recs := x.recs ++ d.recs, ended := d.ended
      st := if x.st = .feeding ∧ d.recs ≠ [] then .decoding else x.st
      gambit := if x.gambit = .decided ∧ x.dec.isNone then .open else x.gambit }
    if endCause d.recs = 4 then startShip s l else s

/-- Step 1 for a lane whose worked tempo is withheld: its decisions and blocks of that tempo and of the one in progress are discarded. -/
def discardLane (s : State) (l : Nat) : State :=
  let x := laneAt s l
  let s := unalloc s x.ctx x (x.ealloc ++ x.alloc)
  updLane s l (fun x => { x with
    edec := none, dec := none, ealloc := [], alloc := [], gambit := .open
    shuttle := { x.shuttle with todo := (x.shuttle.fin ++ x.shuttle.prep).map (·.1) ++ x.shuttle.todo, fin := [], prep := [] } })

/-- Discard a context's serving state: the tempo in progress decides nothing, and a step already prepared from it is composed again from
the committed state (R282). -/
def discardServing (s : State) (k : Nat) : State :=
  match servDecl s k with
  | none => s
  | some d =>
    let s := forAll ((busyLanes s).filter (fun l => decide ((laneAt s l).ctx = k))) s discardLane
    let s := updCtx s k (fun c => { c with discardNext := c.ranNow })
    forAll ((ctxGroups s k).filter (fun g => s.srv.decided.contains g)) s (fun s g =>
      match groupRec s k g with | some r => composeGroup s k d g r | none => s)

/-! ### Step 2: records (R304) -/

def ringRoom (x : Lane) : Bool := decide (x.head.toNat - x.tail.toNat + x.recs.length ≤ 2 ^ x.ringLog2)

/-- Write a lane's records, then the head count; HELD marks those that waited in a pause. -/
def writeRecords (s : State) (l : Nat) : State :=
  let x := laneAt s l
  let s' := setLane s l { x with recs := [], held := 0, head := x.head + BitVec.ofNat 64 x.recs.length }
  match ctxFn s x.ctx with
  | none => s'
  | some f =>
    let m := x.recs.zipIdx.foldl (fun (m : Mem) p =>
      writeLe m (x.ringAddr.toNat + 8 * ((x.head.toNat + p.2) % 2 ^ x.ringLog2)) 8 (if p.2 < x.held then orBit p.1 58 else p.1).toNat) (hostMem s f)
    setHostMem s' f (writeLe m x.headAddr.toNat 8 (x.head.toNat + x.recs.length))

/-- A lane without room pauses: it takes no rows. -/
def pauseLane (s : State) (l : Nat) : State :=
  let x := laneAt s l
  let s := setLane (clearRows s l) l { x with st := .paused, resume := x.st, held := x.recs.length, dec := none }
  choice (setSrvStatus s 0) 3 x.ctx l 0 x.seqid

/-- Step 2 for one lane; after a function-level reset nothing is written (R324, R366). -/
def recordLane (s : State) (l : Nat) : State :=
  let x := laneAt s l
  if (ctxAt s x.ctx).flr then setLane s l { x with recs := [], held := 0 }
  else if x.recs = [] then s
  else if ringRoom x then
    let s := writeRecords s l
    if x.st = .paused then choice (updLane s l (fun x => { x with st := x.resume })) 4 x.ctx l x.recs.length x.seqid else s
  else if x.st = .feeding ∨ x.st = .decoding then pauseLane s l
  else s

/-! ### Step 3: retirement (R289) -/

def retireLane (s : State) (l : Nat) : State :=
  let x := laneAt s l
  if x.recs = [] ∧ x.ended = true ∧ (x.st = .ending ∨ x.st = .feeding ∨ x.st = .decoding) then freeLane (clearRows s l) l else s

/-! ### Step 4: patches (R310) -/

/-- Dropped slots begin to drain, and their PATCH_DROPs complete. -/
def dropSlot (s : State) (i : Nat) : State :=
  let p := patchAt s i
  if p.drop then
    let s := setPatch s i { p with drop := false, st := if p.st = .ready then .draining else p.st }
    forAll (s.cmds.filter (fun c => decide (c.kind = .patchDrop i))) s (fun s c => finishCmd s c.id 0 0 (countNow s))
  else s

/-- Step 4; a FOLLOW's slots change only as MIRROR frames name them (R382). -/
def patchEdge (s : State) : State :=
  if following s then s
  else
    let s := forAll (s.srv.cut.ready.filter (fun i => decide ((patchAt s i).st = .loading) && (patchAt s i).verified)) s readyPatch
    let s := forAll s.srv.cut.drops s dropSlot
    forAll (List.range 64) s (fun s i => if (patchAt s i).st = .draining ∧ (patchAt s i).count = 0 then setPatch s i {} else s)

/-! ### Step 5: cancellations (R285) -/

/-- The position after the last emitted token; of a lane still fed, after its prompt. -/
def endPos (x : Lane) : Nat := if x.st = .feeding then x.feedLen else afterLast x

/-- A FEEDING, DECODING or PAUSED lane enters ENDING. -/
def cancelLane (s : State) (l : Nat) : State :=
  let x := laneAt s l
  setLane (clearRows s l) l { x with
    st := .ending, ended := true, dec := none, draft := none, recs := x.recs ++ [endRecord 3 (endPos x)] }

/-- One CANCEL; a SHIPPING lane keeps it waiting until its shuttle has ended. -/
def cancelOne (s : State) (id : Nat) : State :=
  let drop (s : State) : State := updSrv s (fun x => { x with cancels := x.cancels.filter (fun i => decide (i ≠ id)) })
  match findCmd s id with
  | none => drop s
  | some c =>
    match c.kind with
    | .cancel seqid =>
      match laneOfSeq s c.ctx seqid with
      | none => finishCmd (drop s) id 0x0A 0 (countNow s)
      | some l =>
        let x := laneAt s l
        if x.st = .shipping then s
        else if x.ended then finishCmd (drop s) id 0x0A 0 (countNow s)
        else if x.st = .landing then finishCmd (shuttleAbort (drop s) l 0x0E) id 0 0 (countNow s)
        else finishCmd (cancelLane (drop s) l) id 0 0 (countNow s)
    | _ => drop s

/-- FORCE_STOP and a function-level reset end every resident sequence; END records are written where the ring has room (R323). -/
def endAllLanes (s : State) (k : Nat) : State :=
  forAll ((busyLanes s).filter (fun l => decide ((laneAt s l).ctx = k))) s (fun s l =>
    let x := laneAt s l
    let s := if x.st = .landing ∨ x.st = .shipping then shuttleAbort s l 0x0E else if x.ended then s else cancelLane s l
    let s := if ringRoom (laneAt s l) && !(ctxAt s k).flr then writeRecords s l else s
    freeLane (clearRows s l) l)

/-! ### Step 6: admissions (R284, R288, R312) -/

/-- The patch slot that an admission binds, or the status that refuses it. -/
def bindPatch (s : State) (k ident gen : Nat) : Except Nat (Option Nat) :=
  if ident = 0xFFFF then .ok none
  else
    let have_ (st : PatchSt) : Option Nat := (slotsOf s k ident).find? (fun i => decide ((patchAt s i).st = st) &&
      (decide (gen = 0) || decide ((patchAt s i).gen.toNat = gen)))
    match have_ .ready, have_ .draining with
    | some i, _ => .ok (some i)
    | none, some _ => if gen = 0 then .error 5 else .error 6
    | none, none => .error 5

/-- The lowest FREE lane that the context's groups can admit to; lanes at or above LANES are never admitted (Table 10.6). -/
def admitLane (s : State) (k : Nat) : Option Nat :=
  (ctxGroups s k).findSome? (fun g => (groupRec s k g).bind (fun r => ((List.range r.lanes).map (fun i => 128 * g + i)).find? (laneFree s)))

/-- An admission takes effect: the refusals of R284 in its order, else the lane. -/
def admitOne (s : State) (order id : Nat) (c : Cmd) (b : BitVec 1024) : State :=
  let k := c.ctx
  let end_ (st : Nat) : State := finishCmd s id st 0 (countNow s)
  match admitLane s k with
  | none => if (laneOfSeq s k (adSeqid b)).isSome then end_ 0x0F else end_ 2
  | some l =>
    if (laneOfSeq s k (adSeqid b)).isSome then end_ 0x0F
    else if !(bit (tget {} s.srv.groups k).acc (l / 128)) then end_ 2
    else match servDecl s k with
      | none => end_ 3
      | some d =>
        let bps := cdiv (adLimit b) (kvTpb d)
        match kvReserve s k d bps, bindPatch s k (adPatchId b) (adPatchGen b) with
        | none, _ => end_ 3
        | _, .error st => end_ st
        | some (e, s), .ok p =>
          let shuttle := decide (adMode b = 1)
          let x : Lane := { st := if shuttle then .landing else .feeding, ctx := k, seqid := adSeqid b, seed := adSeed b, limit := adLimit b,
                            temp := adTemp b, eos := adEos b, feedLen := adFeed b, feedAddr := BitVec.ofNat 64 (adFeedAddr b), ship := adShout b,
                            ringAddr := BitVec.ofNat 64 (adRing b), headAddr := BitVec.ofNat 64 (adHead b), ringLog2 := adRingLog2 b, patch := p,
                            extent := e, bps := bps, cmd := if shuttle then some id else none,
                            shuttle := { ident := adShuttle b, peer := BitVec.ofNat 12 (adPeer b), step := if shuttle then 2 else 0 } }
          let s := match p with | some i => setPatch s i { patchAt s i with count := (patchAt s i).count + 1 } | none => s
          let s := choice (setLane s l x) 1 k l order x.seqid
          if shuttle then heldOffer s l else finishCmd s id 0 l (countNow s)

/-- Step 6. -/
def admitAll (s : State) : State :=
  let ids := s.srv.admits.filter s.srv.cut.cmds.contains
  let s := updSrv s (fun x => { x with admits := x.admits.filter (fun i => !(x.cut.cmds.contains i)) })
  forAll ids.zipIdx s (fun s p => match findCmd s p.1 with
    | some c => match c.kind with | .admission b => admitOne s p.2 p.1 c b | _ => s
    | none => s)

/-! ### Step 7: landings (R305) -/

def landLane (s : State) (l : Nat) : State :=
  let x := laneAt s l
  match x.shuttle.record with
  | some r =>
    if x.st = .landing ∧ x.shuttle.step = 6 then
      let s := setLane s l { x with st := .decoding, com := r.1, fed := true, shuttle := {}, cmd := none }
      let s := choice s 0xA x.ctx l 0 x.seqid
      match x.cmd with | some id => finishCmd s id 0 l (countNow s) | none => s
    else s
  | none => s

/-! ### All steps -/

/-- A worked tempo that was prepared from a withheld one: its coded blocks are bound again (R282, R307). -/
def repeatCoded (s : State) (l : Nat) : State :=
  updLane s l (fun x => { x with shuttle := { x.shuttle with todo := x.shuttle.fin.map (·.1) ++ x.shuttle.todo, fin := [] } })

/-- Step 1: `withheld` names the contexts whose ended worked tempo is withheld, `after` those withheld only because it was prepared from a
withheld one, `committed` the others that ran it. -/
def servingDecide (s : State) (committed withheld after : List Nat) : State :=
  let s := forAll withheld s discardServing
  let s := forAll ((busyLanes s).filter (fun l => after.contains (laneAt s l).ctx)) s repeatCoded
  forAll ((busyLanes s).filter (fun l => (committed ++ after).contains (laneAt s l).ctx)) s commitLane

/-- The resident sequences of contexts that FORCE_STOP or a function-level reset has stopped end. -/
def forcedEnds (s : State) : State :=
  forAll ((List.range 16).filter (fun k => (ctxAt s k).force && decide ((ctxAt s k).st ≠ .running))) s (fun s k =>
    updCtx (endAllLanes s k) k (fun c => { c with force := false, flr := false }))

/-- Where no worked tempo has begun, lanes change in no other way (R281): committed records are written where the ring has room. -/
def recordOnly (s : State) (l : Nat) : State :=
  let x := laneAt s l
  if (ctxAt s x.ctx).flr || decide (x.recs = []) || decide (x.st = .paused) || !(ringRoom x) then s else writeRecords s l

/-- The commit point after an edge that began no worked tempo: a tempo lost or a snapshot stop. -/
def servingStop (s : State) (committed withheld after : List Nat) : State :=
  let s := servingDecide s committed withheld after
  forcedEnds (forAll (busyLanes s) s recordOnly)

def recordCount (s : State) : Nat := s.srv.lanes.foldl (fun n p => n + p.2.recs.length) 0

/-- Steps 1 to 7 at a commit point. -/
def servingEdge (s : State) (committed withheld after : List Nat) : State :=
  let before := recordCount s
  let s := servingDecide s committed withheld after
  let tokens := recordCount s - before
  let s := forAll (busyLanes s) s recordLane
  let s := forAll (busyLanes s) s retireLane
  let s := patchEdge s
  let s := forAll (s.srv.cancels.filter s.srv.cut.cmds.contains) s cancelOne
  let s := forcedEnds s
  let s := admitAll s
  let s := forAll s.srv.cut.lanes s landLane
  let paused := (s.srv.lanes.filter (fun p => decide (p.2.st = .paused))).length
  trace s 6 0xFF tokens (BitVec.ofNat 64 paused)

end Sys2Proof.Machine
end

