-- ==== Sys2Proof/Machine/Security.lean ====
section
/-! DEFINITION. The security controller: the part card, firmware, the mailbox, publisher keys, and the clears between contexts (14). -/

namespace Sys2Proof.Machine

/-! ### The part card (R394 to R396, Table 14.2) -/

def cardNat (m : Mem) (a n : Nat) : Nat := readLe m a n
def cardZero (m : Mem) (lo hi : Nat) : Bool := (m.all (fun c => decide (c.1 < lo) || decide (hi ≤ c.1)))

/-- A word of SUB: VALID with its reserved bits zero. -/
def cardSub (m : Mem) (i : Nat) : W32 := BitVec.ofNat 32 (cardNat m (0x100 + 4 * i) 4)
/-- An entry of REMAP. -/
def cardEntry (m : Mem) (i : Nat) : W64 := BitVec.ofNat 64 (cardNat m (0x2000 + 8 * i) 8)

/-- The reserved bits of the counted SUB words and REMAP entries are zero (R16). -/
def cardRsvOk (m : Mem) : Bool :=
  (List.range (min (cardNat m 0x18 1) 16)).all (fun i => decide (cardSub m i &&& 0x7FFC8080 = 0)) &&
  (List.range (min (cardNat m 0x16 2) 960)).all (fun i => decide (bits (cardEntry m i) 52 12 = 0) && decide (bits (cardEntry m i) 0 6 = 0))

/-- MAGIC, FLAGS, the reserved bytes and the counts (check 2). -/
def cardFormatOk (m : Mem) : Bool :=
  decide (cardNat m 0 4 = 0x50433341) && decide (cardNat m 5 1 < 8) && decide (cardNat m 5 1 % 4 ≠ 3) &&
  decide (cardNat m 0x16 2 ≤ 960) && decide (cardNat m 0x18 1 ≤ 16) && cardZero m 6 8 && cardZero m 0x13 0x14 && cardZero m 0x19 0x1C &&
  cardZero m 0x29 0x100 && cardZero m 0x140 0x200 && cardZero m 0x3F80 0x4000 && cardRsvOk m

/-- The certificates of CERTS: the device CA's and the identity certificate, each after its length. -/
def cardCerts (m : Mem) : List Byte × List Byte :=
  let n := min (cardNat m 0x1000 4) 4096
  (readBytes m 0x1004 n, readBytes m (0x1008 + n) (min (cardNat m (0x1004 + n) 4) 4096))

/-- The card's signature verifies under a key that the ROM knows (check 3). -/
def cardSigOk (m : Mem) : Bool :=
  let k := certKey (cardCerts m).1
  decide (k.exponent = 65537) && (decide (keyDigest k = Config.cardKeyDigest 0) || decide (keyDigest k = Config.cardKeyDigest 1)) &&
  rsaVerify k.modulus (readBytes m 0 0x3E00) (cardNat m 0x3E00 384)

/-- Mesh neighbours of a core within a map. -/
def mapNeighbours (map : BitVec 72) (c : Nat) : List Nat :=
  ([0, 1, 2, 3].filterMap (neighbourOf c)).filter (fun n => bit map n)

/-- The cores reached from those of `seen` in `n` rounds. -/
def reached (map : BitVec 72) : Nat → List Nat → List Nat
  | 0, seen => seen
  | n + 1, seen =>
    let next := (seen ++ seen.flatMap (mapNeighbours map)).dedup
    if next.length = seen.length then seen else reached map n next

/-- The rows of the two edge cores that a selvedge router attaches to, by index (Table 8.2). -/
def selvedgeRows : List (Nat × Nat) := [(0, 0), (0, 1), (1, 1), (2, 2), (3, 3), (4, 4), (4, 5), (5, 5)]

/-- R28: 8 or 16 cores disabled; every enabled core reaches every other, every selvedge router, both PCIe agents and the service complex. -/
def coreMapOk (map : BitVec 72) : Bool :=
  let on := (List.range 72).filter (fun c => bit map c)
  (decide (on.length = 64) || decide (on.length = 56)) &&
  (match on with | c :: _ => decide ((reached map 72 [c]).length = on.length) | [] => false) &&
  selvedgeRows.all (fun r => (bit map (12 * r.1) || bit map (12 * r.2)) && (bit map (12 * r.1 + 11) || bit map (12 * r.2 + 11))) &&
  bit map 0 && bit map 11 && (bit map 63 || bit map 68)

def cardMap (m : Mem) : BitVec 72 := BitVec.ofNat 72 (cardNat m 0x20 9)

/-- ORDER agrees with CORE_MAP (check 6). -/
def orderOk (m : Mem) : Bool :=
  decide (cardNat m 0x10 1 = ((List.range 72).filter (fun c => bit (cardMap m) c)).length) && decide (cardNat m 0x11 2 = 0x4206)

/-- GLB_CARD.STATE: the first check that fails (R395). -/
def cardState (m : Mem) (b : BootInputs) : BitVec 4 :=
  if !b.cardAnswers then 1
  else if !(cardFormatOk m) then 3
  else if !(cardSigOk m) then 2
  else if !b.pufOk then 6
  else if !(coreMapOk (cardMap m)) then 4
  else if !(orderOk m) then 5
  else 0

/-- The PC fields, from a card whose format and signature are good. -/
def cardFields (m : Mem) (st : BitVec 4) : Card :=
  if st = 1 ∨ st = 2 ∨ st = 3 then { cardState := st }
  else
    { serial := BitVec.ofNat 64 (cardNat m 8 8), coreMap := cardMap m, cores := BitVec.ofNat 8 (cardNat m 0x10 1),
      speed := BitVec.ofNat 8 (cardNat m 0x11 1), stepping := BitVec.ofNat 8 (cardNat m 0x12 1), results := BitVec.ofNat 16 (cardNat m 0x14 2),
      remaps := BitVec.ofNat 16 (cardNat m 0x16 2), subs := BitVec.ofNat 8 (cardNat m 0x18 1), flags := BitVec.ofNat 8 (cardNat m 5 1),
      format := BitVec.ofNat 8 (cardNat m 4 1), svnMin := BitVec.ofNat 32 (cardNat m 0x1C 4), cardState := st,
      digest := digestOf (readBytes m 0 0x3E00) }

/-- One REMAP entry of the card: a block that has no entry yet is remapped to the spare named. -/
def cardRemap (t : Tiers) (w : W64) : Tiers :=
  let c := bits w 45 7
  let b := bits w 26 19
  if tget 0 t.remap (remapKey c b) = 0 then remapTo t c b (bits w 24 2) (bits w 6 18) else t

/-- The card's substitutions and remap entries, beside those that a reset with the supply held has kept (Table 6.8); a substitution that breaks
R174 is not loaded. -/
def cardTables (s : State) : State :=
  let m := s.eeprom
  let s := forAll ((List.range (min (cardNat m 0x18 1) 16)).map (cardSub m)) s (fun s w =>
    if bit w 31 then addSub s (bits w 8 7) (bits w 16 2) (bits w 0 7) (bits w 16 2) else s)
  updTiers s (fun t => (List.range (min (cardNat m 0x16 2) 960)).foldl (fun (t : Tiers) i => cardRemap t (cardEntry m i)) t)

/-- The strap names a port that the card forbids (R319). -/
def stewardClash (flags : Byte) (b : Bool) : Bool := (decide (bits flags 0 2 = 0) && b) || (decide (bits flags 0 2 = 1) && !b)

/-! ### The mailbox (R414, Tables 14.7 and 14.8) -/

def mbAddr (x : Fn) : Nat := (join64 x.mbHi x.mbLo).toNat
def mbBusy (x : Fn) : Bool := bit x.mbResult 31

/-- A command of the mailbox completes. -/
def mbDone (s : State) (f st : Nat) : State := updFn s f (fun x => { x with mbResult := BitVec.ofNat 32 st })

/-- BSC_CMD's context and slot. -/
def mbCtx (cmd : W32) : Nat := bits cmd 20 4
def mbSlot (cmd : W32) : Nat := bits cmd 16 3

/-- What every command meets first: BUSY (R414), an unconfigured module (R397), reserved bits. -/
def mbStart (s : State) (f : Nat) (cmd : W32) (run : State → State) : State :=
  if !(fnEnabled s f) then s
  else if mbBusy (fnAt s f) then updFn s f (fun x => { x with mbResult := 0x80000009 })
  else if s.glb.unconfigured && decide (bits cmd 24 8 ≠ 5) then mbDone s f 3
  else if bit cmd 19 ∨ bits cmd 0 16 ≠ 0 then mbDone s f 1
  else run s

/-- FW_DELIVER (R399, R400): the image is then read and verified. -/
def mbFwDeliver (s : State) (f : Nat) : State :=
  let x := fnAt s f
  let n := x.mbLen.toNat
  if s.bsc.stage = 0 then mbDone s f 4
  else if !(isSteward s f) then mbDone s f 2
  else if s.bsc.stage = 3 then mbDone s f 4
  else if mbAddr x % 4096 ≠ 0 ∨ n < 4096 + 512 ∨ 24 * 2 ^ 20 + 4608 < n then mbDone s f 1
  else
    let s := updFn s f (fun x => { x with mbResult := 0x80000000 })
    updBsc s (fun b => { b with stage := 2, fwBusy := if h : f < 18 then some (⟨f, h⟩, BitVec.ofNat 64 (mbAddr x), n) else none })

/-- The function may change a context's keys (R405). -/
def mayKey (s : State) (f k : Nat) : Bool :=
  decide ((ctxAt s k).st ≠ .unbound) && (isSteward s f || (decide (ctxFn s k = some f) && !(ctxAt s k).locked))

/-- A key record that keeps the rules of R405. -/
def keyRecord (b : List Byte) : Option PubKey :=
  if (b.getD 383 0).toNat < 128 ∨ sliceNat b 384 4 ≠ 65537 ∨ zeroIn b 388 512 = false then none
  else some ⟨BitVec.ofNat 3072 (sliceNat b 0 384), 65537⟩

def setKey (s : State) (k i : Nat) (key : Option PubKey) : State := updCtx s k (fun c => { c with keys := tset none c.keys i key })

def mbKeySet (s : State) (f : Nat) (cmd : W32) (dmaOk : Bool) : State :=
  let x := fnAt s f
  if !(mayKey s f (mbCtx cmd)) then mbDone s f 2
  else if mbAddr x % 64 ≠ 0 then mbDone s f 1
  else if !dmaOk then mbDone s f 5
  else match keyRecord (readBytes (hostMem s f) (mbAddr x) 512) with
    | none => mbDone s f 1
    | some key => mbDone (setKey s (mbCtx cmd) (mbSlot cmd) (some key)) f 0

def mbKeyClear (s : State) (f : Nat) (cmd : W32) : State :=
  if mayKey s f (mbCtx cmd) then mbDone (setKey s (mbCtx cmd) (mbSlot cmd) none) f 0 else mbDone s f 2

def mbKeyLock (s : State) (f : Nat) (cmd : W32) : State :=
  if isSteward s f && decide ((ctxAt s (mbCtx cmd)).st ≠ .unbound) then
    mbDone (updCtx s (mbCtx cmd) (fun c => { c with locked := true })) f 0
  else mbDone s f 2

/-- The copy of the card; a card that did not answer has none, and its bytes are free, on the occasion that `freeCtr` names. -/
def cardCopy (s : State) : List Byte :=
  if s.card.cardState = 1 then (List.range 16384).map (fun i => (Config.freeWord s.freeCtr i).setWidth 8)
  else readBytes s.eeprom 0 16384

def mbCardRead (s : State) (f : Nat) (dmaOk : Bool) : State :=
  let x := fnAt s f
  if !(fnIsPf f) then mbDone s f 2
  else if mbAddr x % 64 ≠ 0 then mbDone s f 1
  else if !dmaOk then mbDone s f 5
  else
    let s := if s.card.cardState = 1 then { s with freeCtr := s.freeCtr + 1 } else s
    mbDone (setHostMem s f (writeBytes (hostMem s f) (mbAddr x) (cardCopy s))) f 0

/-- A write of BSC_CMD: the command that its OP names; a reserved OP is malformed. -/
def mailboxCmd (s : State) (f : Nat) (cmd : W32) (dmaOk : Bool) : State :=
  mbStart s f cmd (fun s =>
    match bits cmd 24 8 with
    | 1 => mbFwDeliver s f
    | 2 => mbKeySet s f cmd dmaOk
    | 3 => mbKeyClear s f cmd
    | 4 => mbKeyLock s f cmd
    | 5 => mbCardRead s f dmaOk
    | _ => mbDone s f 1)

def execFwDeliver (fn : FnId) (cmd : W32) (s : State) : Host.Outcome State Fault Refusal := plain s (fun s => mailboxCmd s fn cmd true)
def execKeySet (fn : FnId) (cmd : W32) (dmaOk : Bool) (s : State) : Host.Outcome State Fault Refusal :=
  plain s (fun s => mailboxCmd s fn cmd dmaOk)
def execKeyClear (fn : FnId) (cmd : W32) (s : State) : Host.Outcome State Fault Refusal := plain s (fun s => mailboxCmd s fn cmd true)
def execKeyLock (fn : FnId) (cmd : W32) (s : State) : Host.Outcome State Fault Refusal := plain s (fun s => mailboxCmd s fn cmd true)
def execCardRead (fn : FnId) (cmd : W32) (dmaOk : Bool) (s : State) : Host.Outcome State Fault Refusal :=
  plain s (fun s => mailboxCmd s fn cmd dmaOk)

/-! ### Firmware (R399 to R401, Table 14.3) -/

/-- A section of an image: destination, offset there, offset in the image, bytes. -/
structure FwSect where
  dest : Nat
  doff : Nat
  ioff : Nat
  len : Nat

def fwCount (img : List Byte) : Nat := sliceNat img 16 1 % 16 + 1
def fwSigned (img : List Byte) : Nat := sliceNat img 24 8
def fwSects (img : List Byte) : List FwSect :=
  (List.range (fwCount img)).map (fun i =>
    ⟨sliceNat img (64 + 16 * i) 1 % 16, sliceNat img (68 + 16 * i) 4, 4096 * sliceNat img (72 + 16 * i) 4, sliceNat img (76 + 16 * i) 4⟩)

/-- Bytes of a destination: a TCM or the service store. -/
def fwDestSize (d : Nat) : Nat := if d < 8 then 2 ^ 20 else 2 ^ 24
/-- Where a destination begins in the service complex's memory. -/
def fwDestBase (d : Nat) : Nat := if d < 8 then d * 2 ^ 20 else 2 ^ 23

/-- Check 1: the header and section format. -/
def fwFormatOk (img : List Byte) : Bool :=
  decide (sliceNat img 0 4 = 0x465A3341) && decide (sliceNat img 4 2 = 1) && zeroIn img 6 8 && decide (sliceNat img 16 4 < 16) &&
  decide (sliceNat img 20 4 < 256) && decide (fwSigned img % 4096 = 0) && decide (4096 ≤ fwSigned img) && decide (img.length = fwSigned img + 512) &&
  zeroIn img 32 64 && zeroIn img (64 + 16 * fwCount img) 4096 &&
  (List.range (fwCount img)).all (fun i => decide (sliceNat img (64 + 16 * i) 4 < 9)) &&
  (fwSects img).all (fun t => decide (t.doff % 64 = 0) && decide (t.doff + t.len ≤ fwDestSize t.dest) && decide (t.ioff + t.len ≤ fwSigned img))

/-- Check 3: two sections share a byte of a destination. -/
def fwOverlap : List FwSect → Bool
  | [] => false
  | t :: ts => ts.any (fun u => decide (t.dest = u.dest) && decide (t.doff < u.doff + u.len) && decide (u.doff < t.doff + t.len)) || fwOverlap ts

def fwBlock (img : List Byte) : List Byte := slice img (fwSigned img) 512
def fwContent (img : List Byte) : List Byte := img.take (fwSigned img)

/-- Check 5: a firmware-signing key that the ROM knows verifies the image. -/
def fwSigOk (img : List Byte) : Bool :=
  let ok (i : Fin 2) : Bool :=
    let k : PubKey := ⟨Config.fwModulus i, 65537⟩
    loadVerifies ⟨3, fwSigned img, 0, 0, keyDigest k⟩ k (fwBlock img) (fwContent img)
  ok 0 || ok 1

/-- The status of an image: the first check that fails (R400). -/
def fwStatus (s : State) (img : List Byte) : Nat :=
  if !(fwFormatOk img) then 7
  else if s.card.format.toNat < sliceNat img 20 1 then 7
  else if fwOverlap (fwSects img) then 7
  else if sliceNat img 8 4 < s.bsc.fwFloor.toNat then 8
  else if !(fwSigOk img) then 6
  else 0

/-- A failed delivery: every TCM and the service store zero, STAGE 4. -/
def fwFail (s : State) (f st : Nat) : State :=
  let s := updSvc s (fun v => { v with mem := [] })
  mbDone (updBsc s (fun b => { b with stage := 4, fwCause := BitVec.ofNat 8 st, fwBusy := none })) f st

/-- A verified image: its sections written, measurement 3, and all eight service cores released (R341); firmware arms the standby spares
(R358) and loads the routing tables (R223), and an opening that waits for it begins (Table 9.14). -/
def fwRelease (s : State) (f : Nat) (img : List Byte) : State :=
  let s := updSvc s (fun v => { v with
    mem := (fwSects img).foldl (fun (m : Mem) t => writeBytes m (fwDestBase t.dest + t.doff) (slice img t.ioff t.len)) v.mem, released := true })
  let s := updGlb s (fun g => { g with boot := orBit (orBit g.boot 2) 3 })
  let s := openingCheck (forAll (List.range 16) (loadRoutes (rearmAll s)) beginOpening)
  mbDone (updBsc s (fun b => { b with
    stage := 3, fwBusy := none, fwSvn := BitVec.ofNat 32 (sliceNat img 8 4), fwVer := BitVec.ofNat 32 (sliceNat img 12 4)
    fwDigest := digestOf (signedMessage (fwBlock img) (fwContent img)) })) f 0

/-- The image of the delivery in progress has come, or its DMA has failed. -/
def fwVerify (s : State) (dmaOk : Bool) : State :=
  match s.bsc.fwBusy with
  | none => s
  | some (f, a, n) =>
    if !dmaOk then fwFail s f 5
    else
      let img := readBytes (hostMem s f) a.toNat n
      match fwStatus s img with
      | 0 => fwRelease s f img
      | st => fwFail s f st

def execFwVerifyComplete (dmaOk : Bool) (s : State) : Host.Outcome State Fault Refusal := plain s (fun s => fwVerify s dmaOk)

/-- BSC_FW_FLOOR: raised before release only; never below FW_SVN_MIN (R401). The block has no CFG_ERR. -/
def writeFwFloor (s : State) (v : W32) : State :=
  if v.toNat < s.card.svnMin.toNat ∨ s.bsc.stage = 3 then s else updBsc s (fun b => { b with fwFloor := v })

def execFwFloorWrite (fn : FnId) (val : W32) (s : State) : Host.Outcome State Fault Refusal :=
  plain s (fun s => if namedSteward s fn then writeFwFloor s val else s)

/-! ### Clears (R410, R411) -/

/-- No write of before the edge still waits in a gather buffer of the cluster's cores. -/
def clusterQuiet (s : State) (k : Nat) : Bool :=
  ((clusterCores k).filter (enabledCore s)).all (fun c => (coreAt s c).gather.isEmpty && (coreAt s c).gatherHeld.isEmpty && (coreAt s c).arrivals.isEmpty)

/-- The clear of a cluster starts once its accepted writes have landed. -/
def clearStart (s : State) (k : Nat) : State :=
  if bit s.bsc.clearing k && !(bit s.bsc.clearStarted k) && clusterQuiet s k then
    updBsc s (fun b => { b with clearStarted := orBit b.clearStarted k })
  else s

def execClusterClearStart (k : ClusterId) (s : State) : Host.Outcome State Fault Refusal := plain s (fun s => clearStart s k)

/-- Every block of a core's tier column becomes zero with a valid CRC: its slices, or their substitutes, and its spares. -/
def clearColumn (s : State) (c : Nat) : State :=
  let range (t : Tiers) (pb n : Nat) : Tiers := { t with mem := zeroBytes t.mem (512 * pb) (512 * (pb + n)), crc := tclear t.crc pb (pb + n) }
  let t := [0, 1, 2, 3].foldl (fun (t : Tiers) (tr : Nat) => range t (slicePb ((substituteOf s c tr).getD c) tr 0) Config.sliceBlocks) s.tiers
  let t := (t.remap.filter (fun p => decide (p.1 / Config.columnBlocks = c))).foldl (fun (t : Tiers) p => range t (p.2 - 1) 1) t
  let mine (p : Nat × FenceEnt) : Bool := p.2.valid && decide (p.2.core.toNat = c)
  { s with tiers := { t with
      fence := t.fence.filter (fun p => !(mine p))
      bad := t.bad.filter (fun e => !(t.fence.any (fun p => mine p && decide (e = 2 ^ 33 + p.1))))
      unfenced := if t.fence.any mine then [] else t.unfenced.filter (fun u => decide (u.core ≠ c)) }.keep }

/-- A core's own memories after the clear. -/
def clearCore (x : Core) : Core :=
  let off (t : Tbl W32) : Tbl W32 := (List.range 16).foldl (fun (t : Tbl W32) r => tupd 0 t (0x408 + 16 * r) (fun w => clrBit w 31)) t
  { x with
    store := [], lcrc := [], fences := [], unfenced := [], syncs := [], badSync := [], sigs := [], arrivals := [], engines := [], rings := [], cw := off x.cw, cwEff := off x.cwEff
    gather := [], gatherHeld := [], writes := [], bq := [], bqOver := [] }

def clearDone (s : State) (k : Nat) : State :=
  if bit s.bsc.clearStarted k then
    let s := forAll ((clusterCores k).filter (enabledCore s)) s (fun s c => updCore (clearColumn s c) c clearCore)
    updBsc s (fun b => { b with clearing := clrBit b.clearing k, clearStarted := clrBit b.clearStarted k })
  else s

def execClusterClearDone (k : ClusterId) (s : State) : Host.Outcome State Fault Refusal := plain s (fun s => clearDone s k)

/-- The flits of one virtual channel and class of a port, received without their last one, make a write to a core of the cluster. -/
def slowWrite (s : State) (k : Nat) (f : FabFlit) (fs : List FabFlit) : Option Hdr :=
  let h := Hdr.parse ((fs.headD f).payload |> fun w => leBytes 256 w.toNat)
  match physicalOf s (gaCore h.daddr) with
  | some c => if ownModule s (gaChip h.daddr) ∧ clusterOf c = k ∧ h.op ≠ 1 ∧ h.op ≠ 2 then some h else none
  | none => none

/-- A slow write is abandoned: its source gets status 0x8, and its flits make a response that nothing waits for, which is discarded (R262, R411). -/
def abandonSlow (s : State) (p k : Nat) (f : FabFlit) : State :=
  let same (g : FabFlit) : Bool := decide (sideVc g.side = sideVc f.side) && decide (sideCls g.side = sideCls f.side)
  let fs := (portAt s p).rxFlits.filter same
  match slowWrite s k f fs with
  | none => s
  | some h =>
    let dead : FabFlit := { (fs.headD f) with payload := BitVec.ofNat 2048 (leNat ({ h with op := 2, daddr := gaMake 0xFFF 0xFE 0, hops := 15 } : Hdr).bytes) }
    let s := updPort s p (fun x => { x with rxFlits := x.rxFlits.filter (fun g => !(same g)) ++ [dead] })
    settleOne s ⟨h.saddr, h.msgid, 8, 0xFF⟩

/-- FAB_CFG.MSG_TIMEOUT after the edge, writes whose flits have not all arrived are abandoned. -/
def clearTimeout (s : State) (k : Nat) : State :=
  if bit s.bsc.clearing k then
    forAll (List.range 16) s (fun s p => forAll [(0, 0), (0, 1), (0, 2), (0, 3), (1, 0), (1, 1), (1, 2), (1, 3)] s (fun s (v : Nat × Nat) =>
      match (portAt s p).rxFlits.find? (fun g => decide (sideVc g.side = v.1) && decide (sideCls g.side = v.2)) with
      | some f => abandonSlow s p k f
      | none => s))
  else s

def execClearWriteTimeout (k : ClusterId) (s : State) : Host.Outcome State Fault Refusal := done s (fun s => clearTimeout s k)

end Sys2Proof.Machine
end

