-- ==== Sys2Proof/Machine/Spdm.lean ====
section
/-! DEFINITION. Attestation: SPDM 1.2 over the DOE mailbox of each PF, and the measurement blocks (R406, R407, R409). The message formats
are those of the published DMTF specification DSP0274 1.2, which the manual names (assumption log 25). -/

namespace Sys2Proof.Machine

/-! ### GLB words that attestation reports (Table 11.14) -/

def glbPart (s : State) : W32 := BitVec.ofNat 32 (s.card.cores.toNat * 65536 + s.card.speed.toNat * 256 + s.card.stepping.toNat)
def glbMap (s : State) (i : Nat) : W32 := BitVec.ofNat 32 (bits s.card.coreMap (32 * i) 32)
def glbStatus (s : State) (f : Nat) : W32 :=
  BitVec.ofNat 32 (b2n s.glb.unconfigured * 16 + b2n s.glb.conflict * 8 + b2n s.glb.stewardB * 4 + b2n (fnPortB f) * 2 + b2n (namedSteward s f))

/-! ### Measurement blocks (Table 14.6) -/

def ctxStNo (st : CtxSt) : Nat := match st with | .unbound => 0 | .bound => 1 | .loaded => 2 | .running => 3

/-- The 132 bytes of a context's block. -/
def ctxMeasure (s : State) (k : Nat) : List Byte :=
  let c := ctxAt s k
  let (dig, meas) := match c.bolt with | some b => (b.digest.toNat, b.measured.toNat) | none => (0, 0)
  let keys := (List.range 8).flatMap (fun i => match ctxKey s k i with | some key => leBytes 32 (keyDigest key).toNat | none => List.replicate 32 0)
  [BitVec.ofNat 8 (ctxStNo c.st), 0] ++ leBytes 2 ((jobTag s k).getD 0) ++ leBytes 32 dig ++ leBytes 32 meas ++ sha256 keys ++ leBytes 32 c.weightLog.toNat

/-- The PF's own function number. -/
def pfOf (p : PciePort) : Nat := match p with | .a => 0 | .b => 9

/-- A PF returns a context's block: one bound to a function of its port, or any for the steward PF (R409). -/
def measuresCtx (s : State) (p : PciePort) (k : Nat) : Bool :=
  decide ((ctxAt s k).st ≠ .unbound) && (isSteward s (pfOf p) || (match ctxFn s k with | some f => fnPortB f == fnPortB (pfOf p) | none => false))

/-- The block of an index, with its value type; a block without a value is omitted. -/
def measureBlock (s : State) (p : PciePort) (i : Nat) : Option (Nat × List Byte) :=
  let released := decide (s.bsc.stage = 3)
  match i with
  | 1 => some (0, leBytes 32 Config.romDigest.toNat)
  | 2 => if s.card.cardState = 1 ∨ s.card.cardState = 2 ∨ s.card.cardState = 3 then none else some (2, leBytes 32 s.card.digest.toNat)
  | 3 => if released then some (1, leBytes 32 s.bsc.fwDigest.toNat) else none
  | 4 => if released then some (0x83, leBytes 4 s.bsc.fwSvn.toNat ++ leBytes 4 s.bsc.fwVer.toNat) else none
  | 5 => some (0x83, leBytes 4 (glbPart s).toNat ++ leBytes 4 s.card.results.toNat ++ (List.range 3).flatMap (fun j => leBytes 4 (glbMap s j).toNat) ++
      leBytes 4 (glbStatus s (pfOf p)).toNat ++ leBytes 4 (b2n s.glb.traceActive) ++ leBytes 4 s.saf.oppCtrl.toNat)
  | _ => if 0x10 ≤ i ∧ i < 0x20 ∧ measuresCtx s p (i - 0x10) = true then some (0x83, ctxMeasure s (i - 0x10)) else none

/-- A block as a measurement record holds it: index, specification, size, then type, size and value. -/
def blockBytes (i : Nat) (b : Nat × List Byte) : List Byte :=
  [BitVec.ofNat 8 i, 1] ++ leBytes 2 (b.2.length + 3) ++ [BitVec.ofNat 8 b.1] ++ leBytes 2 b.2.length ++ b.2

def allBlocks (s : State) (p : PciePort) : List (List Byte) := (List.range 32).filterMap (fun i => (measureBlock s p i).map (blockBytes i))

/-! ### The connection -/

/-- Requests, and responses so far: 0 the version to algorithms exchange, 1 digests and certificates, 2 measurements. -/
def spdmT (s : State) (p : PciePort) (i : Nat) : List Byte := tget [] s.bsc.spdmLog (portNo p + 2 * i)
def spdmSet (s : State) (p : PciePort) (i : Nat) (l : List Byte) : State :=
  updBsc s (fun b => { b with spdmLog := tset [] b.spdmLog (portNo p + 2 * i) l })
def spdmAt (s : State) (p : PciePort) : Nat := tget 0 s.bsc.spdmStep (portNo p)
def spdmTo (s : State) (p : PciePort) (n : Nat) : State := updBsc s (fun b => { b with spdmStep := tset 0 b.spdmStep (portNo p) n })

/-- A response leaves, and the request counts as answered. -/
def spdmSend (s : State) (p : PciePort) (r : List Byte) : State :=
  updBsc { s with wire := s.wire ++ [.spdm p r] } (fun b => { b with spdmCount := satAdd b.spdmCount 1 })

def spdmError (s : State) (p : PciePort) (code data : Nat) : State := spdmSend s p [0x12, 0x7F, BitVec.ofNat 8 code, BitVec.ofNat 8 data]

/-- The request's version, code and length are right for a connection at step `n`; otherwise an ERROR says why. -/
def spdmReq (s : State) (p : PciePort) (req : List Byte) (version code len n : Nat) (run : State → State) : State :=
  if (req.getD 0 0).toNat ≠ version then spdmError s p 0x41 0
  else if (req.getD 1 0).toNat ≠ code ∨ req.length < len then spdmError s p 1 0
  else if spdmAt s p < n then spdmError s p 4 0
  else run s

/-- Characters as bytes. -/
def ascii (t : String) : List Byte := t.toList.map (fun c => BitVec.ofNat 8 c.toNat)

/-- The signature of a transcript under a context string (DSP0274 1.2). -/
def spdmSign (context : String) (transcript : List Byte) : List Byte :=
  let c := ascii context
  let head := (List.replicate 4 (ascii "dmtf-spdm-v1.2.*")).flatten ++ List.replicate (36 - c.length) 0 ++ c
  beBytes 384 (Config.identitySign (head ++ sha256 transcript)).toNat

/-- The certificate chain of slot 0, with its header and the root's digest. -/
def certChain (s : State) : List Byte :=
  let (ca, leaf) := if s.card.cardState = 1 then ([], []) else cardCerts s.eeprom
  let certs := sha256 Config.rootCertificate ++ Config.rootCertificate ++ ca ++ leaf
  leBytes 2 (certs.length + 4) ++ leBytes 2 0 ++ certs

/-- A fresh nonce. -/
def spdmNonce (s : State) : List Byte := leBytes 32 (Config.spdmNonce s.freeCtr).toNat

/-! ### The requests -/

def getVersion (s : State) (p : PciePort) (req : List Byte) : State :=
  spdmReq s p req 0x10 0x84 4 0 (fun s =>
    let r : List Byte := [0x10, 0x04, 0, 0, 0, 1, 0, 0x12]
    spdmSend (spdmSet (spdmSet (spdmSet (spdmTo s p 1) p 0 (req ++ r)) p 1 []) p 2 []) p r)

def getCapabilities (s : State) (p : PciePort) (req : List Byte) : State :=
  spdmReq s p req 0x12 0xE1 20 1 (fun s =>
    if 1 < spdmAt s p then spdmError s p 4 0
    else
      let n := leBytes 4 Config.spdmTransferSize.toNat
      let r : List Byte := [0x12, 0x61, 0, 0, 0, 17, 0, 0] ++ leBytes 4 0x36 ++ n ++ n
      spdmSend (spdmSet (spdmTo s p 2) p 0 (spdmT s p 0 ++ req ++ r)) p r)

def negotiateAlgorithms (s : State) (p : PciePort) (req : List Byte) : State :=
  spdmReq s p req 0x12 0xE3 32 2 (fun s =>
    if 2 < spdmAt s p then spdmError s p 4 0
    else
      let sel (o n mask : Nat) : List Byte := leBytes n (sliceNat req o n &&& mask)
      let r : List Byte := [0x12, 0x63, 0, 0, 36, 0] ++ sel 6 1 1 ++ [0] ++ leBytes 4 (if sliceNat req 6 1 % 2 = 1 then 2 else 0) ++ sel 8 4 4 ++ sel 12 4 1 ++
        List.replicate 16 0
      spdmSend (spdmSet (spdmTo s p 3) p 0 (spdmT s p 0 ++ req ++ r)) p r)

def getDigests (s : State) (p : PciePort) (req : List Byte) : State :=
  spdmReq s p req 0x12 0x81 4 3 (fun s =>
    let r : List Byte := [0x12, 0x01, 0, 1] ++ sha256 (certChain s)
    spdmSend (spdmSet s p 1 (spdmT s p 1 ++ req ++ r)) p r)

def getCertificate (s : State) (p : PciePort) (req : List Byte) : State :=
  spdmReq s p req 0x12 0x82 8 3 (fun s =>
    let chain := certChain s
    let off := sliceNat req 4 2
    if !s.bsc.idKey then spdmError s p 7 0x82
    else if (req.getD 2 0).toNat % 16 ≠ 0 ∨ chain.length ≤ off then spdmError s p 1 0
    else
      let n := min (sliceNat req 6 2) (chain.length - off)
      let r : List Byte := [0x12, 0x02, 0, 0] ++ leBytes 2 n ++ leBytes 2 (chain.length - off - n) ++ (chain.drop off).take n
      spdmSend (spdmSet s p 1 (spdmT s p 1 ++ req ++ r)) p r)

def challenge (s : State) (p : PciePort) (req : List Byte) : State :=
  spdmReq s p req 0x12 0x83 36 3 (fun s =>
    let kind := (req.getD 3 0).toNat
    if !s.bsc.idKey then spdmError s p 7 0x83
    else if (req.getD 2 0).toNat % 16 ≠ 0 ∨ (kind ≠ 0 ∧ kind ≠ 1 ∧ kind ≠ 0xFF) then spdmError s p 1 0
    else
      let summary := if kind = 0 then [] else sha256 (allBlocks s p).flatten
      let r : List Byte := [0x12, 0x03, 0, 1] ++ sha256 (certChain s) ++ spdmNonce s ++ summary ++ leBytes 2 0
      let sig := spdmSign "responder-challenge_auth signing" (spdmT s p 0 ++ spdmT s p 1 ++ req ++ r)
      spdmSend (spdmSet { s with freeCtr := s.freeCtr + 1 } p 1 []) p (r ++ sig))

def getMeasurements (s : State) (p : PciePort) (req : List Byte) : State :=
  let signed := decide ((req.getD 2 0).toNat % 2 = 1)
  spdmReq s p req 0x12 0xE0 (if signed then 37 else 4) 3 (fun s =>
    let op := (req.getD 3 0).toNat
    let all := allBlocks s p
    let chosen := if op = 0 then [] else if op = 0xFF then all else ((measureBlock s p op).map (blockBytes op)).toList
    if signed && !s.bsc.idKey then spdmError s p 7 0xE0
    else if op ≠ 0 ∧ op ≠ 0xFF ∧ chosen.isEmpty then spdmError s p 1 0
    else
      let rec_ := chosen.flatten
      let r : List Byte := [0x12, 0x60, (if op = 0 then BitVec.ofNat 8 all.length else 0), 0, BitVec.ofNat 8 chosen.length] ++
        leBytes 3 rec_.length ++ rec_ ++ spdmNonce s ++ leBytes 2 0
      let l := spdmT s p 2 ++ req ++ r
      let s := { s with freeCtr := s.freeCtr + 1 }
      if signed then spdmSend (spdmSet s p 2 []) p (r ++ spdmSign "responder-measurements signing" (spdmT s p 0 ++ l))
      else spdmSend (spdmSet s p 2 l) p r)

def execGetVersion (p : PciePort) (req : List Byte) (s : State) : Host.Outcome State Fault Refusal := plain s (fun s => getVersion s p req)
def execGetCapabilities (p : PciePort) (req : List Byte) (s : State) : Host.Outcome State Fault Refusal :=
  plain s (fun s => getCapabilities s p req)
def execNegotiateAlgorithms (p : PciePort) (req : List Byte) (s : State) : Host.Outcome State Fault Refusal :=
  plain s (fun s => negotiateAlgorithms s p req)
def execGetDigests (p : PciePort) (req : List Byte) (s : State) : Host.Outcome State Fault Refusal := plain s (fun s => getDigests s p req)
def execGetCertificate (p : PciePort) (req : List Byte) (s : State) : Host.Outcome State Fault Refusal := plain s (fun s => getCertificate s p req)
def execChallenge (p : PciePort) (req : List Byte) (s : State) : Host.Outcome State Fault Refusal := plain s (fun s => challenge s p req)
def execGetMeasurements (p : PciePort) (req : List Byte) (s : State) : Host.Outcome State Fault Refusal :=
  plain s (fun s => getMeasurements s p req)

end Sys2Proof.Machine
end

