-- ==== Sys2Proof/Machine/Power.lean ====
section
/-! DEFINITION. Supply, resets, start, sensors, wake timers and idle ports (15). -/

namespace Sys2Proof.Machine

/-! ### Module reset (R421, Table 15.5) -/

/-- What a reset with the supply held keeps of the tiers: contents and spares; remap tables, substitutions and fences come from the housekeeping
copy (Table 6.8). -/
def keepTiers (t : Tiers) : Tiers :=
  { mem := t.mem, house := t.house, crc := t.crc, remap := t.house.remap, subs := t.house.subs, fence := t.house.fence, standby := t.standby,
    spare := t.spare, retired := t.retired }

/-- The machine in reset: every register at its Reset column; the host's memory, the part-card EEPROM, the pins driven from outside, the
reset causes and the waiting commands stay. -/
def inReset (s : State) : State :=
  { State.reset with
    pending := s.pending, now := s.now, eeprom := s.eeprom, tiers := keepTiers s.tiers, hostA := s.hostA, hostB := s.hostB
    readData := s.readData, wire := s.wire, freeCtr := s.freeCtr
    pwr := { cause := s.pwr.cause, modRstLow := s.pwr.modRstLow, perstA := s.pwr.perstA, perstB := s.pwr.perstB } }

/-- Module reset by the source of a bit of PWR_RESET_CAUSE; a trip that is not over stays in force. -/
def moduleReset (s : State) (causeBit : Nat) : State :=
  let hold := s.pwr.tripped
  let r := inReset s
  { r with pwr := { r.pwr with
      cause := orBit r.pwr.cause causeBit, tripped := hold
      temp := if hold then s.pwr.temp else [], sampled := if hold then s.pwr.sampled else 0 } }

/-- A reset while the supply is up. -/
def resetPowered (s : State) (causeBit : Nat) : State := if s.pwr.phase = .off then s else moduleReset s causeBit

/-- A thermal trip: module reset; the last sensor readings decide when it may end. -/
def thermalTrip (s : State) : State := moduleReset (updPwr s (fun p => { p with tripped := true })) 4

def execRclkLoss (s : State) : Host.Outcome State Fault Refusal := .next (answer s (resetPowered s 3))

/-- MOD_RST_N low for 1 µs. -/
def execModRstAssert (s : State) : Host.Outcome State Fault Refusal :=
  .next (answer s (resetPowered (updPwr s (fun p => { p with modRstLow := true })) 1))

/-- Trip level of a sensor, in 1/16 °C (Table 15.9). -/
def tripLevel (k : Nat) : Int := 16 * (if k < 18 then 115 else if k < 22 then 105 else 125)
/-- Every sensor is at least 20 °C below its trip level, by its last sample. -/
def cooled (s : State) : Bool := (List.range 26).all (fun k => !(sampledAt s k) || decide (tempOf s k ≤ tripLevel k - 320))

/-- MOD_RST_N rises; a thermal trip ends at such an edge once the sensors have cooled, and not otherwise. -/
def execModRstDeassert (s : State) : Host.Outcome State Fault Refusal :=
  .next (answer s (updPwr s (fun p => { p with modRstLow := false, tripped := p.tripped && !(p.modRstLow && cooled s) })))

def execStewardReset (fn : FnId) (val : W32) (s : State) : Host.Outcome State Fault Refusal :=
  plain s (fun s => stewardDo s fn (fun s => if bit val 0 then moduleReset s 5 else s))

/-- 10 µs after DRESET (R273). -/
def execDomainResetEntry (s : State) : Host.Outcome State Fault Refusal :=
  plain s (fun s => if s.fab.dresetDue then moduleReset s 2 else s)

/-! ### Supply (R416, R420) -/

/-- The module without power: the tiers are lost, and no pin is driven. -/
def unpowered (s : State) (locked : Bool) : State :=
  let r := inReset s
  { r with tiers := {}, pwr := { r.pwr with phase := .off, lockedOff := locked, cause := 1 } }

/-- PWR_EN rises: the rails come up, the tiers are cleared, the module is in reset (Table 15.4). -/
def powerUp (s : State) : State :=
  if s.pwr.phase = .off ∧ s.pwr.lockedOff = false then
    let r := inReset s
    { r with tiers := {}, pwr := { r.pwr with cause := 1 } }
  else s

def execPowerUp (s : State) : Host.Outcome State Fault Refusal := .next (answer s (powerUp s))

/-- PWR_EN falls. -/
def execPowerDown (s : State) : Host.Outcome State Fault Refusal := .next (answer s (unpowered s false))

/-- VIN outside its range shuts the module down until PWR_EN has fallen and risen (R416). -/
def vinShut (s : State) : State := if s.pwr.phase = .off then s else unpowered s true

def execVinUndervoltage (s : State) : Host.Outcome State Fault Refusal := .next (answer s (vinShut s))
def execVinOvervoltage (s : State) : Host.Outcome State Fault Refusal := .next (answer s (vinShut s))

/-- VIN, in mV; in a warning band its status bit is set. -/
def execVinWarning (mv : W16) (s : State) : Host.Outcome State Fault Refusal :=
  plain s (fun s =>
    let s := updPwr s (fun p => { p with vin := mv })
    let v := mv.toNat
    if 46000 ≤ v ∧ v < 48000 then setPwrStatus s 2 else if 60000 < v ∧ v ≤ 63000 then setPwrStatus s 1 else s)

/-! ### The start (R393 to R397, Table 9.14) -/

/-- The ROM boot's result, and the module at the start of its work: cores in maintenance mode with their clear begun and a visit owed
(R169, R346, R360); ports of a configured module in training. -/
def boot (s : State) (b : BootInputs) : State :=
  let st := cardState s.eeprom b
  let card := cardFields s.eeprom st
  let known := !(decide (st = 1) || decide (st = 2) || decide (st = 3))
  let good := decide (st = 0)
  let s := { s with
    card := card
    tiers := { s.tiers with sweepAt := s.now }
    glb := { boot := 3, unconfigured := !good, conflict := known && stewardClash card.flags b.stewardSelB, stewardB := b.stewardSelB } }
  let s := if known then cardTables s else s
  let s := updBsc s (fun x => { x with
    stage := if good then 1 else 5, fwFloor := card.svnMin, idKey := good || decide (st = 4) || decide (st = 5), stewardSelB := b.stewardSelB })
  let s := updPwr s (fun p => { p with phase := .running })
  let s := forAll (enabledCores s) s (fun s c => updCore s c (fun x => { x with visitDue := true }))
  if good then forAll (List.range 16) s (fun s p => updPort s p (fun x => { x with st := 1 })) else s

/-- Reset release: PWR_GOOD, RCLK stable, MOD_RST_N high, no trip in force. -/
def release (s : State) (b : BootInputs) : State :=
  if s.pwr.phase = .inReset ∧ s.pwr.modRstLow = false ∧ s.pwr.tripped = false then boot s b else s

def execResetRelease (b : BootInputs) (s : State) : Host.Outcome State Fault Refusal := .next (answer s (release s b))

/-! ### Sensors and the thermal policy (R432, Table 15.9) -/

/-- Whole °C, from 0 to 255, of a reading. -/
def degrees (t : BitVec 16) : Nat := min (t.toInt / 16).toNat 255

/-- The hottest readings since clear. -/
def noteMax (m : W16) (k : Nat) (t : BitVec 16) : W16 :=
  if isArray k then setBits m 0 8 (max (bits m 0 8) (degrees t))
  else if isTier k then setBits m 8 8 (max (bits m 8 8) (degrees t)) else m

/-- What the readings as they stand set: HOT, CAP_HIT and CRIT. -/
def policyStatus (s : State) : State :=
  let s := if isHot s then setPwrStatus s 4 else s
  let s := if atCap s then setPwrStatus s 3 else s
  if atCrit s then setPwrStatus s 5 else s

/-- The policy's statuses and its stretch request, on the readings as they stand. -/
def thermalPolicy (s : State) : State :=
  let s := policyStatus s
  match policyAsks s with
  | some up => requestStretch s up
  | none => s

/-- A sensor is sampled; input power is the average over the last 1 ms, and its energy is counted with sensor 25, once per 10 µs. -/
def takeSample (s : State) (k : Nat) (t : BitVec 16) (power : BitVec 12) : State :=
  updPwr s (fun p => { p with
    temp := tset 0 p.temp k t, sampled := orBit p.sampled k, tempMax := noteMax p.tempMax k t, power := power
    powerMax := if p.powerMax.toNat < power.toNat then power else p.powerMax
    energy := if k = 25 then p.energy + power.toNat else p.energy
    hot := if tripLevel k ≤ t.toInt then orBit p.hot k else clrBit p.hot k })

/-- A sample while the module works: a trip where the sensor has been at its trip level for 10 µs, since its last sample; else the policy. -/
def sample (s : State) (k : Nat) (t : BitVec 16) (power : BitVec 12) : State :=
  let trip := bit s.pwr.hot k && decide (tripLevel k ≤ t.toInt)
  let s := takeSample s k t power
  if trip then thermalTrip s else thermalPolicy s

/-- A sample in reset (R432, R434, Table 15.5): it is recorded and sets the policy's statuses, and a trip takes force; no clock runs that could
be stretched. -/
def resetSample (s : State) (k : Nat) (t : BitVec 16) (power : BitVec 12) : State :=
  let trip := bit s.pwr.hot k && decide (tripLevel k ≤ t.toInt) && !s.pwr.tripped
  let s := takeSample s k t power
  if trip then thermalTrip s else policyStatus s

def execSensorSample (k : Fin 26) (temp : BitVec 16) (power : BitVec 12) (s : State) : Host.Outcome State Fault Refusal :=
  match s.pwr.phase with
  | .running => done s (fun s => sample s k temp power)
  | .inReset => .next (answer s (resetSample s k temp power))
  | .off => .next s

/-! ### Wake timers (R429) and the PWR registers with rows of their own -/

def pwrCfgErr (s : State) : State := setPwrStatus s 8

/-- The context that PWR's (C) registers act on for a function: the selected one for the steward PF, else the function's own; only the
function bound to it may write them (R435). -/
def pwrOwn (s : State) (f : Nat) : Option Nat :=
  match (if isSteward s f then some (bits s.pwr.ctxSel 0 4) else fnCtx s f) with
  | some k => if ctxFn s k = some f then some k else none
  | none => none

/-- PWR_CTX_WAKE_HI arms the timer, or, with 0 in both halves, disarms it. -/
def armWake (s : State) (k : Nat) (v : W32) : State :=
  let n := (join64 v (ctxAt s k).wakeLo).toNat
  if n = 0 then updCtx s k (fun c => { c with wakeHi := v, wakeArmed := false })
  else if !(keepsCount s) ∨ n < s.tmp.count.toNat + 2 then pwrCfgErr s
  else updCtx s k (fun c => { c with wakeHi := v, wakeArmed := true })

def execWakeTimerArm (fn : FnId) (val : W32) (s : State) : Host.Outcome State Fault Refusal :=
  plain s (fun s => match pwrOwn s fn with | some k => if hostReach s fn then armWake s k val else s | none => s)

/-- The timer starts the wake of its context's clusters; a parked context then resumes (R427). -/
def fireWake (s : State) (k : Nat) : State :=
  if (ctxAt s k).wakeArmed then wakeCtx (unpark (updCtx s k (fun c => { c with wakeArmed := false })) k) k else s

def execWakeTimerFire (ctx : CtxId) (s : State) : Host.Outcome State Fault Refusal := plain s (fun s => fireWake s ctx)

/-- PWR_CLEAR. -/
def clearPwr (s : State) : State := updPwr s (fun p => { p with powerMax := 0, tempMax := 0, wakes := 0, wakeDefer := 0, wakeLate := 0 })

def execPwrClear (fn : FnId) (val : W32) (s : State) : Host.Outcome State Fault Refusal :=
  plain s (fun s => stewardDo s fn (fun s => if bit val 0 then clearPwr s else s))

/-! ### Idle ports (R431) -/

/-- The port holds a committed fabric slot entry. -/
def hasSlots (s : State) (p : Nat) : Bool := s.fab.slot.any (fun e => decide (e.1 / 256 = p) && bit e.2 31)

/-- Every bound context tolerates the 2 ms of I2. -/
def allTolerate (s : State) : Bool :=
  (List.range 16).all (fun k => decide ((ctxAt s k).st = .unbound) || decide (2000 ≤ bits (ctxAt s k).pwrLat.eff 0 24))

/-- I2 may be entered. -/
def mayIdle (s : State) (p : Nat) : Bool :=
  let x := portAt s p
  bit s.pwr.ctrl.eff 2 && bit s.pwr.portAllow.eff p && !(hasSlots s p) && !(decide (p = 15) && portOpp x) && allTolerate s &&
  decide (2 ≤ x.st) && decide (x.st ≤ 4) && decide (x.idle = 0) && x.freeOut.isEmpty && x.weftOut.isEmpty && x.retry.isEmpty

def execPortIdleTimeout (p : PortId) (s : State) : Host.Outcome State Fault Refusal :=
  plain s (fun s => if mayIdle s p then updPort s p (fun x => { x with idle := 1 }) else s)

/-- A wake from I2, counted. -/
def wakePort (s : State) (p : Nat) : State :=
  if (portAt s p).idle = 1 then
    updPwr (updPort s p (fun x => { x with idle := 0 })) (fun w => { w with wakes := satAdd w.wakes 1 })
  else s

def execPortWake (p : PortId) (s : State) : Host.Outcome State Fault Refusal := plain s (fun s => wakePort s p)

end Sys2Proof.Machine
end

