-- ==== Sys2Proof/Machine/Regs.lean ====
section
/-! DEFINITION. The register maps: what a read of each register returns and what a write does, by its access code and description
(R14 to R18, R77, R170, R196, R276, R338, R345, R389, R414, R435; Tables 2.9, 5.10, 6.9, 8.11, 9.15, 11.14 to 11.16, 12.2, 13.6, 14.9,
15.11). A read answers the word and the state it leaves. -/

namespace Sys2Proof.Machine

/-- A number as a register value, saturating. -/
def sat32 (n : Nat) : W32 := BitVec.ofNat 32 (min n (2 ^ 32 - 1))
/-- Time units as sc. -/
def scOf (n : Nat) : W32 := sat32 (n / Config.unitsPerSc)
/-- Bytes 4i to 4i + 3 of a digest. -/
def digestWord (d : BitVec 256) (i : Nat) : W32 := BitVec.ofNat 32 (bits d (32 * i) 32)

/-- What a word that waits for the tempo edge reads: the value last accepted, else the one in effect (R47). -/
def latest (s : State) (k : LaterWord) (eff : W32) : W32 := (laterOf s k).getD eff

/-! ### GLB (Table 11.14) -/

def readGlb (s : State) (f off : Nat) : W32 :=
  if off = 0x00 then 0x0A33B000
  else if off = 0x04 then glbPart s
  else if off = 0x08 then lo32 s.card.serial
  else if off = 0x0C then hi32 s.card.serial
  else if off = 0x10 then glbMap s 0
  else if off = 0x14 then glbMap s 1
  else if off = 0x18 then glbMap s 2
  else if off = 0x1C then BitVec.ofNat 32 ((List.range 18).foldl (fun a k => a + b2n (clusterLive s k) * 2 ^ k) 0)
  else if off = 0x20 then s.card.results.setWidth 32
  else if off = 0x24 then BitVec.ofNat 32 (bits s.card.subs 0 5 * 2 ^ 16 + s.card.remaps.toNat)
  else if off = 0x28 then
    BitVec.ofNat 32 (b2n (bit s.card.flags 2) * 2 ^ 18 + bits s.card.flags 0 2 * 2 ^ 16 + s.card.format.toNat * 256 + s.card.cardState.toNat)
  else if off = 0x2C then glbStatus s f
  else if off = 0x30 then s.glb.boot
  else if off = 0x34 then s.glb.pcieA
  else if off = 0x38 then s.glb.pcieB
  else if off = 0x3C then setBits s.glb.traceCtrl 1 1 (b2n s.glb.traceActive)
  else if off = 0x40 then s.glb.traceLost
  else 0

def writeGlb (s : State) (f off : Nat) (v : W32) : State := if off = 0x3C ∧ isSteward s f then writeTrace s v else s

/-! ### HQ (Table 11.15) -/

/-- A function's own view, offsets 0x000 to 0x0FF of the block. -/
def readHqOwn (s : State) (f off : Nat) : W32 :=
  let x := fnAt s f
  if off < 0x80 then
    let p := qpAt x (off / 32)
    match off % 32 with
    | 0x00 => p.sqLo
    | 0x04 => p.sqHi
    | 0x08 => p.cqLo
    | 0x0C => p.cqHi
    | 0x10 => p.qcfg
    | 0x14 => BitVec.ofNat 32 (b2n (decide (p.open_ ≠ 0)) * 2 ^ 31 + p.sqHead)
    | 0x18 => BitVec.ofNat 32 p.cqTail
    | _ => 0
  else match off with
    | 0x80 => x.evtLo
    | 0x84 => x.evtHi
    | 0x88 => x.evtCfg
    | 0x8C => BitVec.ofNat 32 x.evtTail
    | 0x90 =>
      let me := b2n (fnPortB f) * 2 ^ 8 + (f % 9) * 2 ^ 4
      match fnCtx s f with
      | some k => BitVec.ofNat 32 (2 ^ 31 + k * 2 ^ 16 + me)
      | none => BitVec.ofNat 32 me
    | 0x94 => match fnCtx s f with | some k => (ctxAt s k).clusters.eff | none => 0
    | 0x98 => x.dbErr
    | 0x9C => x.evtLost
    | _ => 0

/-- The context table. -/
def readHqCtx (s : State) (off : Nat) : W32 :=
  let c := ctxAt s (selCtx s)
  match off with
  | 0x100 => s.ctxSel
  | 0x104 => c.bind.acc
  | 0x108 => c.clusters.acc
  | 0x10C => BitVec.ofNat 32 (ctxStNo c.st)
  | 0x114 => s.ctxStatus
  | _ => 0

def readHq (s : State) (f off : Nat) : W32 :=
  if off < 0x100 then readHqOwn s f off else if isSteward s f then readHqCtx s off else 0

def writeHqOwn (s : State) (f off : Nat) (v : W32) : State :=
  if off < 0x80 then
    let q := off / 32
    match off % 32 with
    | 0x00 => updQp s f q (fun p => { p with sqLo := v })
    | 0x04 => updQp s f q (fun p => { p with sqHi := v })
    | 0x08 => updQp s f q (fun p => { p with cqLo := v })
    | 0x0C => updQp s f q (fun p => { p with cqHi := v })
    | 0x10 => writeQcfg s f q v
    | _ => s
  else match off with
    | 0x80 => updFn s f (fun x => { x with evtLo := v })
    | 0x84 => updFn s f (fun x => { x with evtHi := v })
    | 0x88 => writeEvtCfg s f v
    | 0xA0 => if bit v 0 then clearHq s f else s
    | _ => s

def writeHqCtx (s : State) (off : Nat) (v : W32) : State :=
  match off with
  | 0x100 => { s with ctxSel := v &&& 0xF }
  | 0x104 => writeBind s v
  | 0x108 => writeClusters s v
  | 0x110 => writeCtxCtrl s v
  | 0x114 => { s with ctxStatus := w1c s.ctxStatus (v &&& 1) }
  | _ => s

def writeHq (s : State) (f off : Nat) (v : W32) : State :=
  if off < 0x100 then writeHqOwn s f off v else if isSteward s f then writeHqCtx s off v else s

/-! ### TMP (Table 2.9) -/

/-- The core that a logical number in a select register names. -/
def selCore (s : State) (sel : W32) : Core := match physicalOf s (bits sel 0 6) with | some c => coreAt s c | none => {}

/-- TMP_VARIANT. -/
def tmpVariant (s : State) : W32 :=
  let next := match s.tmp.switches with | p :: _ => p.2.toNat | [] => 0
  BitVec.ofNat 32 (min s.tmp.switches.length 16 * 256 + next * 16 + s.tmp.variant.toNat)

/-- Bank conflicts that the bolt of the selected core declares for the current variant (Table 2.7). -/
def declaredConflicts (s : State) : W32 :=
  match physicalOf s (bits s.tmp.coreSel 0 6) with
  | none => 0
  | some c => match ctxOfCore s c with
    | none => 0
    | some k => match ctxVariant s k with
      | some v => BitVec.ofNat 32 (v.conflicts.getD (bits s.tmp.coreSel 0 6) 0)
      | none => 0

def readTmp (s : State) (off : Nat) : W32 × State :=
  let t := s.tmp
  let c := selCore s t.coreSel
  let p := portAt s (bits t.portSel 0 4)
  match off with
  | 0x00 => (t.ctrl, s)
  | 0x04 => (t.period, s)
  | 0x08 => (t.status, s)
  | 0x0C => readCountLo s
  | 0x10 => readCountHi s
  | 0x14 => (t.heldTotal, s)
  | 0x18 => (tmpVariant s, s)
  | 0x1C => readSwitchLo s
  | 0x20 => readSwitchHi s
  | 0x24 => (t.setLo, s)
  | 0x28 => (t.setHi, s)
  | 0x30 => (t.throttleCfg.acc, s)
  | 0x34 => (t.hemLast, s)
  | 0x38 => (t.hemMax, s)
  | 0x3C => (t.stretchLast, s)
  | 0x40 => (t.devCount, s)
  | 0x44 => (t.skew.setWidth 32, s)
  | 0x48 => (t.coreSel, s)
  | 0x4C => (scOf c.slip, s)
  | 0x50 => (BitVec.ofNat 32 (c.waitSlips.toNat * 65536 + c.rereads.toNat), s)
  | 0x54 => (c.conflictsLast, s)
  | 0x58 => (declaredConflicts s, s)
  | 0x5C => (t.portSel, s)
  | 0x60 => (p.retries, s)
  | 0x64 => (p.retryNc, s)
  | 0x68 => (t.resumeLo, s)
  | 0x6C => (t.resumeHi, s)
  | 0x74 => (BitVec.ofNat 32 Config.guardSc, s)
  | 0x78 => (BitVec.ofNat 32 s.lock.level, s)
  | _ => (0, s)

/-- TMP_STATUS is W1C, but TEMPO_LOST clears only on resume. -/
def tmpW1c : W32 := 0x1F7FF

def writeTmp (s : State) (off : Nat) (v : W32) : State :=
  match off with
  | 0x00 => writeTmpCtrl s v
  | 0x04 =>
    let n := bits v 0 20
    if bit s.tmp.ctrl 0 ∨ n < 0x31F ∨ 0xC34FF < n then tmpCfgErr s else updTmp s (fun t => { t with period := v &&& 0xFFFFF })
  | 0x08 => updTmp s (fun t => { t with status := w1c t.status (v &&& tmpW1c) })
  | 0x24 => updTmp s (fun t => { t with setLo := v })
  | 0x28 => updTmp s (fun t => { t with setHi := v })
  | 0x2C => writeVariantSet s v
  | 0x30 =>
    if 8 < bits v 8 4 ∨ bits v 0 4 = 0 then tmpCfgErr s
    else updTmp s (fun t => { t with throttleCfg := { t.throttleCfg with acc := v &&& 0xF3F } })
  | 0x48 => if coreCount s ≤ bits v 0 6 then tmpCfgErr s else updTmp s (fun t => { t with coreSel := v &&& 0x3F })
  | 0x5C => updTmp s (fun t => { t with portSel := v &&& 0xF })
  | 0x68 => updTmp s (fun t => { t with resumeLo := v })
  | 0x6C => updTmp s (fun t => { t with resumeHi := v })
  | 0x70 => if bit v 0 then clearTmp s else s
  | _ => s

/-! ### FAB (Table 9.15) -/

def fabPort (s : State) : Nat := bits s.fab.portSel 0 4
def fabCtx (s : State) : Nat := bits s.fab.ctxSel 0 4
def fabKey (s : State) : Nat := fabPort s * 16 + fabCtx s
def fabSlotKey (s : State) : Nat := fabPort s * 256 + bits s.fab.slotSel 0 8
def fabChip (s : State) : Nat := bits s.fab.routeSel 0 12
def freeqDefault : Deferred := ⟨0xFFFFFFFF, 0xFFFFFFFF⟩

def readFab (s : State) (off : Nat) : W32 :=
  let b := s.fab
  let p := portAt s (fabPort s)
  match off with
  | 0x00 => latest s .fabCtrl (b.ctrl &&& 0x27) ||| (b.ctrl &&& 0x10)
  | 0x04 => b.status
  | 0x08 => b.chipId.acc
  | 0x0C => b.board
  | 0x10 => b.cfg.acc
  | 0x14 => b.portSel
  | 0x18 => BitVec.ofNat 32 (b2n p.long * 128 + p.st * 16 + p.gen.toNat)
  | 0x1C => p.ctrl.acc
  | 0x20 => BitVec.ofNat 32 (p.neighBoard.toNat * 65536 + p.neighSlot.toNat * 1024 + p.neighGen.toNat * 256 + p.neighPort.toNat * 16)
  | 0x24 => p.neighChip.setWidth 32
  | 0x28 => lo32 p.neighSerial
  | 0x2C => hi32 p.neighSerial
  | 0x30 => p.lat.setWidth 32
  | 0x34 => p.phase
  | 0x38 => p.crcN
  | 0x3C => p.downs
  | 0x40 => latest s (.portLegacy (fabPort s)) p.legacy
  | 0x44 => b.ctxSel
  | 0x48 => (tget {} b.quota (fabKey s)).acc
  | 0x4C => (tget freeqDefault b.freeq (fabKey s)).acc
  | 0x50 => (tget {} b.job (fabCtx s)).acc
  | 0x54 => (tget {} b.barCfg (fabCtx s)).acc
  | 0x58 => b.slotSel
  | 0x5C => tget 0 b.slotStaged (fabSlotKey s)
  | 0x60 => b.routeSel
  | 0x64 => lo32 (tget 0 b.routeStaged (fabChip s))
  | 0x68 => hi32 (tget 0 b.routeStaged (fabChip s))
  | 0x70 => b.snapLo
  | 0x74 => b.snapHi
  | 0x78 => b.epochLo
  | 0x7C => b.epochHi
  | 0x80 => b.aperSel
  | 0x84 => latest s (.aper (bits b.aperSel 0 3)) (tget 0 b.aper (bits b.aperSel 0 3))
  | 0x88 => b.msgLast
  | _ => 0

/-- A job tag is refused: 0xFFFF (R261), a RUNNING context's, or one that a context of the other port holds (R412). -/
def jobBad (s : State) (k : Nat) (v : W32) : Bool :=
  decide (bits v 0 16 = 0xFFFF) || decide ((ctxAt s k).st = .running) ||
  (bit v 16 && (List.range 16).any (fun o =>
    let w := (tget {} s.fab.job o).acc
    decide (o ≠ k) && bit w 16 && decide (bits w 0 16 = bits v 0 16) &&
      !(match ctxFn s k, ctxFn s o with | some f, some g => fnPortB f == fnPortB g | _, _ => false)))

/-- The partition registers of the selected context may be written: it is UNBOUND or BOUND (R322). -/
def partOpen (s : State) (k : Nat) : Bool := decide ((ctxAt s k).st = .unbound) || decide ((ctxAt s k).st = .bound)

/-- The chip ID: at the next tempo edge, or at once before the first worked tempo. -/
def writeChipId (s : State) (v : W32) : State :=
  let n := bits v 0 12
  if 0xC00 ≤ n ∧ n ≤ 0xFFE then fabCfgErr s
  else updFab s (fun b => { b with chipId := ⟨v &&& 0xFFF, if s.tmp.begun then b.chipId.eff else v &&& 0xFFF⟩ })

def writeFab (s : State) (off : Nat) (v : W32) : State :=
  let p := fabPort s
  let accOf (w : W32) (d : Deferred) : Deferred := { d with acc := w }
  match off with
  | 0x00 => writeFabCtrl s v
  | 0x04 => updFab s (fun b => { b with status := w1c b.status (v &&& 0x6FF) })
  | 0x08 => writeChipId s v
  | 0x0C => if bit s.fab.ctrl 1 then fabCfgErr s else updFab s (fun b => { b with board := v &&& 0xFFFF0007 })
  | 0x10 => if bits v 8 12 = 0 ∨ bits v 0 4 = 0 then fabCfgErr s else updFab s (fun b => { b with cfg := accOf (v &&& 0xFFF0F) b.cfg })
  | 0x14 => updFab s (fun b => { b with portSel := v &&& 0xF })
  | 0x1C => writePortCtrl s v
  | 0x40 => 
    if bits v 8 8 < 0xC0 then fabCfgErr s
    else accept s (.portLegacy p) (v &&& 0x3FFFF00) (fun s v => updPort s p (fun x => { x with legacy := v }))
  | 0x44 => updFab s (fun b => { b with ctxSel := v &&& 0xF })
  | 0x48 =>
    if !(partOpen s (fabCtx s)) then hqCfgErr s else if 3840 < bits v 20 12 ∨ 960 < bits v 0 10 then fabCfgErr s
    else updFab s (fun b => { b with quota := tupd {} b.quota (fabKey s) (accOf (v &&& 0xFFF003FF)) })
  | 0x4C => if !(partOpen s (fabCtx s)) then hqCfgErr s else updFab s (fun b => { b with freeq := tupd freeqDefault b.freeq (fabKey s) (accOf v) })
  | 0x50 =>
    if jobBad s (fabCtx s) v then fabCfgErr s
    else updFab s (fun b => { b with job := tupd {} b.job (fabCtx s) (accOf (v &&& 0x1FFFF)) })
  | 0x54 => updFab s (fun b => { b with barCfg := tupd {} b.barCfg (fabCtx s) (accOf (v &&& 0xFC3FFFFF)) })
  | 0x58 => updFab s (fun b => { b with slotSel := v &&& 0xFF })
  | 0x5C => updFab s (fun b => { b with slotStaged := tset 0 b.slotStaged (fabSlotKey s) (v &&& 0xFFFFFF80) })
  | 0x60 => updFab s (fun b => { b with routeSel := v &&& 0xFFF })
  | 0x64 => updFab s (fun b => { b with routeStaged := tupd 0 b.routeStaged (fabChip s) (fun e => join64 (hi32 e) v) })
  | 0x68 => updFab s (fun b => { b with routeStaged := tupd 0 b.routeStaged (fabChip s) (fun e => join64 v (lo32 e)) })
  | 0x6C => writeRouteCommit s v
  | 0x70 => updFab s (fun b => { b with snapLo := v })
  | 0x74 => updFab s (fun b => { b with snapHi := v })
  | 0x78 => updFab s (fun b => { b with epochLo := v })
  | 0x7C => updFab s (fun b => { b with epochHi := v })
  | 0x80 => updFab s (fun b => { b with aperSel := v &&& 7 })
  | 0x84 =>
    let i := bits s.fab.aperSel 0 3
    accept s (.aper i) (v &&& 0x8000FFFF) (fun s v => updFab s (fun b => { b with aper := tset 0 b.aper i v }))
  | 0x8C => writeDreset s v
  | 0x90 => if bit v 0 then clearFab s else s
  | _ => s

/-! ### PWR (Table 15.11) -/

/-- The context that PWR's context registers show a function: the selected one for the steward PF, else the function's own (R435). -/
def pwrSel (s : State) (f : Nat) : Option Nat := if isSteward s f then some (bits s.pwr.ctxSel 0 4) else fnCtx s f

/-- PWR_CTX_STATE: parked; all of the context's clusters in or waking from I1; all idle; else active. -/
def pwrCtxState (s : State) (k : Nat) : W32 :=
  let cs := ((List.range 18).filter (ctxHasCluster s k)).map (clusterIdle s)
  if (ctxAt s k).parked then 2
  else if cs.isEmpty then 0
  else if cs.all (fun i => decide (i = 2) || decide (i = 3)) then 3
  else if cs.all (fun i => decide (i ≠ 0)) then 1 else 0

/-- PWR_CLUSTER_IDLE: both wakes show as 3. -/
def idleWord (s : State) (lo n : Nat) : W32 :=
  BitVec.ofNat 32 ((List.range n).foldl (fun a i => a + min (clusterIdle s (lo + i)) 3 * 4 ^ i) 0)

def readPwr (s : State) (f off : Nat) : W32 :=
  let p := s.pwr
  let mj := p.energy / 100
  let c : Ctx := match pwrSel s f with | some k => ctxAt s k | none => {}
  match off with
  | 0x00 => p.ctrl.acc
  | 0x04 => p.status
  | 0x08 => p.cause
  | 0x10 => p.vin.setWidth 32
  | 0x14 => p.power.setWidth 32
  | 0x18 => p.powerMax.setWidth 32
  | 0x1C => latest s .pwrCap p.cap
  | 0x20 => latest s .pwrTemp p.tempCfg
  | 0x24 => p.tempSel
  | 0x28 => (tget 0 p.temp (bits p.tempSel 0 5)).setWidth 32
  | 0x2C => p.tempMax.setWidth 32
  | 0x30 => BitVec.ofNat 32 mj
  | 0x34 => BitVec.ofNat 32 (mj / 2 ^ 32)
  | 0x38 => idleWord s 0 16
  | 0x3C => idleWord s 16 2
  | 0x40 => BitVec.ofNat 32 ((List.range 16).foldl (fun a i => a + (portAt s i).idle % 4 * 4 ^ i) 0)
  | 0x44 => p.portAllow.acc
  | 0x48 => p.portIdleUs.acc
  | 0x4C => match pwrSel s f with | some k => BitVec.ofNat 32 k | none => 0
  | 0x50 => c.pwrBound.acc
  | 0x54 => c.pwrLat.acc
  | 0x58 => c.wakeLo
  | 0x5C => c.wakeHi
  | 0x60 => match pwrSel s f with | some k => pwrCtxState s k | none => 0
  | 0x64 => p.wakes
  | 0x68 => p.wakeDefer
  | 0x6C => p.wakeLate
  | _ => 0

/-- What the board-management target answers at a byte offset (R434); nothing without supply. -/
def readMgmt (s : State) (off : Nat) : Option W32 :=
  if s.pwr.phase = .off then none
  else some (match off with
    | 0x04 => readPwr s 0 0x04
    | 0x08 => readPwr s 0 0x08
    | 0x10 => readPwr s 0 0x10
    | 0x14 => readPwr s 0 0x14
    | 0x2C => readPwr s 0 0x2C
    | 0x80 => lo32 s.card.serial
    | 0x84 => hi32 s.card.serial
    | _ => 0)

/-- PWR_STATUS is W1C; CRIT clears only when no sensor is at its CRIT level, and a level above 0 that is in use sets STRETCHED again. -/
def writePwrStatus (s : State) (v : W32) : State :=
  let m : W32 := v &&& (if atCrit s then 0x1DF else 0x1FF)
  let s := updPwr s (fun p => { p with status := w1c p.status m })
  if s.lock.level = 0 then s else setPwrStatus s 0

/-- A bit of PWR_PORT_ALLOW for port 15 in opposition is refused (R431). -/
def allowBad (s : State) (v : W32) : Bool := portOpp (portAt s 15) && (bit v 15 || bit v 31)

/-- The registers that only the steward PF writes. -/
def writePwrSteward (s : State) (off : Nat) (v : W32) : State :=
  match off with
  | 0x00 => updPwr s (fun p => { p with ctrl := { p.ctrl with acc := v &&& 7 } })
  | 0x04 => writePwrStatus s v
  | 0x08 => updPwr s (fun p => { p with cause := w1c p.cause (v &&& 0x3F) })
  | 0x0C => if bit v 0 then moduleReset s 5 else s
  | 0x1C => 
    if bits v 0 12 < 400 ∨ 900 < bits v 0 12 then pwrCfgErr s
    else accept s .pwrCap (v &&& 0xFFF) (fun s v => updPwr s (fun p => { p with cap := v }))
  | 0x20 =>
    if bits v 8 8 < 70 ∨ 100 < bits v 8 8 ∨ bits v 0 4 = 0 then pwrCfgErr s
    else accept s .pwrTemp (v &&& 0xFF0F) (fun s v => updPwr s (fun p => { p with tempCfg := v }))
  | 0x24 => if 25 < bits v 0 5 then pwrCfgErr s else updPwr s (fun p => { p with tempSel := v &&& 0x1F })
  | 0x44 => if allowBad s v then pwrCfgErr s else updPwr s (fun p => { p with portAllow := { p.portAllow with acc := v } })
  | 0x48 =>
    if bits v 0 16 < 100 then pwrCfgErr s else updPwr s (fun p => { p with portIdleUs := { p.portIdleUs with acc := v &&& 0xFFFF } })
  | 0x4C => updPwr s (fun p => { p with ctxSel := v &&& 0xF })
  | 0x50 =>
    if bits v 0 2 = 3 then pwrCfgErr s
    else updCtx s (bits s.pwr.ctxSel 0 4) (fun c => { c with pwrBound := { c.pwrBound with acc := v &&& 0xFF0F } })
  | 0x70 => if bit v 0 then clearPwr s else s
  | _ => s

/-- The registers marked (C). -/
def writePwrOwn (s : State) (k off : Nat) (v : W32) : State :=
  match off with
  | 0x54 => updCtx s k (fun c => { c with pwrLat := { c.pwrLat with acc := v &&& 0xFFFFFF } })
  | 0x58 => updCtx s k (fun c => { c with wakeLo := v })
  | _ => armWake s k v

def writePwr (s : State) (f off : Nat) (v : W32) : State :=
  if off = 0x54 ∨ off = 0x58 ∨ off = 0x5C then (match pwrOwn s f with | some k => writePwrOwn s k off v | none => s)
  else if isSteward s f then writePwrSteward s off v else s

/-! ### SAF (Table 13.6) -/

def flogAt (s : State) : FlogEnt := tget {} s.saf.flog (bits s.saf.flogSel 0 6)

def readSaf (s : State) (off : Nat) : W32 × State :=
  let x := s.saf
  let e := flogAt s
  match off with
  | 0x00 => (latest s .safCtrl x.ctrl, s)
  | 0x04 => (x.status, s)
  | 0x08 => (latest s .safPersist x.persist, s)
  | 0x0C => (lo32 x.committed, s)
  | 0x10 => (hi32 x.committed, s)
  | 0x14 => (x.withheld, s)
  | 0x18 => (lo32 x.lastWh, s)
  | 0x1C => (hi32 x.lastWh, s)
  | 0x20 => (x.faults, s)
  | 0x24 => (x.flogSel, s)
  | 0x28 => (BitVec.ofNat 32 (b2n e.valid * 2 ^ 31 + e.ctxs.toNat * 256 + e.code.toNat), s)
  | 0x2C => (lo32 e.detail, s)
  | 0x30 => (hi32 e.detail, s)
  | 0x34 => (lo32 e.count, s)
  | 0x38 => (hi32 e.count, s)
  | 0x3C => (e.time, s)
  | 0x40 => (BitVec.ofNat 32 (b2n x.flogWrapped * 64 + x.flogNext), s)
  | 0x44 => (x.oppCtrl, s)
  | 0x48 => (BitVec.ofNat 32 (b2n x.frozen * 2 + b2n x.oppActive), s)
  | 0x4C => (x.oppFirst, updSaf s (fun y => { y with frozen := false }))
  | 0x50 => (lo32 x.oppFirstCnt, s)
  | 0x54 => (hi32 x.oppFirstCnt, s)
  | 0x58 => (x.oppMismatch, s)
  | 0x5C => (x.choiceLo, s)
  | 0x60 => (x.choiceHi, s)
  | 0x64 => (x.choiceCfg, s)
  | 0x68 => (lo32 x.choiceTotal, s)
  | 0x6C => (hi32 x.choiceTotal, s)
  | 0x70 => (x.choiceSel, s)
  | 0x74 => (tget 0 x.choiceKind (bits x.choiceSel 0 4), s)
  | 0x78 => (if (enabledCores s).isEmpty then 0xFFFFFFFF else (visitAge s).1, s)
  | 0x7C => (BitVec.ofNat 32 (visitAge s).2, s)
  | 0x80 => (x.checkerFails, s)
  | _ => (0, s)

/-- What the module sees of its opposition peer when only a register write tells it to look: a free value (assumption log 6). -/
def unseenPeer (s : State) (follow : Bool) : OppPeer :=
  let b := bit (Config.freeWord (s.freeCtr + 1) 0) 0
  ⟨b, b, !follow, (List.range 16).map (ctxDigest s)⟩

def writeSaf (s : State) (off : Nat) (v : W32) : State :=
  match off with
  | 0x00 => accept s .safCtrl (v &&& 7) (fun s v => updSaf s (fun x => { x with ctrl := v }))
  | 0x04 => updSaf s (fun x => { x with status := w1c x.status (v &&& 0x7FF) })
  | 0x08 => 
    if bits v 0 8 = 0 then safCfgErr s
    else accept s .safPersist (v &&& 0xFF) (fun s v => updSaf s (fun x => { x with persist := v }))
  | 0x24 => updSaf s (fun x => { x with flogSel := v &&& 0x3F })
  | 0x44 => writeOppCtrl { s with freeCtr := s.freeCtr + 1 } v (unseenPeer s (bit v 1))
  | 0x5C => if bits v 0 12 ≠ 0 then safCfgErr s else updSaf s (fun x => { x with choiceLo := v })
  | 0x60 => updSaf s (fun x => { x with choiceHi := v })
  | 0x64 => writeChoiceCfg s v
  | 0x70 => if bits v 0 4 = 0 ∨ 10 < bits v 0 4 then safCfgErr s else updSaf s (fun x => { x with choiceSel := v &&& 0xF })
  | 0x84 => if bit v 0 then updSaf s clearSaf else s
  | _ => s

/-! ### BSC (Table 14.9) -/

/-- The context of a function's BSC_KEY_SEL; for another function than the steward PF, its own (R414). -/
def keyCtx (s : State) (f : Nat) : Option Nat := if isSteward s f then some (bits (fnAt s f).keySel 3 4) else fnCtx s f
def keySlot (s : State) (f : Nat) : Option PubKey :=
  match keyCtx s f with | some k => tget none (ctxAt s k).keys (bits (fnAt s f).keySel 0 3) | none => none

def readBsc (s : State) (f off : Nat) : W32 :=
  let x := fnAt s f
  if 0x20 ≤ off ∧ off < 0x40 then digestWord s.bsc.fwDigest ((off - 0x20) / 4)
  else if 0x40 ≤ off ∧ off < 0x60 then digestWord s.card.digest ((off - 0x40) / 4)
  else if 0x68 ≤ off ∧ off < 0x88 then
    match keySlot s f with | some k => digestWord (keyDigest k) ((off - 0x68) / 4) | none => 0
  else match off with
    | 0x04 => x.mbLo
    | 0x08 => x.mbHi
    | 0x0C => x.mbLen
    | 0x10 => x.mbResult
    | 0x14 => BitVec.ofNat 32 (s.bsc.fwCause.toNat * 256 + s.bsc.stage.toNat)
    | 0x18 => s.bsc.fwFloor
    | 0x1C => s.bsc.fwSvn
    | 0x60 => match keyCtx s f with | some k => BitVec.ofNat 32 (k * 8 + bits x.keySel 0 3) | none => BitVec.ofNat 32 (bits x.keySel 0 3)
    | 0x64 =>
      let locked := match keyCtx s f with | some k => (ctxAt s k).locked | none => false
      BitVec.ofNat 32 (b2n (keySlot s f).isSome * 2 ^ 31 + b2n locked * 2 ^ 30)
    | 0x88 => s.bsc.clearing.setWidth 32
    | 0x8C => s.bsc.spdmCount
    | _ => 0

/-- Whether a DMA read succeeds, where only a register write starts it: a free value (assumption log 6). -/
def unseenDma (s : State) : Bool := bit (Config.freeWord (s.freeCtr + 1) 0) 0

def writeBsc (s : State) (f off : Nat) (v : W32) : State :=
  match off with
  | 0x00 => mailboxCmd { s with freeCtr := s.freeCtr + 1 } f v (unseenDma s)
  | 0x04 => updFn s f (fun x => { x with mbLo := v })
  | 0x08 => updFn s f (fun x => { x with mbHi := v })
  | 0x0C => updFn s f (fun x => { x with mbLen := v })
  | 0x18 => if namedSteward s f then writeFwFloor s v else s
  | 0x60 => updFn s f (fun x => { x with keySel := v &&& 0x7F })
  | _ => s

/-! ### TIR (Table 6.9) -/

def tirCfgErr (s : State) : State := setTirStatus s 9
/-- The physical core that TIR_CORE_SEL names. -/
def tirCore (s : State) : Nat := (physicalOf s (bits s.tiers.coreSel 0 6)).getD 0

def fenceWord (e : FenceEnt) : W32 :=
  BitVec.ofNat 32 (b2n e.valid * 2 ^ 31 + e.state.toNat * 2 ^ 29 + e.core.toNat * 2 ^ 19 + e.blk.toNat)

def readTir (s : State) (off : Nat) : W32 :=
  let t := s.tiers
  let c := tirCore s
  if 0x70 ≤ off ∧ off < 0xB0 then tget 0 t.subs ((off - 0x70) / 4) &&& 0x80037F7F
  else match off with
    | 0x00 => latest s .tirCtrl t.ctrl
    | 0x04 => t.status
    | 0x08 => latest s .tirScrubMin t.scrubMin
    | 0x0C => latest s .tirScrubMax t.scrubMax
    | 0x10 => t.scrubPeriod
    | 0x14 => t.scrubSweeps
    | 0x18 => latest s .tirScrubCfg t.scrubCfg
    | 0x1C => latest s .tirRetireCfg t.retireCfg
    | 0x20 => BitVec.ofNat 32 (spareFree t 0)
    | 0x24 => BitVec.ofNat 32 (spareFree t 1)
    | 0x28 => BitVec.ofNat 32 (spareFree t 2)
    | 0x2C => BitVec.ofNat 32 (spareFree t 3)
    | 0x30 => t.rereads
    | 0x34 => t.fences
    | 0x38 => t.retiredN
    | 0x3C => t.repaired
    | 0x40 => t.coreSel
    | 0x44 =>
      let armed := (List.range 4).foldl (fun a i => a + b2n (standbyOf t c i).isSome * 2 ^ i) 0
      BitVec.ofNat 32 (armed * 65536 + remapUsed t c)
    | 0x48 => (tget {} t.credit c).acc
    | 0x4C => tget 0 t.heldN c
    | 0x50 => BitVec.ofNat 32 (coreAt s c).bq.length
    | 0x60 => t.fenceSel
    | 0x64 => fenceWord (tget {} t.fence (bits t.fenceSel 0 6))
    | 0x68 => BitVec.ofNat 32 ((List.range 64).filter (fun i => (tget {} t.fence i).valid)).length
    | 0xB0 => t.codecFaults
    | 0xB4 => t.codecLast
    | _ => 0

def writeTir (s : State) (off : Nat) (v : W32) : State :=
  let n := bits v 0 12
  match off with
  | 0x00 => accept s .tirCtrl (v &&& 7) (fun s v => updTiers s (fun t => { t with ctrl := v }))
  | 0x04 => updTiers s (fun t => { t with status := w1c t.status (v &&& 0x3FF) })
  | 0x08 =>
    if n < 60 ∨ 3000 < n ∨ (latest s .tirScrubMax s.tiers.scrubMax).toNat < n then tirCfgErr s
    else accept s .tirScrubMin (v &&& 0xFFF) (fun s v => updTiers s (fun t => { t with scrubMin := v }))
  | 0x0C =>
    if n < (latest s .tirScrubMin s.tiers.scrubMin).toNat ∨ 3000 < n then tirCfgErr s
    else accept s .tirScrubMax (v &&& 0xFFF) (fun s v => updTiers s (fun t => { t with scrubMax := v }))
  | 0x18 =>
    if bits v 0 8 = 0 then tirCfgErr s else accept s .tirScrubCfg (v &&& 0xFF) (fun s v => updTiers s (fun t => { t with scrubCfg := v }))
  | 0x1C =>
    if bits v 16 8 = 0 ∨ 168 < bits v 16 8 ∨ bits v 0 4 = 0 then tirCfgErr s
    else accept s .tirRetireCfg (v &&& 0xFFFFFF) (fun s v => updTiers s (fun t => { t with retireCfg := v }))
  | 0x40 => if coreCount s ≤ bits v 0 6 then tirCfgErr s else updTiers s (fun t => { t with coreSel := v &&& 0x3F })
  | 0x48 => updTiers s (fun t => { t with credit := tupd {} t.credit (tirCore s) (fun d => { d with acc := v &&& 0x800FFFFF }) })
  | 0x60 => updTiers s (fun t => { t with fenceSel := v &&& 0x3F })
  | 0xB8 => if bit v 0 then updTiers s clearTir else s
  | _ => s

/-! ### SRV (Table 11.16) -/

def readSrv (s : State) (f off : Nat) : W32 :=
  match srvSel s f with
  | none => if off = 0x40 then s.srv.status else 0
  | some k =>
    let x := srvCtxAt s k
    match off with
    | 0x00 => BitVec.ofNat 32 k
    | 0x04 => (tget {} s.srv.groups k).acc
    | 0x08 => x.kvFirst.acc
    | 0x0C => x.kvCount.acc
    | 0x10 => x.pool.acc
    | 0x14 => x.cblk.acc
    | 0x18 => x.coresLo.acc
    | 0x1C => x.coresHi.acc
    | 0x20 => x.draft.acc
    | 0x24 => x.land.acc
    | 0x28 => x.legacyLo.acc
    | 0x2C => x.legacyHi.acc
    | 0x30 => x.tmo.acc
    | 0x34 =>
      let ls := (ctxLanes s k).map (fun l => (laneAt s l).st)
      BitVec.ofNat 32 ((ls.filter (fun st => decide (st = .paused))).length * 65536 + (ls.filter (fun st => decide (st ≠ .free))).length)
    | 0x38 => x.draftDrop
    | 0x3C => x.tailIgn
    | 0x40 => s.srv.status
    | _ => 0

/-- The accepted words of a patch pool keep R340: with slots and participating cores, every core is enabled, the piece is a whole number of
blocks, and the pool ends within every column; and all pools together hold at most 64 slots. -/
def poolOk (s : State) (k : Nat) (x : SrvCtx) : Bool :=
  let n := bits x.pool.acc 16 7
  let cores := (List.range 64).filter (fun i => bit (join64 x.coresHi.acc x.coresLo.acc) i)
  let bytes := (bits x.pool.acc 0 9 + 1) * 65536
  let others := ((List.range 16).filter (fun o => decide (o ≠ k))).foldl (fun a o => a + bits (srvCtxAt s o).pool.acc 16 7) 0
  decide (n + others ≤ 64) &&
    (decide (n = 0) || cores.isEmpty ||
      (cores.all (fun i => decide (i < coreCount s)) && decide (bytes % (512 * cores.length) = 0) &&
        decide (bits x.cblk.acc 0 19 + n * (bytes / cores.length / 512) ≤ Config.columnBlocks)))

/-- The KV map ranges of two contexts overlap. -/
def kvOver (x y : SrvCtx) : Bool :=
  decide (bits x.kvFirst.acc 0 15 < bits y.kvFirst.acc 0 15 + bits y.kvCount.acc 0 16) &&
    decide (bits y.kvFirst.acc 0 15 < bits x.kvFirst.acc 0 15 + bits x.kvCount.acc 0 16) &&
    decide (bits x.kvCount.acc 0 16 ≠ 0) && decide (bits y.kvCount.acc 0 16 ≠ 0)

/-- First column block, column blocks and logical cores of a patch pool as accepted. -/
def poolColumns (x : SrvCtx) : Nat × Nat × List Nat :=
  let cores := (List.range 64).filter (fun i => bit (join64 x.coresHi.acc x.coresLo.acc) i)
  (bits x.cblk.acc 0 19, bits x.pool.acc 16 7 * ((bits x.pool.acc 0 9 + 1) * 128 / cores.length), cores)

/-- The patch pools of two contexts overlap in the column of a core. -/
def poolOver (x y : SrvCtx) : Bool :=
  let (a, n, cs) := poolColumns x
  let (b, m, ds) := poolColumns y
  cs.any ds.contains && decide (a < b + m) && decide (b < a + n) && decide (n ≠ 0) && decide (m ≠ 0)

/-- A KV map range within the map's 32,768 entries. -/
def kvOk (x : SrvCtx) : Bool := decide (bits x.kvFirst.acc 0 15 + bits x.kvCount.acc 0 16 ≤ 32768)

/-- A draft or landing ring: off, or an enabled region of a core of the context (R340). -/
def regionOk (s : State) (k : Nat) (v : W32) : Bool :=
  !(bit v 31) || (match physicalOf s (bits v 24 6) with
    | some c => (ctxCores s k).contains c && (ringAt (coreAt s c) (bits v 0 4)).enabled
    | none => false)

/-- Write a context's SRV words if the new ones are allowed. -/
def putSrv (s : State) (k : Nat) (ok : SrvCtx → Bool) (g : SrvCtx → SrvCtx) : State :=
  if ok (g (srvCtxAt s k)) then updSrvCtx s k g else srvCfgErr s

/-- Write a partition word: refused as R322 says, where it would make two contexts overlap or the context is LOADED or RUNNING. -/
def putShare (s : State) (k : Nat) (clash : SrvCtx → SrvCtx → Bool) (ok : SrvCtx → Bool) (g : SrvCtx → SrvCtx) : State :=
  if partOpen s k && (List.range 16).all (fun o => decide (o = k) || !(clash (g (srvCtxAt s k)) (srvCtxAt s o))) then putSrv s k ok g
  else hqCfgErr s

def Deferred.withAcc (d : Deferred) (v : W32) : Deferred := { d with acc := v }

/-- The words marked (S). -/
def writeSrvSteward (s : State) (k off : Nat) (v : W32) : State :=
  match off with
  | 0x04 => writeGroups s k v
  | 0x08 => putShare s k kvOver kvOk (fun x => { x with kvFirst := x.kvFirst.withAcc (v &&& 0x7FFF) })
  | 0x0C => putShare s k kvOver kvOk (fun x => { x with kvCount := x.kvCount.withAcc (v &&& 0xFFFF) })
  | 0x10 => putShare s k poolOver (poolOk s k) (fun x => { x with pool := x.pool.withAcc (v &&& 0x7F01FF) })
  | 0x14 => putShare s k poolOver (poolOk s k) (fun x => { x with cblk := x.cblk.withAcc (v &&& 0x7FFFF) })
  | 0x18 => putShare s k poolOver (poolOk s k) (fun x => { x with coresLo := x.coresLo.withAcc v })
  | _ => putShare s k poolOver (poolOk s k) (fun x => { x with coresHi := x.coresHi.withAcc v })

/-- The words marked (C). -/
def writeSrvOwn (s : State) (k off : Nat) (v : W32) : State :=
  match off with
  | 0x20 => putSrv s k (fun _ => regionOk s k v) (fun x => { x with draft := x.draft.withAcc (v &&& 0xBF00000F) })
  | 0x24 => putSrv s k (fun _ => regionOk s k v) (fun x => { x with land := x.land.withAcc (v &&& 0xBF00000F) })
  | 0x28 => putSrv s k (fun _ => decide (bits v 0 12 = 0)) (fun x => { x with legacyLo := x.legacyLo.withAcc v })
  | 0x2C => putSrv s k (fun _ => true) (fun x => { x with legacyHi := x.legacyHi.withAcc v })
  | _ => putSrv s k (fun _ => decide (bits v 0 20 ≠ 0)) (fun x => { x with tmo := x.tmo.withAcc (v &&& 0xFFFFF) })

def writeSrv (s : State) (f off : Nat) (v : W32) : State :=
  if off = 0x00 then (if isSteward s f then updSrv s (fun x => { x with ctxSel := v &&& 0xF }) else s)
  else if off = 0x40 then updSrv s (fun x => { x with status := w1c x.status (v &&& 0xF) })
  else match srvSel s f with
    | none => s
    | some k =>
      if 0x04 ≤ off ∧ off ≤ 0x1C then (if isSteward s f then writeSrvSteward s k off v else s)
      else if 0x20 ≤ off ∧ off ≤ 0x30 then (if ctxFn s k = some f then writeSrvOwn s k off v else s)
      else if off = 0x44 ∧ bit v 0 then clearSrv s k
      else s

/-! ### BAR0 (Table 0.5) -/

/-- Offset decodes for the function: aligned, below 64 KiB, and, on an unconfigured module, in GLB or BSC (R18, R316). -/
def bar0Decodes (s : State) (f off : Nat) : Bool :=
  fnEnabled s f && decide (off % 4 = 0) && decide (off < 0x10000) && (!s.glb.unconfigured || decide (off / 4096 = 0) || decide (off / 4096 = 6))

/-- A read of a BAR0 register; what no table lists reads zero (Table 0.4). -/
def readReg (s : State) (f off : Nat) : W32 × State :=
  if !(bar0Decodes s f off) then (0, s)
  else match off / 4096 with
    | 0 => (readGlb s f off, s)
    | 1 => (readHq s f (off % 4096), s)
    | 2 => readTmp s (off % 4096)
    | 3 => (readFab s (off % 4096), s)
    | 4 => (readPwr s f (off % 4096), s)
    | 5 => readSaf s (off % 4096)
    | 6 => (readBsc s f (off % 4096), s)
    | 8 => (readTir s (off % 4096), s)
    | 10 => (readSrv s f (off % 4096), s)
    | _ => (0, s)

/-- A write of a BAR0 register. -/
def writeReg (s : State) (f off : Nat) (v : W32) : State :=
  if !(bar0Decodes s f off) then s
  else match off / 4096 with
    | 0 => writeGlb s f off v
    | 1 => writeHq s f (off % 4096) v
    | 2 => if isSteward s f then writeTmp s (off % 4096) v else s
    | 3 => if isSteward s f then writeFab s (off % 4096) v else s
    | 4 => writePwr s f (off % 4096) v
    | 5 => if isSteward s f then writeSaf s (off % 4096) v else s
    | 6 => writeBsc s f (off % 4096) v
    | 8 => if isSteward s f then writeTir s (off % 4096) v else s
    | 10 => writeSrv s f (off % 4096) v
    | _ => s

/-! ### Router control windows (Table 8.11) -/

/-- A read of a register of `size` bytes. -/
def readRouter (s : State) (r off size : Nat) : W64 :=
  let x := routerAt s r
  let part (w : W64) : W64 := if size = 8 then w else if off % 8 = 4 then w >>> 32 else w &&& 0xFFFFFFFF
  if off = 0x00 then BitVec.ofNat 64 r
  else if off = 0x04 then (setBits (latest s (.rtrCtrl r) x.ctrl) 1 1 (b2n x.commitDue)).setWidth 64
  else if off = 0x08 then x.status.setWidth 64
  else if off = 0x0C then x.crcCount.setWidth 64
  else if off = 0x10 then x.strayCount.setWidth 64
  else if off = 0x14 then x.seamFaults.setWidth 64
  else if off = 0x18 then x.freeWaitMax.setWidth 64
  else if off = 0x1C then x.slotLent.setWidth 64
  else if 0x100 ≤ off ∧ off < 0x180 then BitVec.ofNat 64 (leNat ((List.range size).map (fun i => tget 0 x.routeStaged (off - 0x100 + i))))
  else if 0x800 ≤ off ∧ off < 0x1800 then
    let i := (off - 0x800) / 4
    if size = 8 then join64 (tget 0 x.streamStaged (i + 1)) (tget 0 x.streamStaged i) else (tget 0 x.streamStaged i).setWidth 64
  else if 0x1800 ≤ off ∧ off < 0x1A00 then part (tget 0 x.seamStaged ((off - 0x1800) / 8))
  else if slotOffset r off then part (tget 0 x.slotStaged ((off - 0x10000) / 0x8000 * 4096 + (off - 0x10000) % 0x8000 / 8))
  else 0

/-- The routing table takes effect at once in maintenance mode (Table 8.11). -/
def routeAtOnce (s : State) (r : Nat) : Bool := decide (r < 72) && (coreAt s r).maint

/-- A staged 64-bit entry with one half, or the whole, replaced. -/
def putPart (off size : Nat) (old v : W64) : W64 :=
  if size = 8 then v else if off % 8 = 4 then join64 (lo32 v) (lo32 old) else join64 (hi32 old) (lo32 v)

def seamMask : W64 := 0xFFFFFFFFFE000000
def slotMask : W64 := 0xFFFFFFFFFFFFFBFF

/-- A write of `size` bytes; the tables' reserved bits are ignored (R16). -/
def writeRouter (s : State) (r off size : Nat) (v : W64) : State :=
  let w : W32 := lo32 v
  if off = 0x04 then writeRtrCtrl s r w
  else if off = 0x08 then updRouter s r (fun x => { x with status := w1c x.status (w &&& 0x7F) })
  else if off = 0x20 then (if bit w 0 then updRouter s r clearRouter else s)
  else if 0x100 ≤ off ∧ off + size ≤ 0x180 then
    let put (t : Tbl Byte) : Tbl Byte :=
      (List.range size).foldl (fun t i => tset 0 t (off - 0x100 + i) (BitVec.ofNat 8 (bits v (8 * i) 8) &&& 0x87)) t
    updRouter s r (fun x => { x with routeStaged := put x.routeStaged, route := if routeAtOnce s r then put x.route else x.route })
  else if 0x800 ≤ off ∧ off < 0x1800 then
    let s := updRouter s r (fun x => writeWeft x r off (v &&& 0xFFFFFE00))
    if size = 8 then updRouter s r (fun x => writeWeft x r (off + 4) ((v >>> 32) &&& 0xFFFFFE00)) else s
  else if 0x1800 ≤ off ∧ off < 0x1A00 then
    updRouter s r (fun x => writeWeft x r off (putPart off size (tget 0 x.seamStaged ((off - 0x1800) / 8)) v &&& seamMask))
  else if slotOffset r off then
    updRouter s r (fun x =>
      writeWeft x r off (putPart off size (tget 0 x.slotStaged ((off - 0x10000) / 0x8000 * 4096 + (off - 0x10000) % 0x8000 / 8)) v &&& slotMask))
  else s

/-! ### Maintenance windows (Table 12.2) -/

def readMaint (s : State) (c off size : Nat) : W64 :=
  let x := coreAt s c
  if off = 0x10 then BitVec.ofNat 64 (b2n x.maint * 512 + b2n x.mnext.isSome * 256 + x.mstat.toNat)
  else if off = 0x14 then x.mpErr.setWidth 64
  else if 0x20 ≤ off ∧ off < 0x60 then
    let w := tget 0 x.mres ((off - 0x20) / 8)
    if size = 8 then w else if off % 8 = 4 then w >>> 32 else w &&& 0xFFFFFFFF
  else if off = 0x60 then x.mcrc.setWidth 64 ||| (if size = 8 then x.mcnt.setWidth 64 <<< 32 else 0)
  else if off = 0x64 then x.mcnt.setWidth 64
  else 0

/-- A word of the window, 4 bytes. -/
def writeMaintWord (s : State) (c off : Nat) (v : W32) : State :=
  if off < 0x10 then
    let s := updCore s c (fun x => { x with mpInsn := tset 0 x.mpInsn (off / 4) v })
    if off = 0x0C then maintLaunch s c else s
  else if off = 0x14 then updCore s c (fun x => { x with mpErr := w1c x.mpErr (v &&& 3) })
  else if (coreAt s c).mnext.isSome then s
  else if 0x20 ≤ off ∧ off < 0x60 then
    let i := (off - 0x20) / 8
    updCore s c (fun x => { x with mres := tset 0 x.mres i (putPart off 4 (tget 0 x.mres i) (v.setWidth 64)) })
  else if off = 0x60 then updCore s c (fun x => { x with mcrc := v })
  else s

def writeMaint (s : State) (c off size : Nat) (v : W64) : State :=
  let s := writeMaintWord s c off (lo32 v)
  if size = 8 then writeMaintWord s c (off + 4) (hi32 v) else s

/-! ### REGISTER_WRITE -/

/-- The MSI-X table: message address, data and mask of an entry, a word each; reserved bits of the mask word are ignored. -/
def writeMsixTable (s : State) (f off : Nat) (v : W32) : State :=
  if fnEnabled s f && decide (off % 4 = 0) && decide (off < 1024) then
    updFn s f (fun x => { x with msixTable := tset 0 x.msixTable (off / 4) (if off % 16 = 12 then v &&& 1 else v) })
  else s

/-- The natural size of a register of a router or maintenance window: 8 B for 64-bit entries. -/
def routerSize (off : Nat) : Nat := if 0x1800 ≤ off then 8 else if 0x100 ≤ off ∧ off < 0x180 then 1 else 4
def maintSize (off : Nat) : Nat := if 0x20 ≤ off ∧ off < 0x60 then 8 else 4

/-- A write by a host function: its BAR0, its MSI-X table, and, from a PF, its SR-IOV capability. -/
def hostWrite (s : State) (f : FnId) (sp : RegSpace) (v : W64) : State :=
  match sp with
  | .bar0 off => writeReg s f off (lo32 v)
  | .msixTable off => writeMsixTable s f off (lo32 v)
  | .numVfs p => if f.val = pfOf p then writeVfs s p (bits v 0 16) else s
  | .core .. => s
  | .router .. => s
  | .maint .. => s

/-- A word of a core's control region, written by the service complex. -/
def svcCoreWord (s : State) (c off : Nat) (v : W32) : State :=
  if !(enabledCore s c) ∨ off % 4 ≠ 0 ∨ 0x2000 ≤ off then s
  else if isSyncWord off then syncWriteOp s .service c off v
  else (writeCoreWord s c off v).1

/-- A write by the service complex: BAR0 with steward rights, core control regions, router and maintenance windows (Table 12.1). -/
def serviceWrite (s : State) (sp : RegSpace) (v : W64) : State :=
  if !s.svc.released then s
  else match sp with
    | .bar0 off => (match stewardFn s with | some f => writeReg s f off (lo32 v) | none => s)
    | .core c off => svcCoreWord s c off (lo32 v)
    | .router r off => if routerExists s r then writeRouter s r off (routerSize off) v else s
    | .maint c off => if enabledCore s c then writeMaint s c off (maintSize off) v else s
    | .msixTable _ => s
    | .numVfs _ => s

/-- A write by a fabric message or host DMA of a context: SYNC_VAL and SYNC_THR only (R170). -/
def messageWrite (s : State) (k : CtxId) (sp : RegSpace) (v : W64) : State :=
  match sp with
  | .core c off => syncWriteOp s (.message k) c off (lo32 v)
  | .bar0 _ => s
  | .router .. => s
  | .maint .. => s
  | .msixTable _ => s
  | .numVfs _ => s

def registerWrite (s : State) (rq : Requester) (sp : RegSpace) (v : W64) : State :=
  match rq with
  | .host f => hostWrite s f sp v
  | .service => serviceWrite s sp v
  | .message k => messageWrite s k sp v

def execRegisterWrite (rq : Requester) (sp : RegSpace) (val : W64) (s : State) : Host.Outcome State Fault Refusal :=
  done s (fun s => registerWrite s rq sp val)

end Sys2Proof.Machine
end

