-- ==== Sys2Proof/Machine/Service.lean ====
section
/-! DEFINITION. The service complex: loads and stores of its cores, its message engine, and what its firmware does with a fault report
(12). -/

namespace Sys2Proof.Machine

/-! ### The address map (Table 12.1) -/

/-- What a service-core address reaches: a byte of the service memories, a BAR0 register, a maintenance window, the message engine, a
router window, a core's local space, the board aperture, or nothing. -/
inductive SvcTarget where
  | mem (a : Nat)
  | bar0 (off : Nat)
  | maint (c off : Nat)
  | engine
  | router (r off : Nat)
  | local_ (c a : Nat)
  | aperture (slot a : Nat)
  | none_

/-- Sizes of a load or store of the scalar and vector units. -/
def upTo8 (n : Nat) : Bool := [1, 2, 4, 8].contains n
def word48 (n : Nat) : Bool := decide (n = 4) || decide (n = 8)

/-- The target of an access of `size` bytes by service core `k`; a size that the table does not list, and an access that leaves its
region, reach nothing. -/
def svcTarget (s : State) (k addr size : Nat) : SvcTarget :=
  let vec := upTo8 size || decide (size = 64)
  if addr + size ≤ 0x100000 then (if vec then .mem (k * 0x100000 + addr) else .none_)
  else if 0x1000000 ≤ addr ∧ addr + size ≤ 0x1800000 then
    let o := addr - 0x1000000
    if upTo8 size && decide (o % 0x100000 + size ≤ 0x100000) then .mem o else .none_
  else if 0x2000000 ≤ addr ∧ addr + size ≤ 0x3000000 then (if vec then .mem (0x800000 + (addr - 0x2000000)) else .none_)
  else if 0x4000000 ≤ addr ∧ addr + size ≤ 0x4010000 then (if size = 4 ∧ addr % 4 = 0 then .bar0 (addr - 0x4000000) else .none_)
  else if 0x5000000 ≤ addr ∧ addr + size ≤ 0x5048000 then
    let o := addr - 0x5000000
    if word48 size && decide (addr % size = 0) && enabledCore s (o / 0x1000) then .maint (o / 0x1000) (o % 0x1000) else .none_
  else if 0x6000000 ≤ addr ∧ addr + size ≤ 0x6001000 then (if word48 size then .engine else .none_)
  else if 0x8000000 ≤ addr ∧ addr + size ≤ 0x8000000 + 88 * 0x80000 then
    let o := addr - 0x8000000
    if word48 size && decide (addr % size = 0) && routerExists s (o / 0x80000) then .router (o / 0x80000) (o % 0x80000) else .none_
  else if 0x1000000000 ≤ addr ∧ addr + size ≤ 0x1000000000 + 72 * 0x100000000 then
    let o := addr - 0x1000000000
    if vec && (decide (size ≠ 64) || decide (addr % 64 = 0)) && enabledCore s (o / 0x100000000) then
      .local_ (o / 0x100000000) (o % 0x100000000)
    else .none_
  else if 0x8000000000 ≤ addr ∧ addr + size ≤ 0xA000000000 then
    let o := addr - 0x8000000000
    if vec then .aperture (o / 0x400000000) (o % 0x400000000) else .none_
  else .none_

/-- The access raises an access-fault exception in the service core and does nothing else (R342). -/
def svcTrap (s : State) (k addr : Nat) : State := updSvc s (fun v => { v with trap := tset 0 v.trap k (addr + 1) })

def svcLoaded (s : State) (k : Nat) (d : BitVec 512) : State :=
  updSvc s (fun v => { v with loaded := tset 0 v.loaded k d, trap := tset 0 v.trap k 0 })

def svcStored (s : State) (k : Nat) : State := updSvc s (fun v => { v with trap := tset 0 v.trap k 0 })

/-- SECDED ECC of a service memory (R377): memory 0 to 7 is a TCM, 8 the service store. -/
def svcEcc (s : State) (a addr : Nat) (e : Ecc) : State :=
  match e with
  | .ok => s
  | .corrected => updSvc s (fun v => { v with eccCorrected := satAdd v.eccCorrected 1 })
  | .uncorrectable => lostFault s 16 0x26 3 0 (min (a / 0x100000) 8 * 2 ^ 40 + addr % 2 ^ 32)

/-! ### Local spaces and the aperture -/

/-- A load of a core's local space, as an unscheduled access; nothing maps the windows, the apertures and the gaps. A store that clears
accepts no access (R169, assumption log 66). -/
def localLoad (s : State) (k c a size addr : Nat) : State :=
  match regionOf a with
  | .store o =>
    if 0x800000 < o + size ∨ (coreAt s c).clearing then svcTrap s k addr
    else let (d, ok, s) := readStore s c o size false; if ok then svcLoaded s k (BitVec.ofNat 512 (leNat d)) else svcTrap s k addr
  | .column o =>
    if 0xC000000 < o + size then svcTrap s k addr
    else let (d, ok, s) := readColumn s c o size false; if ok then svcLoaded s k (BitVec.ofNat 512 (leNat d)) else svcTrap s k addr
  | .control o =>
    if 0x2000 < o + size then svcTrap s k addr
    else
      let ws := (List.range ((o % 4 + size + 3) / 4)).flatMap (fun i => leBytes 4 (coreWord s c (o / 4 * 4 + 4 * i)).toNat)
      svcLoaded s k (BitVec.ofNat 512 (sliceNat ws (o % 4) size))
  | .ring .. => svcTrap s k addr
  | .none_ => svcTrap s k addr

/-- A store to a core's local space: through the gather buffer, or a whole line (R343); control words in whole words. -/
def localStore (s : State) (k c a size addr : Nat) (d : BitVec 512) : State :=
  let bs := leBytes size d.toNat
  match regionOf a with
  | .store o => if 0x800000 < o + size ∨ (coreAt s c).clearing then svcTrap s k addr else svcStored (storeWrite s c o bs true none) k
  | .column o => if 0xC000000 < o + size then svcTrap s k addr else svcStored (writeColumn s c o bs).2 k
  | .control o =>
    if size % 4 ≠ 0 ∨ o % 4 ≠ 0 ∨ 0x2000 < o + size then svcTrap s k addr
    else
      svcStored (forAll (List.range (size / 4)) s (fun s i => svcCoreWord s c (o + 4 * i) (BitVec.ofNat 32 (bits d (32 * i) 32)))) k
  | .ring g o =>
    if o ≠ 0 ∨ (coreAt s c).clearing ∨ !(ringAt (coreAt s c) g).enabled ∨ size ≠ 64 * ringLines (coreAt s c) g then svcTrap s k addr
    else svcStored (ringWrite s c g bs (gaMake (ownChip s) 0xFF 0) none) k
  | .none_ => svcTrap s k addr

/-- An outstanding store of the service cores that a load of `size` bytes at a global address overlaps (R270). -/
def aperOverlaps (s : State) (g : W64) (size : Nat) : Bool :=
  s.fab.msgs.any (fun m => decide (m.src = 72) && decide (m.op = 0) && decide (m.gaddr.toNat < g.toNat + size) && decide (g.toNat < m.gaddr.toNat + m.len))

/-- An aperture access fails: a load returns zeros, and the message fault is raised (R269, R270). -/
def aperFail (s : State) (k : Nat) (m : Msg) (st : BitVec 4) : State :=
  let s := if m.op = 1 then svcLoaded s k 0 else svcStored s k
  messageFault (updFab s (fun f => { f with nextId := f.nextId + 1 })) m st

/-- An aperture access becomes a one-sided message with the slot's job tag; one through an entry that is not valid is unreachable, one at an
offset that Table 9.12 does not list is refused (R269). A load waits for an outstanding store that it overlaps (R270). -/
def aperMsg (s : State) (k slot a op size : Nat) (data : List Byte) : State :=
  let e := tget 0 s.fab.aper slot
  let msg (o : Nat) : Msg :=
    { svcMsg s 72 op (gaMake (bits e 0 12) (a / 2 ^ 28 % 64) o) 0 size 0 with ctx := some (bits e 12 4), data := data }
  if !(bit e 31) then aperFail s k { msg 0 with ctx := none } 1
  else match aperLocal (a % 2 ^ 28) with
    | none => aperFail s k (msg 0) 2
    | some o =>
      let m := msg o
      if op = 1 then
        sendSvc (updSvc s (fun v => { v with slots := v.slots ++ [(m.msgid, 64 + k)], trap := tset 0 v.trap k 0 }))
          { m with fence := aperOverlaps s m.gaddr size }
      else sendSvc (svcStored s k) m

/-! ### Loads and stores (R342, R343) -/

/-- A load that returns free bytes (assumption log 6). -/
def svcFree (s : State) (k size : Nat) : State :=
  let n := s.freeCtr + 1
  let word (i : Nat) : List Byte := leBytes 8 (Config.freeWord n i).toNat
  svcLoaded { s with freeCtr := n } k (BitVec.ofNat 512 (leNat (((List.range 8).flatMap word).take size)))

def serviceLoad (s : State) (k addr size : Nat) (e : Ecc) : State :=
  if !s.svc.released then s
  else match svcTarget s k addr size with
    | .mem a =>
      let s := svcEcc s a addr e
      if e = .uncorrectable then svcFree s k size
      else svcLoaded s k (BitVec.ofNat 512 (readLe s.svc.mem a size))
    | .bar0 off => match stewardFn s with
      | some f => let (w, s) := readReg s f off; svcLoaded s k (w.setWidth 512)
      | none => svcTrap s k addr
    | .maint c off => svcLoaded s k ((readMaint s c off size).setWidth 512)
    | .engine => svcFree s k size
    | .router r off => svcLoaded s k ((readRouter s r off size).setWidth 512)
    | .local_ c a => localLoad s k c a size addr
    | .aperture slot a => aperMsg s k slot a 1 size []
    | .none_ => svcTrap s k addr

def execServiceLoad (k : SvcId) (addr size : Nat) (ecc : Ecc) (s : State) : Host.Outcome State Fault Refusal :=
  done s (fun s => serviceLoad s k addr size ecc)

def serviceStore (s : State) (k addr size : Nat) (d : BitVec 512) (e : Ecc) : State :=
  if !s.svc.released then s
  else match svcTarget s k addr size with
    | .mem a =>
      let s := svcEcc s a addr e
      svcStored (updSvc s (fun v => { v with mem := writeLe v.mem a size d.toNat })) k
    | .bar0 off => match stewardFn s with
      | some f => writeReg (svcStored s k) f off (d.setWidth 32)
      | none => svcTrap s k addr
    | .maint c off => writeMaint (svcStored s k) c off size (d.setWidth 64)
    | .engine => svcStored s k
    | .router r off => writeRouter (svcStored s k) r off size (d.setWidth 64)
    | .local_ c a => localStore s k c a size addr d
    | .aperture slot a => aperMsg s k slot a 0 size (leBytes size d.toNat)
    | .none_ => svcTrap s k addr

def execServiceStore (k : SvcId) (addr size : Nat) (data : BitVec 512) (ecc : Ecc) (s : State) : Host.Outcome State Fault Refusal :=
  done s (fun s => serviceStore s k addr size data ecc)

/-! ### The message engine (R347) -/

/-- SLADDR names a range of the shared service store, or of an enabled core's store or column. -/
def slRange (s : State) (a n : Nat) : Bool :=
  match svcPlace a with
  | some (none, o) => decide (o + n ≤ 0x1000000)
  | some (some c, o) => enabledCore s c && (match regionOf o with
    | .store b => decide (b + n ≤ 0x800000)
    | .column b => decide (b + n ≤ 0xC000000)
    | .control _ => false
    | .ring .. => false
    | .none_ => false)
  | none => false

/-- A descriptor of the ring: the layout of Table 9.8 with LADDR zero and SLADDR in bytes 32 to 39; BAR and SPUT, which act for a core's
context, are not the engine's. -/
def svcDescStatus (s : State) (d : Line) : Nat :=
  let x := descOf d
  let clean := decide (bits d 26 1 = 0) && decide (bits d 128 8 = 0) && decide (bits d 145 15 = 0) && decide (bits d 160 32 = 0) &&
    decide (bits d 320 192 = 0)
  if !clean ∨ 1 < x.cls ∨ x.laddr ≠ 0 ∨ 3 ≤ x.op then 6
  else if !(slRange s (bits d 256 64) x.len) then 4 else 0

/-- A message of a slot starts; a slot whose message is outstanding does not start another. -/
def submitSlot (s : State) (i : Nat) : State :=
  if !s.svc.released ∨ tget false s.svc.msgOpen i = true then s
  else
    let d : Line := BitVec.ofNat 512 (readLe s.svc.mem (0x800000 + (Config.messageRing + 64 * i) % 0x1000000) 64)
    let x := descOf d
    let end_ (st : Nat) : State := updSvc s (fun v => { v with msgStatus := tset 0 v.msgStatus i (BitVec.ofNat 32 st) })
    match svcDescStatus s d with
    | 0 =>
      if x.len = 0 then end_ 0
      else
        let m := { svcMsg s 72 x.op x.gaddr (bits d 256 64) x.len x.cls with
          arrive := if x.aen then some x.arrive else none, coreset := x.coreset, fence := x.fence }
        sendSvc (updSvc s (fun v => { v with msgOpen := tset false v.msgOpen i true, slots := v.slots ++ [(m.msgid, i)] })) m
    | st => end_ st

def execServiceMessageSubmit (slot : Fin 64) (s : State) : Host.Outcome State Fault Refusal := done s (fun s => submitSlot s slot)

/-! ### Fault reports (R357) -/

/-- Codes of scope module or none (Table 13.1): their event concerns the module. -/
def moduleCode (code : Nat) : Bool :=
  (decide (0x17 ≤ code) && decide (code ≤ 0x1E)) || decide (code = 0x20) || decide (code = 0x21) || decide (code = 0x23) || decide (code = 0x26) ||
  decide (code = 0x27) || decide (code = 0x28)

/-- Step 2: the event of KIND 0x04 to each function concerned (R330). -/
def postFault (s : State) (e : FlogEnt) : State :=
  let ks := (List.range 16).filter (fun k => bit e.ctxs k)
  let rec_ (k : Nat) : BitVec 256 := eventRec (countNow s) 4 k 0 e.code.toNat e.detail
  if moduleCode e.code.toNat ∨ ks = [] then postSteward s 4 0 0 e.code.toNat e.detail
  else forAll ks s (fun s k => match ctxFn s k with | some f => postTo s f (rec_ k) | none => s)

/-- Steps 3 and 4 for a block fenced by the fault: its repair begins, if no source has been tried for it yet, and a standby spare is armed again
for the tier whose spare was used (R181, R184). -/
def startRepair (s : State) (e : FlogEnt) : State :=
  if e.code ≠ 0x08 then s
  else
    let c := bits e.detail 37 7
    let b := bits e.detail 18 19
    let fresh := match fenceEntry s.tiers c b with
      | some i => let e := tget {} s.tiers.fence i; decide (e.state = 0) && decide (e.source = 0)
      | none => false
    let s := if bit s.tiers.ctrl 1 && fresh then repairNext s c b 0 else s
    rearm s c (tierOfPb (resolve s c b))

/-- Firmware handles the oldest report. -/
def handleReport (s : State) : State :=
  if !s.svc.released then s
  else match s.saf.reports with
    | [] => s
    | e :: rest => startRepair (postFault (updSaf s (fun x => { x with reports := rest })) e) e

def execFaultReportHandling (s : State) : Host.Outcome State Fault Refusal := done s handleReport

end Sys2Proof.Machine
end

