-- ==== Sys2Proof/Machine/Commit.lean ====
section
/-! DEFINITION. The commit point of a worked tempo: what is committed, what is withheld, and what follows (R366 to R372, R380). -/

namespace Sys2Proof.Machine

/-- A tempo signature of the ended worked tempo that has not been compared by the commit point: opposition lost (R380). -/
def sigsLate (s : State) : State :=
  if s.saf.oppActive && decide (s.saf.sigDue = some s.tmp.lastT) && decide (s.saf.sigDone ≠ some s.tmp.lastT) then raiseModule s 0x21 0 else s

/-- A fault attributed to the context and the ended worked tempo, or tempo lost, withholds it (R366, R368). -/
def withheldBy (s : State) (k : Nat) : Bool := s.tmp.lost || (ctxAt s k).marks.any (fun m => decide (m.1 = s.tmp.lastT))

/-- The marks of a context for a worked tempo from a core, router or port. -/
def sourceMarks (c : Ctx) (t : W64) : List (W64 × Nat × Byte) := c.marks.filter (fun m => decide (m.1 = t) && decide (m.2.1 / 256 < 3))

/-- Consecutive worked tempos that each source has withheld (R372). -/
def streakNext (c : Ctx) (t : W64) : Tbl Nat :=
  ((sourceMarks c t).map (·.2.1)).dedup.foldl (fun (a : Tbl Nat) q => tset 0 a q (tget 0 c.streak q + 1)) []

/-- A persistent fault, and the exit that PERSIST_EXIT asks for (R372). -/
def persistent (s : State) (k src : Nat) : State :=
  let code := (((sourceMarks (ctxAt s k) s.tmp.lastT).filter (fun m => decide (m.2.1 = src))).getLast?.map (fun m => m.2.2.toNat)).getD 0
  let s := raiseAt s 0x24 [k] [] (src / 256) (src % 256) k (code * 2 ^ 36)
  if bit s.saf.ctrl 2 then exitDomain (enterLost s [15]) else s

/-- The ended worked tempo of a context is committed. -/
def commitCtx (s : State) (k : Nat) : State :=
  updSaf (updCtx s k (fun c => { c with commits := s.tmp.lastT :: c.commits, streak := [] })) (fun x => { x with committed := x.committed + 1 })

/-- It is withheld: counted, its event posted to the function and the steward, and its sources counted; a run that
reaches SAF_PERSIST_CFG is reported once (R368, R372). -/
def withholdCtx (s : State) (k : Nat) : State :=
  let t := s.tmp.lastT
  let s := setSafStatus (updSaf s (fun x => { x with withheld := satAdd x.withheld 1, lastWh := t })) 1
  let s := postBoth s k 8 0 t
  let s := updCtx s k (fun c => { c with streak := streakNext c t })
  let runs := (ctxAt s k).streak.filter (fun p => decide (s.saf.persist.toNat ≤ p.2))
  let old := (ctxAt s k).persisted.filter (fun q => decide (1 < tget 0 (ctxAt s k).streak q))
  let new := (runs.map (·.1)).filter (fun q => !old.contains q)
  forAll new (updCtx s k (fun c => { c with persisted := new ++ old })) (fun s q => persistent s k q)

/-- What a context keeps for later: marks of worked tempos after the decided one. -/
def decidedCtx (t : W64) (c : Ctx) : Ctx :=
  { c with ranEnded := false, discardEnded := false, marks := c.marks.filter (fun m => decide (t < m.1)) }

/-- The decision for each context that ran the ended worked tempo (R366), then the serving engine's steps. A worked tempo that is withheld
only because it was prepared from a withheld one decides nothing and discards nothing further (R282). -/
def decideEnded (s : State) : State :=
  let ks := (List.range 16).filter (fun k => (ctxAt s k).ranEnded)
  let own := ks.filter (withheldBy s)
  let after := ks.filter (fun k => !(withheldBy s k) && (ctxAt s k).discardEnded)
  let good := ks.filter (fun k => !(withheldBy s k) && !(ctxAt s k).discardEnded)
  let s := forAll (own ++ after) (forAll good s commitCtx) withholdCtx
  let s := if s.tmp.working then servingEdge s good own after else servingStop s good own after
  forAll (List.range 16) s (fun s k => updCtx s k (decidedCtx s.tmp.lastT))

/-- The commit point, 3 µs after the tempo edge; deferred power-ups start (R366, R429). -/
def commitPoint (s : State) : State :=
  if s.tmp.commitDue then
    let s := decideEnded (sigsLate (atLeast s (s.tmp.edgeAt + usSc 3 * Config.unitsPerSc)))
    startDeferred (updTmp s (fun t => { t with commitDue := false }))
  else s

def execCommitPoint (s : State) : Host.Outcome State Fault Refusal := done s commitPoint

end Sys2Proof.Machine
end

