-- ==== Sys2Proof/Machine/Ending.lean ====
section
/-! DEFINITION. The end of a worked tempo at its tempo edge: the hubs' reports, deviations, hem use, and what passes to the commit point
(R33, R50, R55, R65, R75, R143, R282). -/

namespace Sys2Proof.Machine

/-- The contexts that ran the worked tempo, its cores that ran their frames, and the largest W among those contexts. -/
def ranCtxs (s : State) : List Nat := (List.range 16).filter (fun k => (ctxAt s k).ranNow)
def ranCores (s : State) : List Nat := (enabledCores s).filter (fun c => (coreAt s c).ran)
def ranW (s : State) : Nat := ((ranCtxs s).map (ctxW s)).foldl max 0

/-- Final TRC_AC values that disagree are a time-base fault, which withholds the ended worked tempo (R33). -/
def hubFault (s : State) : State :=
  match lockClusters s with
  | [] => s
  | k :: ks =>
    let lo := ks.foldl (fun a b => if trcAc s b < trcAc s a then b else a) k
    let hi := ks.foldl (fun a b => if trcAc s a < trcAc s b then b else a) k
    if trcAc s lo = trcAc s hi then s
    else raiseAt s 0x17 (moduleScope s) [s.tmp.t] 3 0 0 (trcAc s lo * 2 ^ 20 + lo * 2 ^ 15 + hi * 2 ^ 10)

/-- The hubs' final value differs from the largest W, though each core came at its own W (R50): one deviation, and none beside a core's own
(assumption log 65). -/
def hubDeviation (s : State) : State :=
  match ranCores s with
  | [] => s
  | c :: _ =>
    if s.lock.gated && decide (lockTrc s ≠ ranW s) && !(s.tmp.devs.any (fun d => decide (d.2 = 1))) then deviate s c 1 else s

/-- Conflicts that the bolt of a core declares for the variant in effect (Table 2.7). -/
def coreConflicts (s : State) (c : Nat) : Nat :=
  match (ctxOfCore s c).bind (ctxVariant s) with
  | some v => v.conflicts.getD (logicalOf s c) 0
  | none => 0

/-- A core's observed conflict count differs from its declaration (R75). -/
def conflictDeviation (s : State) (c : Nat) : State :=
  if (coreAt s c).conflictsLast.toNat = coreConflicts s c then s else deviate s c 0

/-- Hem use and stretch loss of the worked tempo (R55). -/
def hemRecord (s : State) : State :=
  let last := if s.lock.gated then s.lock.workEndAt else s.now
  let hem := scOf (last - s.tmp.edgeAt - ranW s * acUnits0)
  updTmp s (fun t => { t with
    hemLast := hem, hemMax := if t.hemMax.toNat < hem.toNat then hem else t.hemMax, stretchLast := scOf s.lock.loss })

/-- One deviation: counted, and fault 0x1F, which withholds only where DEV_WITHHOLD is in effect (R75, Table 13.1). -/
def reportDev (s : State) (d : Nat × Nat) : State :=
  let n := logicalOf s d.1
  let k := ctxOfCore s d.1
  let s := setTmpStatus (updTmp s (fun t => { t with devCount := satAdd t.devCount 1 })) 8
  raiseAt s 0x1F (if s.tmp.devEff then k.toList else []) [s.tmp.t] 0 n (k.getD 0) (n * 2 ^ 38 + d.2 * 2 ^ 34)

/-- Every lane of a context is FREE. -/
def lanesIdle (s : State) (k : Nat) : Bool := (ctxLanes s k).all (laneFree s)

/-- A context has run the worked tempo: its index moves on, and the decision waits for the commit point (R227, R366, R426). -/
def endCtx (s : State) (k : Nat) : State :=
  let idle := lanesIdle s k
  updCtx s k (fun c => { c with
    w := c.w + 1, ranNow := false, ranEnded := true, discardEnded := c.discardNext, discardNext := false
    freeTempos := if idle then c.freeTempos + 1 else 0 })

/-- What a lane decided, allocated and moved in the worked tempo waits for the commit point (R282, R307). -/
def endLane (x : Lane) : Lane :=
  { x with
    dec := none, edec := x.dec, alloc := [], ealloc := x.alloc, shuttle := { x.shuttle with fin := x.shuttle.fin ++ x.shuttle.cur, cur := [] } }

/-- The variant taken from the throttle markers of the ended worked tempo applies LEAD later (R65). -/
def takeThrottle (s : State) : State :=
  match taken s s.tmp.t.toNat with
  | some v =>
    let n := s.tmp.t.toNat + lead s
    if (variantAt s n).toNat < v.toNat then addSwitch s n v else s
  | none => s

/-- Markers of worked tempos 64 and more back are forgotten. -/
def pruneMarkers (t : Tmp) : Tmp :=
  let n := t.t.toNat
  { t with
    overrunFor := t.overrunFor.filter (fun c => decide (n < c + 64)), throttles := t.throttles.filter (fun p => decide (n < p.1 + 64))
    forwarded := t.forwarded.filter (fun p => decide (n < p.1 + 64)), copiesUsed := t.copiesUsed.filter (fun p => decide (n < p.2.1 + 64)) }

/-- The checks and records of the ended worked tempo. -/
def endChecks (s : State) : State :=
  let s := hubDeviation (hubFault s)
  let s := forAll (ranCores s) s (fun s c => updCore s c (fun x => { x with conflictsLast := BitVec.ofNat 32 (min x.conflicts (2 ^ 32 - 1)) }))
  let s := forAll (ranCores s) s conflictDeviation
  let s := hemRecord s
  let s := forAll s.tmp.devs s reportDev
  trace s 1 0xFF s.tmp.hemLast.toNat (s.tmp.status.setWidth 64)

/-- The worked tempo ends. -/
def endTempo (s : State) : State :=
  let s := takeThrottle (endChecks s)
  let ks := ranCtxs s
  let s := forAll ((busyLanes s).filter (fun l => ks.contains (laneAt s l).ctx)) s (fun s l => updLane s l endLane)
  let s := forAll ks s endCtx
  let s := if s.saf.oppActive then updSaf s (fun x => { x with sigDue := some s.tmp.t }) else s
  updTmp s (fun t => { pruneMarkers t with lastT := t.t, ended := true, working := false, held := false, devs := [], commitDue := true })

end Sys2Proof.Machine
end

