-- ==== Sys2Proof/Machine/Apply.lean ====
section
/-! DEFINITION. What a tempo edge makes effective of what has been accepted before it, beside partitions and contexts (R47, R52, R192,
R231, R253, R256, R267, R336, R379, R431, R435). -/

namespace Sys2Proof.Machine

def Deferred.take (d : Deferred) : Deferred := { d with eff := d.acc }

/-- A word whose change has waited takes effect (R47). -/
def takeWord (s : State) (k : LaterWord) (v : W32) : State :=
  match k with
  | .rtrCtrl r => takeRtrCtrl r s v
  | .fabCtrl => takeFabCtrl s v
  | .portLegacy p => updPort s p (fun x => { x with legacy := v })
  | .aper i => updFab s (fun b => { b with aper := tset 0 b.aper i v })
  | .pwrCap => updPwr s (fun p => { p with cap := v })
  | .pwrTemp => updPwr s (fun p => { p with tempCfg := v })
  | .safCtrl => updSaf s (fun x => { x with ctrl := v })
  | .safPersist => updSaf s (fun x => { x with persist := v })
  | .tirCtrl => updTiers s (fun t => { t with ctrl := v })
  | .tirScrubMin => updTiers s (fun t => { t with scrubMin := v })
  | .tirScrubMax => updTiers s (fun t => { t with scrubMax := v })
  | .tirScrubCfg => updTiers s (fun t => { t with scrubCfg := v })
  | .tirRetireCfg => updTiers s (fun t => { t with retireCfg := v })

/-- Every word that waits takes effect, in the order of acceptance (R47). -/
def applyLater (s : State) : State := s.later.foldl (fun s p => takeWord s p.1 p.2) { s with later := [] }

/-- Every word of a table of words of reset value `d`. -/
def takeAll (d : Deferred) (t : Tbl Deferred) : Tbl Deferred := t.foldl (fun (r : Tbl Deferred) p => tset d r p.1 p.2.take) []

/-- TMP and PWR words. -/
def applyTempo (s : State) : State :=
  let s := updTmp s (fun t => { t with throttleCfg := t.throttleCfg.take, devEff := bit t.ctrl 1 })
  let s := updPwr s (fun p => { p with ctrl := p.ctrl.take, portIdleUs := p.portIdleUs.take })
  forAll (List.range 16) s (fun s k => updCtx s k (fun c => { c with pwrBound := c.pwrBound.take, pwrLat := c.pwrLat.take }))

/-- I3 in PWR_PORT_ALLOW takes a port down; clearing it starts retraining (R431). -/
def applyI3 (s : State) (p : Nat) (was now : Bool) : State :=
  if now && !was then updPort (portDown s p) p (fun x => { x with idle := 2, st := if x.st = 1 then 0 else x.st })
  else if was && !now then updPort s p (fun x => { x with idle := 0, st := if x.st = 0 then 1 else x.st })
  else s

/-- FAB words, ports, and the staged routes and slots where a commit waits. -/
def applyFabric (s : State) : State :=
  let s := updFab s (fun f => { f with
    chipId := f.chipId.take, cfg := f.cfg.take, quota := takeAll {} f.quota, freeq := takeAll freeqDefault f.freeq, job := takeAll {} f.job
    barCfg := takeAll {} f.barCfg })
  let s := forAll (List.range 16) s applyPortCtrl
  let was := s.pwr.portAllow.eff
  let s := updPwr s (fun p => { p with portAllow := p.portAllow.take })
  let s := forAll (List.range 16) s (fun s p => applyI3 s p (bit was (16 + p)) (bit s.pwr.portAllow.eff (16 + p)))
  if s.fab.commitDue then commitRoutes s else s

/-- Routers whose commit waits (R231). -/
def applyRouters (s : State) : State :=
  forAll ((s.routers.filter (fun p => p.2.commitDue)).map (·.1)) s (fun s r => updRouter s r commitRouter)

/-- Flits held for their quota go back to the egress, and the counts begin anew (R267). -/
def releaseHeld (x : Port) : Port :=
  { x with
    freeUsed := [], heldOut := []
    freeOut := x.heldOut.filter (fun o => !(sideWeft o.flit.side)) ++ x.freeOut
    weftOut := x.heldOut.filter (fun o => sideWeft o.flit.side) ++ x.weftOut }

/-- Regulator credits take effect and are whole again (R192). -/
def restoreCredit (t : Tiers) : Tiers :=
  let c := takeAll {} t.credit
  { t with credit := c, creditLeft := c.foldl (fun (r : Tbl Nat) p => tset 0 r p.1 (bits p.2.eff 0 20 * 4096)) [] }

/-- SRV words of a context. -/
def takeSrv (x : SrvCtx) : SrvCtx :=
  { x with
    kvFirst := x.kvFirst.take, kvCount := x.kvCount.take, pool := x.pool.take, cblk := x.cblk.take, coresLo := x.coresLo.take
    coresHi := x.coresHi.take, draft := x.draft.take, land := x.land.take, legacyLo := x.legacyLo.take, legacyHi := x.legacyHi.take
    tmo := x.tmo.take }

def applyServing (s : State) : State :=
  let s := updSrv s (fun x => { x with groups := takeAll {} x.groups })
  let s := forAll (List.range 16) s (fun s k => updSrvCtx s k takeSrv)
  forAll (List.range 16) (forAll (List.range 16) s shrinkPool) growPool

/-- Opposition begins or ends (R379). -/
def applyOpposition (s : State) : State :=
  let on := bit s.saf.oppCtrl 0
  if on && !s.saf.oppActive then
    updSaf s (fun x => { x with
      oppActive := true, sigSent := false, sigDue := none, sigDone := none, peerSigs := [], peerServ := none, peerParts := 0, peerCount := 0
      mirrorKeys := [], mirrorNow := [] })
  else updSaf s (fun x => { x with oppActive := on })

/-- Trace mode begins or ends (R336); the trace starts at sequence 0 with no loss counted. -/
def applyTrace (s : State) : State :=
  let on := bit s.glb.traceCtrl 0
  if on && !s.glb.traceActive then updGlb s (fun g => { g with traceActive := true, traceSeq := 0, traceLost := 0 })
  else updGlb s (fun g => { g with traceActive := on })

/-- Everything above, in this order; then held messages start (R192). -/
def applyAccepted (s : State) : State :=
  let s := applyServing (applyRouters (applyFabric (applyTempo (applyLater s))))
  let s := forAll (enabledCores s) s cwEdge
  let s := applyTrace (applyOpposition s)
  let s := forAll (List.range 16) (updTiers s restoreCredit) (fun s p => updPort s p releaseHeld)
  startAll s true

end Sys2Proof.Machine
end

