-- ==== Sys2Proof/Machine/Partition.lean ====
section
/-! DEFINITION. Contexts, partitions, maintenance mode and idle clusters at a tempo edge (R322, R323, R346, R352, R355, R360, R361, R405,
R410, R411, R426 to R430). -/

namespace Sys2Proof.Machine

/-! ### Maintenance mode (R346, R360) -/

/-- The core's last self-test visit ended within 30 minutes. -/
def recentVisit (s : State) (c : Nat) : Bool :=
  match (coreAt s c).visited with
  | some t => decide (s.now ≤ t + usSc 1800000000 * Config.unitsPerSc)
  | none => false

/-- A core enters maintenance mode; a visit is owed unless one ended in the last 30 minutes. -/
def enterMaint (s : State) (c : Nat) : State :=
  if (coreAt s c).maint then s
  else
    let owed := !(recentVisit s c)
    updCore s c (fun x => { x with maint := true, boundary := false, barred := false, visitDue := x.visitDue || owed })

/-- Cores of no context are in maintenance mode; so are those of a context that runs no worked tempo, but a core in tempo lost stays in the
boundary wait. -/
def settleMaint (s : State) : State :=
  forAll (enabledCores s) s (fun s c =>
    match ctxOfCore s c with
    | none => enterMaint s c
    | some k => if s.tmp.lost || (decide ((ctxAt s k).st = .running) && !(ctxAt s k).parked) then s else enterMaint s c)

/-- A self-test visit or a maintenance instruction holds one of a list of cores. -/
def coresBusy (s : State) (cs : List Nat) : Bool := cs.any (fun c => (coreAt s c).visitDue || (coreAt s c).mnext.isSome)

/-! ### Clusters that join (R429) -/

/-- Ready clusters join the lock set at an edge whose pulse came at least 1 µs after. -/
def joinClusters (s : State) : State :=
  forAll ((List.range 18).filter (fun k => bit s.pwr.ready k && decide (tget 0 s.pwr.readyAt k + usSc 1 * Config.unitsPerSc ≤ s.tmp.pulseAt))) s
    (fun s k => updPwr s (fun p => { p with cluster := tset 0 p.cluster k 0, ready := clrBit p.ready k, readyAt := tset 0 p.readyAt k 0 }))

/-! ### Commands whose context or cores leave (R411, Table 11.9) -/

/-- An accepted command is abandoned with status 0x19. -/
def abortCmd (s : State) (c : Cmd) : State :=
  let plain := finishCmd s c.id 0x19 0 (countNow s)
  match c.kind with
  | .boltLoad .. =>
    match (ctxAt s c.ctx).fill with
    | some f => if f.cmd = c.id then boltFail s c.ctx c.id 0x19 0 f.ranges else plain
    | none => plain
  | .patchLoad slot .. => finishCmd (setPatch s slot {}) c.id 0x19 0 (countNow s)
  | _ => plain

/-- The command writes cores of clusters that leave. -/
def cmdHits (s : State) (k : Nat) (left : List Nat) (c : Cmd) : Bool :=
  decide (c.ctx = k) && match c.kind with
    | .wload _ core .. => left.contains (clusterOf core)
    | .boltLoad .. => true
    | .patchLoad .. => (patchCores (srvCtxAt s k)).any (fun n => match physicalOf s n with | some c => left.contains (clusterOf c) | none => false)
    | _ => false

/-- Clusters leave a context: they are to be cleared, messages of their cores are abandoned, and so are commands that target them. -/
def leaveClusters (s : State) (k : Nat) (left : List Nat) : State :=
  let mine (m : Msg) : Bool := decide (m.src < 72) && left.contains (clusterOf m.src)
  let s := updBsc s (fun b => { b with clearing := left.foldl orBit b.clearing })
  let s := updMsgs s (fun ms => (ms.filter (fun m => !(mine m) || m.started)).map (fun m => if mine m then { m with dead := true } else m))
  forAll (s.cmds.filter (cmdHits s k left)) s abortCmd

/-! ### Binding and partition (R322, R323) -/

def clusterList (w : W32) : List Nat := (List.range 18).filter (fun cl => bit w cl)

/-- The context becomes UNBOUND: bolt, keys, lanes, patches and outstanding commands go with it (R323, R405, R410). -/
def unbind (s : State) (k : Nat) : State :=
  let s := forAll (s.cmds.filter (fun c => decide (c.ctx = k) && decide ((ctxAt s k).runCmd ≠ some c.id))) s abortCmd
  let s := abortRun s k 0x19
  let s := forAll ((busyLanes s).filter (fun l => decide ((laneAt s l).ctx = k))) s (fun s l => freeLane (clearRows s l) l)
  let s := forAll ((List.range 64).filter (fun i => decide ((patchAt s i).st ≠ .free) && decide ((patchAt s i).ctx = k))) s (fun s i => setPatch s i {})
  let left := clusterList (ctxAt s k).clusters.eff
  leaveClusters (updCtx s k (fun c => { c with
    st := .unbound, bolt := none, fill := none, keys := [], locked := false, parked := false, wakePark := false, freeTempos := 0
    clusters := { c.clusters with eff := 0 } })) k left

/-- An accepted binding takes effect. -/
def bindCtx (s : State) (k : Nat) : State :=
  let c := ctxAt s k
  let s1 := updCtx s k (fun c => { c with bind := c.bind.take })
  if bit c.bind.acc 31 then
    if c.st = .unbound then updCtx s1 k (fun c => { c with st := .bound, weightLog := 0 }) else s1
  else if c.st = .bound ∨ c.st = .loaded then updCtx (unbind s k) k (fun c => { c with bind := c.bind.take })
  else s1

/-- An accepted partition takes effect once its clusters are awake: with a cluster still waking, at the edge at which it joins (R430). -/
def partCtx (s : State) (k : Nat) : State :=
  let c := ctxAt s k
  if c.st ≠ .unbound ∧ c.clusters.acc ≠ c.clusters.eff ∧ (clusterList c.clusters.acc).all (fun cl => decide (clusterIdle s cl = 0)) then
    let left := (clusterList c.clusters.eff).filter (fun cl => !(bit c.clusters.acc cl))
    leaveClusters (updCtx s k (fun c => { c with clusters := c.clusters.take })) k left
  else s

/-! ### STOP, FORCE_STOP and function-level reset (R323) -/

/-- The context's last worked tempo has ended: the one that a STOP names, or, with FORCE_STOP or a function-level reset, this one. -/
def stopsNow (s : State) (k : Nat) : Bool :=
  let c := ctxAt s k
  decide (c.st = .running) && (c.force || match c.stopAt with | some n => decide (n < s.tmp.count.toNat) | none => false)

/-- A waiting ADMIT or CANCEL, which a FORCE_STOP aborts. -/
def forceAborts (k : Nat) (c : Cmd) : Bool :=
  decide (c.ctx = k) && match c.kind with | .admission _ => true | .cancel _ => true | _ => false

/-- The context leaves RUNNING for LOADED. -/
def stopCtx (s : State) (k : Nat) : State :=
  if stopsNow s k then
    let c := ctxAt s k
    let s := updCtx s k (fun c => { c with st := .loaded, stopAt := none, stopCmd := none, parked := false, wakePark := false, freeTempos := 0 })
    let s := match c.stopCmd with | some id => finishCmd s id (if c.force then 0x19 else 0) 0 (countNow s) | none => s
    if c.force then forAll (s.cmds.filter (forceAborts k)) s abortCmd else s
  else s

/-! ### RUN (R323, R352, R355, R361) -/

/-- No worked tempo begins while the module is in tempo lost or a snapshot stop. -/
def mayBegin (s : State) : Bool := !s.tmp.lost && !s.fab.snapStop

/-- The context's clusters are awake and its cores' visits have ended. -/
def ctxReady (s : State) (k : Nat) : Bool :=
  (ctxClusters s k).all (fun cl => decide (clusterIdle s cl = 0)) && !(coresBusy s (ctxCores s k))

def runsNow (s : State) (k : Nat) : Bool :=
  let c := ctxAt s k
  decide (c.st = .loaded) && mayBegin s && ctxReady s k && match c.runAt with | some n => decide (n ≤ s.tmp.count.toNat) | none => false

/-- The context's cores leave maintenance mode; after a STOP or a park their engines hold undefined contents (R355). -/
def startCores (s : State) (k : Nat) (again : Bool) : State :=
  forAll (ctxCores s k) s (fun s c => updCore (if again then undefineCore s c else s) c (fun x => { x with maint := false }))

/-- Firmware has committed the staged entries of a bolt that has not run yet (R352). -/
def commitStaged (s : State) (k : Nat) : State :=
  commitRoutes (forAll ((List.range 88).filter (routerExists s)) s (fun s r =>
    updRouter s r (fun x => commitRouter { x with ctrl := setBits x.ctrl 2 4 k })))

/-- The first worked tempo of a bolt that was filled from peers completes a castling (R362, R387). -/
def castleEnd (s : State) (k : Nat) : State :=
  match (ctxAt s k).bolt with
  | some b =>
    if b.castled then choice (updCtx s k (fun c => { c with bolt := some { b with castled := false } })) 7 k 0 (ownChip s) (countNow s) else s
  | none => s

/-- The context becomes RUNNING. -/
def runCtx (s : State) (k : Nat) : State :=
  if runsNow s k then
    let c := ctxAt s k
    let s := updCtx s k (fun c => { c with st := .running, runAt := none, runCmd := none, freeTempos := 0 })
    let s := match c.runCmd with | some id => finishCmd s id 0 0 (countNow s) | none => s
    let s := startCores s k (decide (c.w ≠ 0))
    castleEnd (if c.w = 0 then commitStaged s k else s) k
  else s

/-! ### Park (R426, R427) -/

/-- WL of a context, in sc. -/
def latSc (s : State) (k : Nat) : Nat := usSc (bits (ctxAt s k).pwrLat.eff 0 24)

def carries (s : State) (k : Nat) : Bool := match (ctxAt s k).bolt with | some b => b.carry | none => false

def parksNow (s : State) (k : Nat) : Bool :=
  let c := ctxAt s k
  let b := c.pwrBound.eff
  decide (c.st = .running) && !c.parked && bit b 3 && decide (1 ≤ bits b 0 2) && !(carries s k) && decide (bits b 8 8 + 1 ≤ c.freeTempos) &&
    decide (usSc 1 + periodSc s ≤ latSc s k) && !(s.cmds.any (fun e => decide (e.ctx = k))) && mayBegin s

def parkCtx (s : State) (k : Nat) : State :=
  if parksNow s k then updCtx s k (fun c => { c with parked := true, wakePark := false, freeTempos := 0 })
  else if (ctxAt s k).parked && (ctxAt s k).wakePark && mayBegin s && ctxReady s k then
    startCores (updCtx s k (fun c => { c with parked := false, wakePark := false })) k true
  else s

/-! ### Idle clusters (R426, R428) -/

/-- A fired wake timer holds the context's clusters awake until its count. -/
def timerHolds (s : State) (k : Nat) : Bool :=
  let c := ctxAt s k
  let n := (join64 c.wakeHi c.wakeLo).toNat
  !c.wakeArmed && decide (n ≠ 0) && decide (s.tmp.count.toNat ≤ n)

/-- The deepest state that a context's clusters may take: 0 active, 1 I0, 2 I1. -/
def ctxDepth (s : State) (k : Nat) : Nat :=
  let c := ctxAt s k
  let b := c.pwrBound.eff
  if c.st = .running then (if c.parked && !c.wakePark then 1 else 0)
  else if c.runAt.isSome || timerHolds s k then 0
  else if (c.st = .bound ∨ bit b 2) ∧ bits b 0 2 = 2 ∧ usSc 40 + periodSc s ≤ latSc s k then 2
  else if bit s.pwr.ctrl.eff 0 && decide (1 ≤ bits b 0 2) && decide (usSc 1 ≤ latSc s k) then 1
  else 0

/-- The context that holds a cluster, in effect. -/
def clusterCtx (s : State) (cl : Nat) : Option Nat :=
  (List.range 16).find? (fun k => decide ((ctxAt s k).st ≠ .unbound) && ctxHasCluster s k cl)

/-- The state that a cluster should take; one that an accepted partition claims stays awake. -/
def clusterDepth (s : State) (cl : Nat) : Nat :=
  match clusterCtx s cl with
  | some k => ctxDepth s k
  | none =>
    if (List.range 16).any (fun k => claims (ctxAt s k) && bit (ctxAt s k).clusters.acc cl) then 0
    else if bit s.pwr.ctrl.eff 1 then 2 else 1

/-- A context that was LOADED loses its bolt, with an event (R428). -/
def dropBolt (s : State) (k : Nat) : State :=
  if (ctxAt s k).st = .loaded then postBoth (updCtx s k (fun c => { c with st := .bound, bolt := none })) k 9 0 0 else s

/-- A cluster enters I1: gathered writes reach their banks, then store, sync objects, queues and engines are off. -/
def enterDeep (s : State) (cl : Nat) : State :=
  let cs := (clusterCores cl).filter (enabledCore s)
  let s := forAll cs s (fun s c => forAll (List.range 16) s (fun s i => flushEntry s c i))
  let s := forAll cs s (fun s c => updCore s c (fun x =>
    { msgid := x.msgid, slip := x.slip, waitSlips := x.waitSlips, rereads := x.rereads, visited := x.visited }))
  let s := updPwr s (fun p => { p with cluster := tset 0 p.cluster cl 2 })
  match clusterCtx s cl with | some k => dropBolt s k | none => s

/-- The cluster may be idled: nothing waits for it. -/
def mayIdleCluster (s : State) (cl : Nat) : Bool :=
  let cs := (clusterCores cl).filter (enabledCore s)
  decide (wakeOf s cl = 0) && !(bit s.bsc.clearing cl) && cs.all (fun c => (coreAt s c).maint) && !(coresBusy s cs)

/-- A cluster takes the state it should, or wakes towards it. -/
def idleCluster (s : State) (cl : Nat) : State :=
  let now := clusterIdle s cl
  let want := clusterDepth s cl
  if 2 < now ∨ now = want then s
  else if now < want then
    if !(mayIdleCluster s cl) then s
    else if want = 2 then enterDeep s cl
    else updPwr s (fun p => { p with cluster := tset 0 p.cluster cl 1 })
  else wakeCluster s cl

/-! ### All of it -/

def ctxEdge (s : State) : State :=
  let all := List.range 16
  let s := forAll all (forAll all (joinClusters s) bindCtx) partCtx
  let s := forAll all (forAll all s stopCtx) parkCtx
  settleMaint (forAll all s runCtx)

def idleEdge (s : State) : State := forAll ((List.range 18).filter (clusterLive s)) s idleCluster

end Sys2Proof.Machine
end

