-- ==== Sys2Proof/Machine/Edge.lean ====
section
/-! DEFINITION. The tempo edge: how a worked tempo begins, and the edges of a module that begins none (R32, R43, R45, R49, R54, R65, R66,
R134 to R136, R272, R282, R376). -/

namespace Sys2Proof.Machine

/-! ### What a worked tempo begins with -/

/-- Switches that have come due take effect; a change of variant is traced and recorded (R65, R66, R387). -/
def switchVariant (s : State) (count : Nat) : State :=
  let v := variantAt s count
  let was := s.tmp.variant
  let s := updTmp s (fun t => { t with variant := v, switches := t.switches.filter (fun p => decide (count < p.1)) })
  if v = was then s else choice (trace s 4 0xFF v.toNat 0) 9 0 0 v.toNat 0

/-- The stride in effect: that of the contexts that work, else of those loaded, else 1 (R49). -/
def strideNow (s : State) : Nat :=
  match (workingCtxs s ++ loadedCtxs s).findSome? (ctxVariant s) with
  | some v => v.stride
  | none => 1

/-- An engine at the start of a worked tempo: its weights and accumulator stay (R105, R355). -/
def freshEngine (g : Engine) : Engine := { g with level := 0, rows := [], passes := 0, lastRowAt := 0, named := [] }

/-- A message that is outstanding over a tempo edge: its descriptor has been read, and a GET's read range released (R165). -/
def carriedOp (o : Op) : Op :=
  { o with issue := 0, step := 2, shift := 0, again := [], lines := [], reads := if o.writes.isEmpty then o.reads else [] }

/-- The units of a core at a tempo edge: outstanding messages stay, with the engines' contents; queues are empty (R109). -/
def freshUnits (x : Core) : Core :=
  { x with
    engines := x.engines.map (fun p => (p.1, freshEngine p.2)), ops := (x.ops.filter (fun o => isMessage o.unit)).map carriedOp
    qin := [], qout := [], off := 0, ranTo := 0, winDue := none, port := 0 }

/-- A core at the start of a worked tempo: what it has of the last one is gone but for outstanding messages, gathered writes and the pass
log (R109, R110, R129, R380). -/
def freshCore (x : Core) : Core :=
  { freshUnits x with
    boundary := false, barred := false, ran := false, a := { buf := x.a.buf }, x := { buf := x.x.buf }, tcfg := none, bypass := []
    conflicts := 0, rings := x.rings.map (fun p => (p.1, { p.2 with sources := [] }))
    passLog := [], passEng := [], passLogOld := x.passLog, passEngOld := x.passEng }

/-! ### The spool at the edge (R134, R135) -/

/-- Valid chunks from O, and the distance of SPOOL_HEAD from O. -/
def spoolValid (x : Core) : Nat :=
  let n := spoolChunks x
  let o := if spoolCyclic x then 0 else x.spoolHead
  (spoolTail x + n - o % n) % n
def spoolAhead (x : Core) : Nat := if spoolCyclic x then x.spoolHead % spoolChunks x else 0

/-- The fault of the set at SPOOL_HEAD, for a bolt of `variants` variants: its code and detail. -/
def setFault (x : Core) (variants : Nat) (h : BitVec 8192) : Option (Nat × Nat) :=
  let under := some (0x0E, x.spoolHead * 2 ^ 26)
  let bad := some (0x0C, 2 ^ 34)
  if spoolValid x < spoolAhead x + 1 then under
  else if !(setHdrOk h variants) then bad
  else if spoolValid x < spoolAhead x + hdrSetLen h then under
  else if hdrLast h && !(spoolCyclic x) then bad
  else none

/-- The core takes the set at SPOOL_HEAD under variant `v`. -/
def takeSet (x : Core) (v : Nat) (h : BitVec 8192) : Core :=
  let head := x.spoolHead
  { x with
    spoolOld := if spoolCyclic x then 0 else head
    spoolHead := if hdrLast h then 0 else (head + hdrSetLen h) % spoolChunks x
    a := { len := hdrALen h v, chunk := head + hdrAOff h v, buf := x.a.buf }
    x := { len := hdrXLen h v, chunk := head + hdrXOff h v, buf := x.x.buf }
    hdr := none, ran := true }

/-- The header that the fetch unit has for this worked tempo; where the variant or the spool has changed since, it reads again (R136). -/
def refetch (s : State) (c v : Nat) : State :=
  let x := coreAt s c
  if (x.hdr.map (fun (p : Nat × BitVec 8192) => p.1)) = some (fetchKey x v) then s else fetchSet s c v

/-- A core of a context that works begins its frames, or is barred from the worked tempo with a fault. -/
def beginCore (s : State) (k c : Nat) : State :=
  let v := s.tmp.variant.toNat
  let n := match (ctxAt s k).bolt with | some b => b.variants.length | none => 0
  let s := refetch s c v
  let x := coreAt s c
  match x.hdr with
  | none => s
  | some (_, h) =>
    match setFault x n h with
    | some (code, low) =>
      raise (setCore s c { x with barred := true, boundary := true, hdr := none }) code [k] 0 (logicalOf s c) k low
    | none => setCore s c (takeSet x v h)

/-! ### Serving at the edge (R279, R282, R382) -/

/-- The step that was prepared becomes the step in progress. -/
def beginGroup (s : State) (g : Nat) : State :=
  let (lo, hi) := (g * 2048, g * 2048 + 2048)
  updSrv s (fun x => { x with
    rows := (x.nextRows.filter (fun p => decide (lo ≤ p.1) && decide (p.1 < hi))).foldl
      (fun (t : Tbl StepRow) p => tset {} t p.1 p.2) (tclear x.rows lo hi)
    nextRows := tclear x.nextRows lo hi })

/-- A lane in the step in progress: coded blocks bound to it move, and a drafted lane's rows are verified (R282, R298, R307). -/
def beginLane (s : State) (l : Nat) : State :=
  let valid := s.srv.rows.any (fun p => decide (p.1 / 2048 = l / 128) && p.2.valid)
  updLane s l (fun x => { x with
    gambit := if (x.gambit = .proposed ∨ x.gambit = .plain) ∧ valid = true then .verifying else x.gambit
    shuttle := { x.shuttle with cur := x.shuttle.prep, prep := [] } })

/-- What the serving actions of this edge act on: what was accepted, verified and completed before it (R281). -/
def cutServing (s : State) : State :=
  updSrv s (fun x => { x with cut := {
    cmds := x.admits ++ x.cancels
    lanes := (x.lanes.filter (fun p => decide (p.2.st = .landing) && decide (p.2.shuttle.step = 6))).map (·.1)
    ready := (List.range 64).filter (fun i => decide ((patchAt s i).st = .loading) && (patchAt s i).verified)
    drops := (List.range 64).filter (fun i => (patchAt s i).drop) } })

def beginServing (s : State) : State :=
  let s := cutServing s
  let ks := workingCtxs s
  let s := forAll (ks.flatMap (ctxGroups s)) s beginGroup
  let s := forAll ((busyLanes s).filter (fun l => ks.contains (laneAt s l).ctx)) s beginLane
  let s := updSrv s (fun x => { x with cands := [], selRun := [], selDone := [], decided := [], sigToks := [], mirrorItem := 0 })
  updSaf s (fun x => { x with mirrorNow := x.mirrorKeys, mirrorKeys := [] })

/-! ### Withholding that carries over -/

/-- A core that cannot fence a failed line, or a block that could not get a fence entry, withholds each worked tempo of its context
(R153, R182). -/
def withholdStanding (s : State) : State :=
  let s := forAll (workingCtxs s) s (fun s k =>
    forAll ((ctxCores s k).filter (fun c => decide ((coreAt s c).unfenced ≠ []))) s (fun s c =>
      markCtx s k [s.tmp.t] (logicalOf s c) 0x0A))
  forAll s.tiers.unfenced s (fun s u =>
    match u.ctx with
    | some k => if (workingCtxs s).contains k then markCtx s k [s.tmp.t] (logicalOf s u.core) 0x0A else s
    | none => s)

/-- A checker that did not flag withholds the next worked tempo too (R376), and its verdict goes out as it begins (R370; assumption log 69). -/
def withholdNext (s : State) : State :=
  match s.tmp.checkNext with
  | some src => forAll (workingCtxs s) (updTmp s (fun t => { t with checkNext := none })) (fun s k =>
    let s := markCtx s k [s.tmp.t] src 0x23
    match jobTag s k with
    | some tag => if bit s.saf.ctrl 0 then sendVerdict s tag s.tmp.t else s
    | none => s)
  | none => s

/-! ### Begin -/

/-- The tempo unit and the lock set at the start of a worked tempo. -/
def beginTempo (s : State) : State :=
  let s := switchVariant s s.tmp.count.toNat
  let s := updTmp s (fun t => { t with
    working := true, t := t.count, pulses := 0, held := false, overrunSent := false, devs := [], stride := strideNow s
    begun := t.begun || !(workingCtxs s).isEmpty })
  updLock { s with hubs := [] } (fun l => { l with loss := 0, slip := 0, gated := false })

/-- The throttle marker held from the worked tempo before goes out (R65). -/
def sendHeldThrottle (s : State) : State :=
  match s.tmp.heldThrottle with
  | some v => sendThrottle (updTmp s (fun t => { t with heldThrottle := none })) v
  | none => s

/-- A worked tempo begins. -/
def beginWork (s : State) : State :=
  let s := beginTempo s
  let s := forAll (enabledCores s) s (fun s c => updCore s c freshCore)
  let s := forAll (workingCtxs s) s (fun s k => forAll (ctxCores s k) s (fun s c => beginCore s k c))
  let s := beginServing s
  let s := forAll (workingCtxs s) s (fun s k => updCtx s k (fun c => { c with ranNow := true }))
  let s := withholdNext (withholdStanding s)
  gateIfAll (sendHeldThrottle (stretchAtEdge s))

/-- An edge that begins no worked tempo: every core goes on in the boundary wait (R45). -/
def waitCore (x : Core) : Core :=
  if x.maint then freshUnits x
  else { freshUnits x with boundary := true, a := { x.a with done := true, held := none }, x := { x.x with done := true, held := none } }

def beginNone (s : State) : State :=
  let s := effectsAll s
  let s := forAll (enabledCores { s with hubs := [] }) { s with hubs := [] } (fun s c => updCore s c waitCore)
  updLock s (fun l => { l with gated := true })

/-! ### The tempo edge -/

/-- The snapshot stop begins at the first edge that would begin a worked tempo above its count (R272). -/
def snapNow (s : State) : State :=
  match s.fab.snapAt with
  | some c =>
    if c < s.tmp.count.toNat ∧ ¬ s.tmp.lost then
      snapDone (updFab s (fun f => { f with
        snapStop := true, snapOver := false, snapAt := none, status := orBit f.status 8, ctrl := clrBit f.ctrl 4 }))
    else s
  | none => s

/-- NEIGH_EN takes effect, and a bit whose neighbour has left by a partition change or a gating at this edge is cleared (R150). -/
def neighEdge (s : State) : State :=
  forAll (enabledCores s) s (fun s c => updCore s c (fun x =>
    let n := neighMask s c (cwAt x 0x008)
    setCwEff (setCw x 0x008 n) 0x008 n))

/-- The tempo edge, 48 sc after its pulse (R43). A commit point still due comes first. -/
def tempoEdge (s : State) : State :=
  if s.tmp.edgeDue then
    let s := atLeast (commitPoint s) (s.tmp.pulseAt + 48 * Config.unitsPerSc)
    let s := updTmp s (fun t => { t with edgeDue := false })
    let s := if s.tmp.working then endTempo s else s
    let s := updTmp s (fun t => { t with edgeAt := s.now, commitDue := true })
    let s := snapNow (neighEdge (idleEdge (ctxEdge (applyAccepted s))))
    if mayBegin s then beginWork s else beginNone s
  else s

def execTempoEdge (s : State) : Host.Outcome State Fault Refusal := done s tempoEdge

end Sys2Proof.Machine
end

