-- ==== Sys2Proof/Machine/Frames.lean ====
section
/-! DEFINITION. What the ports receive: flits with their sequence number and CRC-32 (R241 to R243), and what the frames that they deliver do. -/

namespace Sys2Proof.Machine

/-- A flit as received is what its CRC-32 covers (R241). -/
def flitGood (f : FabFlit) : Bool := decide (linkCrc f.typ f.seq f.dest f.side f.payload = f.crc)

/-- A DATA flit, or one of a reserved TYPE, which is discarded and counted in FAB_PORT_CRC (R242). -/
def flitArrive (s : State) (p : Nat) (f : FabFlit) : State :=
  if f.typ = 0 then linkRx s p f.seq (flitGood f) (.data f)
  else if 2 ≤ (portAt s p).st ∧ (portAt s p).st ≤ 5 then updPort s p (fun x => { x with crcN := satAdd x.crcN 1 })
  else s

/-- A sequenced control flit: its type and payload, and the item that it delivers (R242, R243). -/
def controlArrive (s : State) (p : Nat) (rx : LinkRx) (typ : BitVec 4) (dest : BitVec 12) (payload : Nat) (i : RxItem) : State :=
  linkRx s p rx.seq (decide (linkCrc typ rx.seq dest 0 (BitVec.ofNat 2048 payload) = rx.crc)) i

/-- An OPPOSE frame that has been delivered: signatures, log chunks and mirrored items come from the opposition peer, verdicts on every up HL3
port (R370, R380 to R382, Table 13.4). -/
def opposeArrive (s : State) (p : Nat) (f : Flit256) : State :=
  match bits f 64 8 with
  | 0 => if fromPeer s p then sigArrive s f else s
  | 1 => if fromPeer s p then logArrive s f else s
  | 2 => if fromPeer s p && following s then mirrorArrive s f else s
  | 3 => if portIsUp (portAt s p) ∧ (portAt s p).gen = 3 then verdictArrive s p f else s
  | _ => s

/-- Every delivered OPPOSE frame acts, in order. -/
def opposeDrain (s : State) : State :=
  s.fab.oppRx.foldl (fun s f => opposeArrive s f.1 f.2) (updFab s (fun x => { x with oppRx := [] }))

/-- What a port receives, and the OPPOSE frames that it delivers. -/
def received (s : State) (f : State → State) : Host.Outcome State Fault Refusal := done s (fun s => opposeDrain (f s))

def execMessageReceive (p : PortId) (flits : List FabFlit) (s : State) : Host.Outcome State Fault Refusal :=
  received s (fun s => forAll flits s (fun s f => flitArrive s p f))

def execEpochReceive (p : PortId) (rx : LinkRx) (count : W64) (phaseSc : W32) (s : State) : Host.Outcome State Fault Refusal :=
  received s (fun s => controlArrive s p rx 5 0 (count.toNat + phaseSc.toNat * 2 ^ 64) (.epoch count phaseSc.toNat))
def execSnapReceive (p : PortId) (rx : LinkRx) (count : W64) (s : State) : Host.Outcome State Fault Refusal :=
  received s (fun s => controlArrive s p rx 6 0 count.toNat (.snap count))
def execBarrierReceive (p : PortId) (rx : LinkRx) (ctx : CtxId) (release : Bool) (s : State) : Host.Outcome State Fault Refusal :=
  received s (fun s => controlArrive s p rx 7 0 (barPayload ctx release) (.barrier ctx release))
def execDresetReceive (p : PortId) (rx : LinkRx) (s : State) : Host.Outcome State Fault Refusal :=
  received s (fun s => controlArrive s p rx 8 0 0 .dreset)

/-- An older part's answer to a request of this module ends it on its own link layer (R247, R248). -/
def legacyReply (s : State) (p : Nat) (r : ReplyRx) (data : List Byte) : State :=
  let x := portAt s p
  if x.st < 2 ∨ 5 < x.st then s
  else if ownModule s (gaChip r.saddr) then
    match sourceOf s r.saddr r.msgid with
    | some src => answerMsg s src r.msgid r.status data
    | none => s
  else settleOne s ⟨r.saddr, r.msgid, r.status, 0xFF⟩

def execReplyReceive (p : PortId) (rx : LinkRx) (reply : ReplyRx) (data : List Byte) (s : State) : Host.Outcome State Fault Refusal :=
  received s (fun s =>
    if (portAt s p).gen = 3 then
      controlArrive s p rx 9 (BitVec.ofNat 12 (gaChip reply.saddr)) (replyPayload reply.msgid reply.status reply.saddr)
        (.reply reply.saddr reply.msgid reply.status)
    else legacyReply s p reply data)

/-- An OPPOSE flit: taken by the link layer, then by its kind (R242, Table 13.4). -/
def opposeRx (s : State) (p : Nat) (flit : OpposeRx) : Host.Outcome State Fault Refusal :=
  received s (fun s => controlArrive s p flit.rx 0xA 0 flit.frame.toNat (.oppose flit.frame))

def execOpposeSigReceive (p : PortId) (flit : OpposeRx) (s : State) : Host.Outcome State Fault Refusal := opposeRx s p flit
def execOpposeLogReceive (p : PortId) (flit : OpposeRx) (s : State) : Host.Outcome State Fault Refusal := opposeRx s p flit
def execMirrorReceive (p : PortId) (flit : OpposeRx) (s : State) : Host.Outcome State Fault Refusal := opposeRx s p flit
def execVerdictReceive (p : PortId) (flit : OpposeRx) (s : State) : Host.Outcome State Fault Refusal := opposeRx s p flit

end Sys2Proof.Machine
end

