-- ==== Sys2Proof/Machine/Dispatch.lean ====
section
/-! DEFINITION. What each command does: one arm per row of spec/opcode_table.json, each a direct call of its meaning. -/

namespace Sys2Proof.Machine

def exec (i : Instr) (s : State) : Host.Outcome State Fault Refusal :=
  match i with
  | .tempoPulse rclk => Sys2Proof.Machine.execTempoPulse rclk s
  | .tempoPulseMissing => Sys2Proof.Machine.execTempoPulseMissing s
  | .tempoHighTooLong => Sys2Proof.Machine.execTempoHighTooLong s
  | .tempoEdge => Sys2Proof.Machine.execTempoEdge s
  | .commitPoint => Sys2Proof.Machine.execCommitPoint s
  | .periodicMarkerSend => Sys2Proof.Machine.execPeriodicMarkerSend s
  | .overrun => Sys2Proof.Machine.execOverrun s
  | .markerReceive p copy crcOk payload => Sys2Proof.Machine.execMarkerReceive p copy crcOk payload s
  | .stalemateTimeout c => Sys2Proof.Machine.execStalemateTimeout c s
  | .stretchSpacingExpiry => Sys2Proof.Machine.execStretchSpacingExpiry s
  | .tempoResume fn val => Sys2Proof.Machine.execTempoResume fn val s
  | .tempoEnable fn val => Sys2Proof.Machine.execTempoEnable fn val s
  | .variantAnnounce fn val => Sys2Proof.Machine.execVariantAnnounce fn val s
  | .tmpCountLoRead fn => Sys2Proof.Machine.execTmpCountLoRead fn s
  | .tmpSwitchCountLoRead fn => Sys2Proof.Machine.execTmpSwitchCountLoRead fn s
  | .tmpClear fn val => Sys2Proof.Machine.execTmpClear fn val s
  | .nop c st w => Sys2Proof.Machine.execNop c st w s
  | .time c st w => Sys2Proof.Machine.execTime c st w s
  | .boundary c st w silent => Sys2Proof.Machine.execBoundary c st w silent s
  | .firstTempoPrefetch c => Sys2Proof.Machine.execFirstTempoPrefetch c s
  | .sync c st w => Sys2Proof.Machine.execSync c st w s
  | .refill c st w => Sys2Proof.Machine.execRefill c st w s
  | .trd c st w => Sys2Proof.Machine.execTrd c st w s
  | .twr c st w => Sys2Proof.Machine.execTwr c st w s
  | .ldq c st w => Sys2Proof.Machine.execLdq c st w s
  | .stq c st w => Sys2Proof.Machine.execStq c st w s
  | .copy c st w => Sys2Proof.Machine.execCopy c st w s
  | .put c st w => Sys2Proof.Machine.execPut c st w s
  | .get c st w => Sys2Proof.Machine.execGet c st w s
  | .ladd c st w => Sys2Proof.Machine.execLadd c st w s
  | .sput c st w => Sys2Proof.Machine.execSput c st w s
  | .bar c st w => Sys2Proof.Machine.execBar c st w s
  | .win c st w => Sys2Proof.Machine.execWin c st w s
  | .pass c st w => Sys2Proof.Machine.execPass c st w s
  | .passRowResult c e checkDelta => Sys2Proof.Machine.execPassRowResult c e checkDelta s
  | .rampOutStep c e => Sys2Proof.Machine.execRampOutStep c e s
  | .drain c st w => Sys2Proof.Machine.execDrain c st w s
  | .tcfg c st w => Sys2Proof.Machine.execTcfg c st w s
  | .tile c st w => Sys2Proof.Machine.execTile c st w s
  | .ew c st w => Sys2Proof.Machine.execEw c st w s
  | .unitSignal c u => Sys2Proof.Machine.execUnitSignal c u s
  | .mrdl c w => Sys2Proof.Machine.execMrdl c w s
  | .mwrl c w => Sys2Proof.Machine.execMwrl c w s
  | .mclr c w => Sys2Proof.Machine.execMclr c w s
  | .mcrc c w => Sys2Proof.Machine.execMcrc c w s
  | .mtrb c w => Sys2Proof.Machine.execMtrb c w s
  | .mtwb c w => Sys2Proof.Machine.execMtwb c w s
  | .mmap c w => Sys2Proof.Machine.execMmap c w s
  | .msig c w => Sys2Proof.Machine.execMsig c w s
  | .msyn c w => Sys2Proof.Machine.execMsyn c w s
  | .maintInsnComplete c => Sys2Proof.Machine.execMaintInsnComplete c s
  | .storeReread c line secondMatches scheduled => Sys2Proof.Machine.execStoreReread c line secondMatches scheduled s
  | .tierReread c blk secondMatches scheduled => Sys2Proof.Machine.execTierReread c blk secondMatches scheduled s
  | .arrival c => Sys2Proof.Machine.execArrival c s
  | .syncObjectWrite rq c off val => Sys2Proof.Machine.execSyncObjectWrite rq c off val s
  | .coreCntClear rq c val => Sys2Proof.Machine.execCoreCntClear rq c val s
  | .gatherFlush c e => Sys2Proof.Machine.execGatherFlush c e s
  | .gatherIdleTimeout c e => Sys2Proof.Machine.execGatherIdleTimeout c e s
  | .gatherFenceRequest c => Sys2Proof.Machine.execGatherFenceRequest c s
  | .ringWriteResume c r => Sys2Proof.Machine.execRingWriteResume c r s
  | .storeClearDone c => Sys2Proof.Machine.execStoreClearDone c s
  | .boundaryQueueOp c => Sys2Proof.Machine.execBoundaryQueueOp c s
  | .weakEntryExpiry loc => Sys2Proof.Machine.execWeakEntryExpiry loc s
  | .scrubRead loc res => Sys2Proof.Machine.execScrubRead loc res s
  | .sliceSubstitutionAdd native nativeTier sub subTier => Sys2Proof.Machine.execSliceSubstitutionAdd native nativeTier sub subTier s
  | .tirClear fn val => Sys2Proof.Machine.execTirClear fn val s
  | .flitReceive r inp f => Sys2Proof.Machine.execFlitReceive r inp f s
  | .seamResult r seam => Sys2Proof.Machine.execSeamResult r seam s
  | .routerOutputSend r out => Sys2Proof.Machine.execRouterOutputSend r out s
  | .rtrCommit r val => Sys2Proof.Machine.execRtrCommit r val s
  | .rtrClear r val => Sys2Proof.Machine.execRtrClear r val s
  | .paritySweep hits => Sys2Proof.Machine.execParitySweep hits s
  | .portTrainingDone p farGen laneGen => Sys2Proof.Machine.execPortTrainingDone p farGen laneGen s
  | .portGenMaxSet fn val => Sys2Proof.Machine.execPortGenMaxSet fn val s
  | .portEnableSet fn val => Sys2Proof.Machine.execPortEnableSet fn val s
  | .portOppositionSet fn val => Sys2Proof.Machine.execPortOppositionSet fn val s
  | .messageReceive p flits => Sys2Proof.Machine.execMessageReceive p flits s
  | .ackReceive p upTo naks credits => Sys2Proof.Machine.execAckReceive p upTo naks credits s
  | .ackSendTimer p => Sys2Proof.Machine.execAckSendTimer p s
  | .idleSendTimer p => Sys2Proof.Machine.execIdleSendTimer p s
  | .idleFlitReceive p => Sys2Proof.Machine.execIdleFlitReceive p s
  | .portSilenceTimeout p => Sys2Proof.Machine.execPortSilenceTimeout p s
  | .laneLockLoss p => Sys2Proof.Machine.execLaneLockLoss p s
  | .openingStart fn val => Sys2Proof.Machine.execOpeningStart fn val s
  | .identResendTimer p => Sys2Proof.Machine.execIdentResendTimer p s
  | .identReceive p f => Sys2Proof.Machine.execIdentReceive p f s
  | .epochCommand fn val => Sys2Proof.Machine.execEpochCommand fn val s
  | .epochReceive p rx count phaseSc => Sys2Proof.Machine.execEpochReceive p rx count phaseSc s
  | .snapshotArm fn val => Sys2Proof.Machine.execSnapshotArm fn val s
  | .snapReceive p rx count => Sys2Proof.Machine.execSnapReceive p rx count s
  | .barrierReceive p rx ctx release => Sys2Proof.Machine.execBarrierReceive p rx ctx release s
  | .domainResetFlood fn val => Sys2Proof.Machine.execDomainResetFlood fn val s
  | .dresetReceive p rx => Sys2Proof.Machine.execDresetReceive p rx s
  | .domainResetEntry => Sys2Proof.Machine.execDomainResetEntry s
  | .replyReceive p rx reply data => Sys2Proof.Machine.execReplyReceive p rx reply data s
  | .messageTimeout src msgid => Sys2Proof.Machine.execMessageTimeout src msgid s
  | .portEgressSend p => Sys2Proof.Machine.execPortEgressSend p s
  | .legacyRequestReceive p op addr len data => Sys2Proof.Machine.execLegacyRequestReceive p op addr len data s
  | .fabRouteCommit fn val => Sys2Proof.Machine.execFabRouteCommit fn val s
  | .fabClear fn val => Sys2Proof.Machine.execFabClear fn val s
  | .opposeSigReceive p flit => Sys2Proof.Machine.execOpposeSigReceive p flit s
  | .opposeLogReceive p flit => Sys2Proof.Machine.execOpposeLogReceive p flit s
  | .mirrorReceive p flit => Sys2Proof.Machine.execMirrorReceive p flit s
  | .verdictReceive p flit => Sys2Proof.Machine.execVerdictReceive p flit s
  | .admission fn q hdr body => Sys2Proof.Machine.execAdmission fn q hdr body s
  | .cancel fn q hdr body => Sys2Proof.Machine.execCancel fn q hdr body s
  | .patchLoad fn q hdr body => Sys2Proof.Machine.execPatchLoad fn q hdr body s
  | .patchDrop fn q hdr body => Sys2Proof.Machine.execPatchDrop fn q hdr body s
  | .patchImageVerified slot dmaOk => Sys2Proof.Machine.execPatchImageVerified slot dmaOk s
  | .promptReadComplete l dmaOk => Sys2Proof.Machine.execPromptReadComplete l dmaOk s
  | .selectionLaneStart ctx entry => Sys2Proof.Machine.execSelectionLaneStart ctx entry s
  | .selectionLaneDone ctx entry => Sys2Proof.Machine.execSelectionLaneDone ctx entry s
  | .groupDecision g twinDiffers => Sys2Proof.Machine.execGroupDecision g twinDiffers s
  | .tokenDoorbell fn off size val => Sys2Proof.Machine.execTokenDoorbell fn off size val s
  | .shuttleOfferReceive chip job ident kvfmt kvlen => Sys2Proof.Machine.execShuttleOfferReceive chip job ident kvfmt kvlen s
  | .shuttleGrantReceive chip job ident addrs => Sys2Proof.Machine.execShuttleGrantReceive chip job ident addrs s
  | .shuttleStateRecordReceive chip job ident record puts => Sys2Proof.Machine.execShuttleStateRecordReceive chip job ident record puts s
  | .shuttleAckReceive chip job ident status => Sys2Proof.Machine.execShuttleAckReceive chip job ident status s
  | .shuttleTimeout l => Sys2Proof.Machine.execShuttleTimeout l s
  | .srvGroupsWrite fn val => Sys2Proof.Machine.execSrvGroupsWrite fn val s
  | .srvClear fn val => Sys2Proof.Machine.execSrvClear fn val s
  | .hostNop fn q hdr body => Sys2Proof.Machine.execHostNop fn q hdr body s
  | .wload fn q hdr body => Sys2Proof.Machine.execWload fn q hdr body s
  | .wloadStart id => Sys2Proof.Machine.execWloadStart id s
  | .loadVerifyComplete id dmaOk => Sys2Proof.Machine.execLoadVerifyComplete id dmaOk s
  | .rdout fn q hdr body => Sys2Proof.Machine.execRdout fn q hdr body s
  | .hostcopy fn q hdr body => Sys2Proof.Machine.execHostcopy fn q hdr body s
  | .hostCopyExpiry tag => Sys2Proof.Machine.execHostCopyExpiry tag s
  | .boltLoad fn q hdr body => Sys2Proof.Machine.execBoltLoad fn q hdr body s
  | .run fn q hdr body => Sys2Proof.Machine.execRun fn q hdr body s
  | .stop fn q hdr body => Sys2Proof.Machine.execStop fn q hdr body s
  | .sqTailDoorbell fn q off size val => Sys2Proof.Machine.execSqTailDoorbell fn q off size val s
  | .cqHeadDoorbell fn q off size val => Sys2Proof.Machine.execCqHeadDoorbell fn q off size val s
  | .eventHeadDoorbell fn off size val => Sys2Proof.Machine.execEventHeadDoorbell fn off size val s
  | .msixSend fn vec => Sys2Proof.Machine.execMsixSend fn vec s
  | .contextBind fn val => Sys2Proof.Machine.execContextBind fn val s
  | .partitionWrite fn val => Sys2Proof.Machine.execPartitionWrite fn val s
  | .forceStop fn val => Sys2Proof.Machine.execForceStop fn val s
  | .queueEnable fn q val => Sys2Proof.Machine.execQueueEnable fn q val s
  | .hqClear fn val => Sys2Proof.Machine.execHqClear fn val s
  | .traceModeRequest fn val => Sys2Proof.Machine.execTraceModeRequest fn val s
  | .functionLevelReset fn => Sys2Proof.Machine.execFunctionLevelReset fn s
  | .pcieLinkDown p => Sys2Proof.Machine.execPcieLinkDown p s
  | .pcieHotReset p => Sys2Proof.Machine.execPcieHotReset p s
  | .perstAssert p => Sys2Proof.Machine.execPerstAssert p s
  | .perstDeassert p => Sys2Proof.Machine.execPerstDeassert p s
  | .serviceLoad k addr size ecc => Sys2Proof.Machine.execServiceLoad k addr size ecc s
  | .serviceStore k addr size data ecc => Sys2Proof.Machine.execServiceStore k addr size data ecc s
  | .serviceMessageSubmit slot => Sys2Proof.Machine.execServiceMessageSubmit slot s
  | .faultReportHandling => Sys2Proof.Machine.execFaultReportHandling s
  | .selfTestVisit c latentFault => Sys2Proof.Machine.execSelfTestVisit c latentFault s
  | .oppositionEnable fn val peer => Sys2Proof.Machine.execOppositionEnable fn val peer s
  | .safOppFirstRead fn => Sys2Proof.Machine.execSafOppFirstRead fn s
  | .choiceRingEnable fn val => Sys2Proof.Machine.execChoiceRingEnable fn val s
  | .safClear fn val => Sys2Proof.Machine.execSafClear fn val s
  | .fwDeliver fn cmd => Sys2Proof.Machine.execFwDeliver fn cmd s
  | .fwVerifyComplete dmaOk => Sys2Proof.Machine.execFwVerifyComplete dmaOk s
  | .keySet fn cmd dmaOk => Sys2Proof.Machine.execKeySet fn cmd dmaOk s
  | .keyClear fn cmd => Sys2Proof.Machine.execKeyClear fn cmd s
  | .keyLock fn cmd => Sys2Proof.Machine.execKeyLock fn cmd s
  | .cardRead fn cmd dmaOk => Sys2Proof.Machine.execCardRead fn cmd dmaOk s
  | .fwFloorWrite fn val => Sys2Proof.Machine.execFwFloorWrite fn val s
  | .getVersion p req => Sys2Proof.Machine.execGetVersion p req s
  | .getCapabilities p req => Sys2Proof.Machine.execGetCapabilities p req s
  | .negotiateAlgorithms p req => Sys2Proof.Machine.execNegotiateAlgorithms p req s
  | .getDigests p req => Sys2Proof.Machine.execGetDigests p req s
  | .getCertificate p req => Sys2Proof.Machine.execGetCertificate p req s
  | .challenge p req => Sys2Proof.Machine.execChallenge p req s
  | .getMeasurements p req => Sys2Proof.Machine.execGetMeasurements p req s
  | .clusterClearStart k => Sys2Proof.Machine.execClusterClearStart k s
  | .clusterClearDone k => Sys2Proof.Machine.execClusterClearDone k s
  | .clearWriteTimeout k => Sys2Proof.Machine.execClearWriteTimeout k s
  | .powerUp => Sys2Proof.Machine.execPowerUp s
  | .powerDown => Sys2Proof.Machine.execPowerDown s
  | .resetRelease b => Sys2Proof.Machine.execResetRelease b s
  | .vinUndervoltage => Sys2Proof.Machine.execVinUndervoltage s
  | .vinOvervoltage => Sys2Proof.Machine.execVinOvervoltage s
  | .rclkLoss => Sys2Proof.Machine.execRclkLoss s
  | .modRstAssert => Sys2Proof.Machine.execModRstAssert s
  | .modRstDeassert => Sys2Proof.Machine.execModRstDeassert s
  | .stewardReset fn val => Sys2Proof.Machine.execStewardReset fn val s
  | .sensorSample k temp power => Sys2Proof.Machine.execSensorSample k temp power s
  | .clusterWakeStart k => Sys2Proof.Machine.execClusterWakeStart k s
  | .clusterWakeReady k => Sys2Proof.Machine.execClusterWakeReady k s
  | .wakeTimerArm fn val => Sys2Proof.Machine.execWakeTimerArm fn val s
  | .wakeTimerFire ctx => Sys2Proof.Machine.execWakeTimerFire ctx s
  | .portIdleTimeout p => Sys2Proof.Machine.execPortIdleTimeout p s
  | .portWake p => Sys2Proof.Machine.execPortWake p s
  | .pwrClear fn val => Sys2Proof.Machine.execPwrClear fn val s
  | .registerWrite rq sp val => Sys2Proof.Machine.execRegisterWrite rq sp val s
  | .latentLate => Sys2Proof.Machine.execLatentLate s
  | .pcieLinkUp p speed flit width => Sys2Proof.Machine.execPcieLinkUp p speed flit width s
  | .vinWarning mv => Sys2Proof.Machine.execVinWarning mv s

end Sys2Proof.Machine
end

