-- ==== Sys2Proof/Machine/Tick.lean ====
section
/-! DEFINITION. What passes on an empty queue: one ac (assumption log 2). -/

namespace Sys2Proof.Machine

/-- The tick, and what it completes. -/
def tick (s : State) : State := whenLive s (fun s => settle (tickAc s))

end Sys2Proof.Machine
end

