-- ==== Sys2Proof/Safety.lean ====
section
/-! DEFINITION. What the statements rest on: when the output pins are right, when nothing is outstanding so that a command's effect is all
that happens, what a module reset leaves, and what a fault leaves alone. -/

namespace Sys2Proof.Machine

/-- The output pins show what Table 15.3 and R423 ask of them. -/
def Driven (s : State) : Prop :=
  s.pwr.powerGood = goodLevel s ∧ s.pwr.faultN = faultLevel s ∧ s.pwr.thermAlertN = alertLevel s

/-- Nothing is left to settle: no status is owed, no ended message waits to be acted on, and no message waits to start. -/
def Quiet (s : State) : Prop := s.fab.due = [] ∧ s.fab.ended = [] ∧ ∀ m ∈ s.fab.msgs, m.started = true

/-- The commands of the supply, the reset pins and the pins of the PCIe ports, which act whatever the phase of the module is. -/
def actsInReset : Instr → Bool
  | .rclkLoss | .modRstAssert | .modRstDeassert | .powerUp | .powerDown | .vinUndervoltage | .vinOvervoltage | .resetRelease _
  | .perstAssert _ | .perstDeassert _ | .sensorSample _ _ _ => true
  | _ => false

/-- The commands that are register writes of the steward PF alone, with the function that writes (R77, R338, R435). -/
def stewardWrite : Instr → Option FnId
  | .tempoResume f _ | .tempoEnable f _ | .variantAnnounce f _ | .tmpClear f _ | .tirClear f _ | .portGenMaxSet f _ | .portEnableSet f _
  | .portOppositionSet f _ | .openingStart f _ | .epochCommand f _ | .snapshotArm f _ | .domainResetFlood f _ | .fabRouteCommit f _
  | .fabClear f _ | .srvGroupsWrite f _ | .contextBind f _ | .partitionWrite f _ | .forceStop f _ | .traceModeRequest f _
  | .oppositionEnable f _ _ | .choiceRingEnable f _ | .safClear f _ | .stewardReset f _ | .pwrClear f _ => some f
  | _ => none

/-- `t` is the machine right after a module reset of `s` by the source of bit `causeBit` of PWR_RESET_CAUSE (R421, Table 15.5): the work,
the stores, the sync objects and the registers are at reset, the tiers, host memory, the card's EEPROM and the waiting commands are kept. -/
structure AfterModuleReset (s t : State) (causeBit : Nat) : Prop where
  phase : t.pwr.phase = .inReset
  cause : t.pwr.cause = orBit s.pwr.cause causeBit
  tiers : t.tiers = { State.reset.tiers with
    mem := s.tiers.mem, house := s.tiers.house, crc := s.tiers.crc, remap := s.tiers.house.remap, subs := s.tiers.house.subs
    fence := s.tiers.house.fence, standby := s.tiers.standby, spare := s.tiers.spare, retired := s.tiers.retired }
  work : t.cores = [] ∧ t.ctxs = [] ∧ t.fns = [] ∧ t.cmds = [] ∧ t.routers = [] ∧ t.hubs = []
  blocks : t.tmp = {} ∧ t.lock = {} ∧ t.fab = {} ∧ t.srv = {} ∧ t.saf = {} ∧ t.bsc = {} ∧ t.svc = {} ∧ t.glb = {} ∧ t.card = {}
  kept : t.pending = s.pending ∧ t.now = s.now ∧ t.eeprom = s.eeprom ∧ t.hostA = s.hostA ∧ t.hostB = s.hostB ∧ t.freeCtr = s.freeCtr
  pins : Driven t

/-- The parts of the machine that raising a fault, posting an event and entering tempo lost do not reach. -/
structure Spared (s t : State) : Prop where
  pending : t.pending = s.pending
  card : t.card = s.card
  lock : t.lock = s.lock
  hubs : t.hubs = s.hubs
  cores : t.cores = s.cores
  tiers : t.tiers = s.tiers
  routers : t.routers = s.routers
  srv : t.srv = s.srv
  cmds : t.cmds = s.cmds
  bsc : t.bsc = s.bsc
  svc : t.svc = s.svc
  msgs : t.fab.msgs = s.fab.msgs

/-- `t` is `s` after a fault of code `code` that leads to tempo lost with cause bit `cause` of TMP_STATUS (R45, R367, Table 2.9): TEMPO_LOST
and the cause are set and a pending resume is void; the fault is reported; the worked tempos it is attributed to are marked withheld for
every context that may have run them; and the rest of the machine is spared. -/
structure TempoLost (s t : State) (cause code : Nat) : Prop where
  lost : t.tmp.lost = true ∧ t.tmp.resumeAt = none
  bits : bit t.tmp.status 11 = true ∧ bit t.tmp.status cause = true
  report : ∃ e : FlogEnt, t.saf.reports = s.saf.reports ++ [e] ∧ e.code = BitVec.ofNat 8 code ∧ e.valid = true
  withheld : ∀ k ∈ moduleScope s, ∀ n ∈ ctxCounts s k (attributed s), ∃ m ∈ (ctxAt t k).marks, m.1 = n
  spared : Spared s t

/-- A pulse `rclk` RCLK cycles after the last one comes within its window (R44). -/
def inWindow (s : State) (rclk : Nat) : Bool := !s.tmp.expect || (decide (periodRclk s ≤ rclk + 1) && decide (rclk ≤ periodRclk s + 1))

/-- The time of that pulse. -/
def pulseTime (s : State) (rclk : Nat) : Nat :=
  (if s.tmp.pulseSeen then s.tmp.pulseAt else s.now) + rclk * Config.scPerRclk * Config.unitsPerSc

/-- The machine follows pulses with a tempo count, and no epoch alignment is in progress (R46, R275). -/
def countsPulses (s : State) : Bool :=
  live s && bit s.tmp.ctrl 0 && s.tmp.haveCount && !s.fab.epochDue && s.fab.epochKept.isNone && s.tmp.keptMarker.isNone

/-- `w` is a machine that has begun the worked tempo of its count as `v` came to it: the work counts its pulses from nothing, with no hold,
no overrun sent, no deviation noted and no stretch loss (R43, R49, R50, R60). -/
structure Begun (v w : State) : Prop where
  working : w.tmp.working = true ∧ w.tmp.t = v.tmp.count ∧ w.tmp.count = v.tmp.count
  fresh : w.tmp.pulses = 0 ∧ w.tmp.held = false ∧ w.tmp.overrunSent = false ∧ w.tmp.devs = []
  lock : w.lock.gated = false

/-- The stream instructions of Table 4.7: core, stream, word, opcode, and what the word needs and does. PUT carries LADD, SPUT and BAR in
its descriptor. A BOUNDARY's checkers all answer here. -/
def streamCmd : Instr → Option (CoreId × Stream × W128 × Nat × (State → Nat → Plan))
  | .nop c st w => some (c, st, w, 0x00, nopPlan c st w)
  | .time c st w => some (c, st, w, 0x01, timePlan c st w)
  | .boundary c st w none => some (c, st, w, 0x02, boundaryPlan c st w)
  | .sync c st w => some (c, st, w, 0x03, syncPlan c st w)
  | .refill c st w => some (c, st, w, 0x10, refillPlan c st w)
  | .trd c st w => some (c, st, w, 0x11, trdPlan c st w)
  | .twr c st w => some (c, st, w, 0x12, twrPlan c st w)
  | .ldq c st w => some (c, st, w, 0x13, ldqPlan c st w)
  | .stq c st w => some (c, st, w, 0x14, stqPlan c st w)
  | .copy c st w => some (c, st, w, 0x15, copyPlan c st w)
  | .put c st w | .ladd c st w | .sput c st w | .bar c st w => some (c, st, w, 0x18, transferPlan false c st w)
  | .get c st w => some (c, st, w, 0x19, transferPlan true c st w)
  | .win c st w => some (c, st, w, 0x20, winPlan c st w)
  | .pass c st w => some (c, st, w, 0x21, passPlan c st w)
  | .drain c st w => some (c, st, w, 0x22, drainPlan c st w)
  | .tcfg c st w => some (c, st, w, 0x23, tcfgPlan c st w)
  | .tile c st w => some (c, st, w, 0x24, tilePlan c st w)
  | .ew c st w => some (c, st, w, 0x30, ewPlan c st w)
  | _ => none

/-- A stream of a working core has a word to issue at schedule time `t`. -/
def AtIssue (s : State) (c : CoreId) (st : Stream) (t : Nat) : Prop :=
  live s = true ∧ enabledCore s c = true ∧ (coreAt s c).maint = false ∧ streamRuns (coreAt s c) st = true ∧ t = (streamOf (coreAt s c) st).sched

/-- The instructions of the maintenance port with rows of their own (Table 4.22): core, word, opcode, and what they do. -/
def maintCmd : Instr → Option (CoreId × W128 × Nat × (State → State))
  | .mrdl c w => some (c, w, 0xE0, mrdlOp c w)
  | .mwrl c w => some (c, w, 0xE1, mwrlOp c w)
  | .mclr c w => some (c, w, 0xE2, mclrOp c w)
  | .mcrc c w => some (c, w, 0xE3, mcrcOp c w)
  | .mtrb c w => some (c, w, 0xE4, mtrbOp c w)
  | .mtwb c w => some (c, w, 0xE5, mtwbOp c w)
  | .mmap c w => some (c, w, 0xE6, mmapOp c w)
  | .msig c w => some (c, w, 0xE7, msigOp c w)
  | .msyn c w => some (c, w, 0xE8, msynOp c w)
  | _ => none

/-- A core in maintenance mode whose port is free (R345, R346). -/
def AtPort (s : State) (c : CoreId) : Prop :=
  live s = true ∧ enabledCore s c = true ∧ (coreAt s c).maint = true ∧ (coreAt s c).mnext = none ∧ (coreAt s c).clearing = false

/-- The CRC-32 of a sequenced control flit covers its type, sequence number, destination and payload (R241). -/
def controlGood (rx : LinkRx) (typ : BitVec 4) (dest : BitVec 12) (payload : Nat) : Bool :=
  decide (linkCrc typ rx.seq dest 0 (BitVec.ofNat 2048 payload) = rx.crc)

/-- The commands that are one sequenced flit of a port (Table 9.3): port, link sequence number, whether the CRC holds, and what it carries. -/
def linkCmd : Instr → Option (PortId × BitVec 12 × Bool × RxItem)
  | .messageReceive p [f] => if f.typ = 0 then some (p, f.seq, flitGood f, .data f) else none
  | .epochReceive p rx count phase =>
    some (p, rx.seq, controlGood rx 5 0 (count.toNat + phase.toNat * 2 ^ 64), .epoch count phase.toNat)
  | .snapReceive p rx count => some (p, rx.seq, controlGood rx 6 0 count.toNat, .snap count)
  | .barrierReceive p rx ctx release => some (p, rx.seq, controlGood rx 7 0 (barPayload ctx release), .barrier ctx release)
  | .dresetReceive p rx => some (p, rx.seq, controlGood rx 8 0 0, .dreset)
  | .opposeSigReceive p flit | .opposeLogReceive p flit | .mirrorReceive p flit | .verdictReceive p flit =>
    some (p, flit.rx.seq, controlGood flit.rx 0xA 0 flit.frame.toNat, .oppose flit.frame)
  | _ => none

/-- A port that has trained and carries frames (R240, R246). -/
def trained (x : Port) : Prop := 2 ≤ x.st ∧ x.st ≤ 5

/-- A port takes a control flit as the next one in sequence, and nothing but its delivery follows: the port carries HL3 and holds nothing in its
reorder buffer, the flit makes no ACK due, and no OPPOSE frame is left undelivered (R243). -/
def TakesNext (s : State) (p : PortId) (seq : BitVec 12) : Prop :=
  trained (portAt s p) ∧ (portAt s p).gen = 3 ∧ seq = (portAt s p).rxSeq ∧ (portAt s p).reorder = [] ∧ (portAt s p).unacked < 63 ∧ s.fab.oppRx = []

/-- The machine when its port has taken that flit (R243). -/
def flitTaken (s : State) (p : PortId) : State :=
  setPort s p { portAt s p with rxSeq := (portAt s p).rxSeq + 1, unacked := (portAt s p).unacked + 1 }

/-- The commands of a submission ring (Table 11.6): function, ring, header, opcode, whether the body keeps its rules, and what the accepted
command does under its number. -/
def ringCmd : Instr → Option (FnId × Fin 4 × BitVec 512 × Nat × Bool × (State → Nat → State))
  | .hostNop fn q hdr body => some (fn, q, hdr, 0x00, bodyEnds body 0, fun s id => finishCmd s id 0 0 0)
  | .admission fn q hdr body => some (fn, q, hdr, 0x01, admitBodyOk body, fun s id =>
      forCtx s id (fnCtx s fn) 0x10 stRunning (fun s k => admitRun s body id k))
  | .cancel fn q hdr body => some (fn, q, hdr, 0x02, bodyEnds body 8, fun s id =>
      forCtx s id (fnCtx s fn) 0x10 stRunning (fun s k => forServing s id k true (fun s =>
        updSrv (updCmd s id (fun c => { c with kind := .cancel (BitVec.ofNat 64 (bits body 0 64)) })) (fun x => { x with cancels := x.cancels ++ [id] }))))
  | .patchLoad fn q hdr body => some (fn, q, hdr, 0x03, patchBodyOk body, fun s id =>
      forCtx s id (fnCtx s fn) 0x10 stLoadRun (fun s k => forServing s id k false (fun s => patchLoadRun s body id k)))
  | .patchDrop fn q hdr body => some (fn, q, hdr, 0x04, bodyEnds body 2 && decide (bits body 0 16 ≠ 0xFFFF), fun s id =>
      forCtx s id (fnCtx s fn) 0x10 stLoadRun (fun s k => forServing s id k false (fun s => patchDropRun s body id k)))
  | .wload fn q hdr body => some (fn, q, hdr, 0x08, wlBodyOk body, fun s id =>
      forCtx s id (loadTarget s fn (wlCore body)) (noTarget s fn) stBound (fun s k => wloadRun s body id k))
  | .rdout fn q hdr body => some (fn, q, hdr, 0x09, rdBodyOk body, fun s id =>
      forCtx s id (loadTarget s fn (rdCore body)) (noTarget s fn) stBound (fun s k => rdoutRun s body fn id k))
  | .hostcopy fn q hdr body => some (fn, q, hdr, 0x0A, decide (bits body 16 48 = 0) && bodyEnds body 16 && aligned (bits body 64 64) 64,
      fun s id => hostcopyRun s body fn id)
  | .boltLoad fn q hdr body => some (fn, q, hdr, 0x10, blBodyOk body, fun s id =>
      forCtx s id (fnCtx s fn) 0x10 stBoltLoad (fun s k => boltRun s body id k))
  | .run fn q hdr body => some (fn, q, hdr, 0x11, bodyEnds body 8, fun s id =>
      forCtx s id (fnCtx s fn) 0x10 stLoaded (fun s k => runRun s body id k))
  | .stop fn q hdr body => some (fn, q, hdr, 0x12, bodyEnds body 8, fun s id =>
      forCtx s id (fnCtx s fn) 0x10 stRunning (fun s k => stopRun s body id k))
  | _ => none

/-- The commands of the mailbox (Table 14.7): function, BSC_CMD word, OP, whether its host DMA succeeds, and what it does. -/
def mailCmd : Instr → Option (FnId × W32 × Nat × (State → State))
  | .fwDeliver f cmd => some (f, cmd, 1, fun s => mbFwDeliver s f)
  | .keySet f cmd ok => some (f, cmd, 2, fun s => mbKeySet s f cmd ok)
  | .keyClear f cmd => some (f, cmd, 3, fun s => mbKeyClear s f cmd)
  | .keyLock f cmd => some (f, cmd, 4, fun s => mbKeyLock s f cmd)
  | .cardRead f cmd ok => some (f, cmd, 5, fun s => mbCardRead s f ok)
  | _ => none

/-- The requests of attestation (R406): PF, request, SPDM version, request code, bytes at least, and the earliest step of the connection. -/
def spdmCmd : Instr → Option (PciePort × List Byte × Nat × Nat × Nat × Nat)
  | .getVersion p r => some (p, r, 0x10, 0x84, 4, 0)
  | .getCapabilities p r => some (p, r, 0x12, 0xE1, 20, 1)
  | .negotiateAlgorithms p r => some (p, r, 0x12, 0xE3, 32, 2)
  | .getDigests p r => some (p, r, 0x12, 0x81, 4, 3)
  | .getCertificate p r => some (p, r, 0x12, 0x82, 8, 3)
  | .challenge p r => some (p, r, 0x12, 0x83, 36, 3)
  | .getMeasurements p r => some (p, r, 0x12, 0xE0, if (r.getD 2 0).toNat % 2 = 1 then 37 else 4, 3)
  | _ => none

end Sys2Proof.Machine
end

