-- ==== Sys2Proof/Certificates/Slice0/Obligations.lean ====
section
/-! DEFINITION. The statements for the provers. -/

open Sys2Proof Sys2Proof.Machine

/-! ### The machine as a whole -/

/-- A step runs the command at the front of the queue on the rest of the queue; an empty queue ticks.
(Model's choices: log 2, 11.) -/
def Obligations.StepRunsTheFrontCommand : Prop :=
  (∀ (s : State) (c : Instr) (rest : List Instr), s.pending = c :: rest → step s = exec c { s with pending := rest }) ∧
  (∀ s : State, s.pending = [] → step s = .next (tick s))

/-- Every step keeps the output pins driven as Table 15.3 and R423 ask.
(Model's choices: log 52.) -/
def Obligations.EveryStepKeepsThePinsDriven : Prop :=
  ∀ s t : State, Driven s → step s = .next t → Driven t

/-- The state after reset: in module reset with the supply held, no command waiting, no context, no tempo count, the registers named here
at their Reset columns (R17, Tables 2.9, 6.9, 13.6, 15.11), and the pins driven.
(Model's choices: log 1.) -/
def Obligations.ResetIsModuleReset : Prop :=
  State.reset.pwr.phase = .inReset ∧ State.reset.pending = [] ∧ State.reset.pwr.cause = 1 ∧ State.reset.tmp.period = 0x270F ∧
  State.reset.tmp.status = 0 ∧ State.reset.saf.ctrl = 3 ∧ State.reset.saf.persist = 8 ∧ State.reset.tiers.ctrl = 7 ∧
  State.reset.tiers.scrubPeriod = 0x708 ∧ State.reset.pwr.cap = 0x384 ∧ State.reset.pwr.tempCfg = 0x5F05 ∧
  (∀ k : CtxId, (ctxAt State.reset k).st = .unbound) ∧ keepsCount State.reset = false ∧ Driven State.reset

/-- A step takes the command at the front of the queue and puts none into it, and time does not run back.
(Model's choices: log 2, 11.) -/
def Obligations.AStepTakesOneCommand : Prop :=
  ∀ s t : State, step s = .next t → t.pending = s.pending.tail ∧ s.now ≤ t.now

/-- Every command completes in every state: none faults, none is refused. -/
def Obligations.EveryCommandCompletes : Prop :=
  ∀ (c : Instr) (s : State), ∃ t, exec c s = .next t

/-- In reset and without power a command other than those of the supply, the reset pins and the PERST pins changes nothing (R420, R421,
R423). -/
def Obligations.InResetOnlyPinsAct : Prop :=
  ∀ (c : Instr) (s : State), live s = false → actsInReset c = false → exec c s = .next s

/-- A register write that only the steward PF may make changes nothing when another function makes it (R77, R338). -/
def Obligations.OtherFunctionsWritesAreIgnored : Prop :=
  ∀ (c : Instr) (f : FnId) (s : State), stewardWrite c = some f → isSteward s f = false → Quiet s →
    exec c s = .next (if live s then answer s s else s)

/-- The memories that the manual gives the block (core stores, tiers, service memory, host memory, the EEPROM) all have one form, which every
write keeps: addresses strictly rising, no byte listed that reads as an unlisted one. A byte reads as last written, little-endian (R11), and
every other byte as before; and equal contents are equal memories.
(Model's choices: log 5.) -/
def Obligations.MemoryKeepsItsFormAndReadsBack : Prop :=
  ∀ (m : Mem), Mem.wf m →
    ((∀ (a : Nat) (bs : List Byte), Mem.wf (writeBytes m a bs)) ∧ (∀ a n v : Nat, Mem.wf (writeLe m a n v)) ∧
      (∀ lo hi : Nat, Mem.wf (zeroBytes m lo hi)) ∧ Mem.wf State.reset.tiers.mem) ∧
    (∀ a n v : Nat, readLe (writeLe m a n v) a n = v % 256 ^ n ∧
      (∀ i : Nat, i < a ∨ a + n ≤ i → readByte (writeLe m a n v) i = readByte m i)) ∧
    (∀ m' : Mem, Mem.wf m' → (∀ i : Nat, readByte m' i = readByte m i) → m' = m)

/-! ### Numbering and arithmetic -/

/-- Mesh positions (R22): core 12 y + x lies at (x, y), x from 0 to 11 and y from 0 to 5, and its north, east, south and west neighbours lie at
(x, y+1), (x+1, y), (x, y−1) and (x−1, y). -/
def Obligations.CoresLieInTheMesh : Prop :=
  ∀ c : CoreId,
    coreX c < 12 ∧ coreY c < 6 ∧ c.val = 12 * coreY c + coreX c ∧
    neighbourOf c 0 = (if coreY c < 5 then some (12 * (coreY c + 1) + coreX c) else none) ∧
    neighbourOf c 1 = (if coreX c < 11 then some (12 * coreY c + (coreX c + 1)) else none) ∧
    neighbourOf c 2 = (if 0 < coreY c then some (12 * (coreY c - 1) + coreX c) else none) ∧
    neighbourOf c 3 = (if 0 < coreX c then some (12 * coreY c + (coreX c - 1)) else none)

/-- Clusters (R23): they are numbered 0 to 17; cluster 6 (y div 2) + (x div 2) holds the four cores that share x div 2 and y div 2; cluster 0
holds cores 0, 1, 12 and 13, and cluster 17 holds cores 58, 59, 70 and 71. -/
def Obligations.ClustersHoldFourCores : Prop :=
  (∀ c : CoreId,
    clusterOf c = 6 * (coreY c / 2) + coreX c / 2 ∧ clusterOf c < 18 ∧ (clusterCores (clusterOf c)).length = 4 ∧
    (∀ e : CoreId, e.val ∈ clusterCores (clusterOf c) ↔ coreX e / 2 = coreX c / 2 ∧ coreY e / 2 = coreY c / 2)) ∧
  clusterCores 0 = [0, 1, 12, 13] ∧ clusterCores 17 = [58, 59, 70, 71]

/-- Logical core numbers run from 0 to N − 1 in ascending order of physical core ID over the enabled-core map (R24). -/
def Obligations.LogicalNumbersAscend : Prop :=
  ∀ s : State,
    (∀ c : Nat, enabledCore s c = true → logicalOf s c < coreCount s ∧ physicalOf s (logicalOf s c) = some c) ∧
    (∀ n : Nat, n < coreCount s → ∃ c, physicalOf s n = some c ∧ enabledCore s c = true ∧ logicalOf s c = n) ∧
    (∀ c d : Nat, enabledCore s c = true → enabledCore s d = true → (c < d ↔ logicalOf s c < logicalOf s d))

/-- A product is rounded once, to the nearest multiple of 2^B with ties to the even multiple (R89): n / 2^k rounds to the integer q that
is nearest, and of two equally near to the even one. -/
def Obligations.ProductsRoundToNearestEven : Prop :=
  ∀ (n : Int) (k : Nat),
    2 * (n - rhe n k * 2 ^ k) ≤ 2 ^ k ∧ -(2 ^ k) ≤ 2 * (n - rhe n k * 2 ^ k) ∧
    ((2 * (n - rhe n k * 2 ^ k) = 2 ^ k ∨ 2 * (n - rhe n k * 2 ^ k) = -(2 ^ k)) → 1 ≤ k → rhe n k % 2 = 0)

/-! ### Supply, reset, sensors and idle states -/

/-- The sources of a module reset beside power-up (R421, Table 15.5): RCLK loss, MOD_RST_N, the steward, a domain reset, and a thermal
trip, which is a sensor at its trip level for 10 µs, its last sample and this one; a trip stays in force.
(Model's choices: log 43, 49, 56.) -/
def Obligations.ModuleResetSources : Prop :=
  (∀ s : State, s.pwr.phase ≠ .off → ∃ t, exec .rclkLoss s = .next t ∧ AfterModuleReset s t 3) ∧
  (∀ s : State, s.pwr.phase ≠ .off → ∃ t, exec .modRstAssert s = .next t ∧ AfterModuleReset s t 1 ∧ t.pwr.modRstLow = true) ∧
  (∀ (s : State) (fn : FnId) (val : W32), live s = true → isSteward s fn = true → bit val 0 = true →
    ∃ t, exec (.stewardReset fn val) s = .next t ∧ AfterModuleReset s t 5) ∧
  (∀ s : State, live s = true → s.fab.dresetDue = true → ∃ t, exec .domainResetEntry s = .next t ∧ AfterModuleReset s t 2) ∧
  (∀ (s : State) (k : Fin 26) (temp : BitVec 16) (power : BitVec 12), live s = true → bit s.pwr.hot k = true → tripLevel k ≤ temp.toInt →
    ∃ t, exec (.sensorSample k temp power) s = .next t ∧ AfterModuleReset s t 4 ∧ t.pwr.tripped = true)

/-- VIN and PWR_EN (R416): under- and overvoltage shut the module down, its tiers lost; no command but PWR_EN's fall frees it to power up
again, whatever VIN does; after that fall PWR_EN's rise powers it up; and in the warning bands the module runs and sets VIN_LOW or
VIN_HIGH. -/
def Obligations.SupplyFollowsVinAndPwrEn : Prop :=
  (∀ (s : State) (c : Instr), c = .vinUndervoltage ∨ c = .vinOvervoltage → s.pwr.phase ≠ .off →
    ∃ t, exec c s = .next t ∧ t.pwr.phase = .off ∧ t.tiers = {} ∧ t.pwr.lockedOff = true) ∧
  (∀ (s t : State) (c : Instr), s.pwr.phase = .off → s.pwr.lockedOff = true → c ≠ .powerDown → exec c s = .next t →
    t.pwr.phase = .off ∧ t.pwr.lockedOff = true) ∧
  (∀ s : State, ∃ t, exec .powerDown s = .next t ∧ t.pwr.phase = .off ∧ t.pwr.lockedOff = false ∧ t.tiers = {}) ∧
  (∀ s : State, s.pwr.phase = .off → s.pwr.lockedOff = false →
    ∃ t, exec .powerUp s = .next t ∧ t.pwr.phase = .inReset ∧ t.tiers = {} ∧ t.pwr.cause = 1 ∧ t.pwr.powerGood = true) ∧
  (∀ (s : State) (mv : W16), live s = true →
    exec (.vinWarning mv) s = .next (answer s { s with pwr := { s.pwr with
      vin := mv
      status := if 46000 ≤ mv.toNat ∧ mv.toNat < 48000 then orBit s.pwr.status 2
        else if 60000 < mv.toNat ∧ mv.toNat ≤ 63000 then orBit s.pwr.status 1 else s.pwr.status } }))

/-- Reset release (R393 to R397, R421, Table 15.5): MOD_RST_N's rise ends a trip only once every sampled sensor is 20 °C below its trip
level; with MOD_RST_N high and no trip in force the module leaves reset with the part card's fields, the firmware floor at FW_SVN_MIN
and the core's visits owed, unconfigured unless the card is valid; otherwise it stays in reset.
(Model's choices: log 1, 27, 49.) -/
def Obligations.ResetReleaseStartsTheModule : Prop :=
  (∀ s : State, exec .modRstDeassert s = .next (answer s { s with pwr := { s.pwr with
    modRstLow := false, tripped := s.pwr.tripped && !(s.pwr.modRstLow && cooled s) } })) ∧
  (∀ (s : State) (b : BootInputs), s.pwr.phase = .inReset → s.pwr.modRstLow = false → s.pwr.tripped = false →
    ∃ t, exec (.resetRelease b) s = .next t ∧ live t = true ∧ t.card = cardFields s.eeprom (cardState s.eeprom b) ∧
      t.bsc.fwFloor = t.card.svnMin ∧ t.glb.unconfigured = !(decide (cardState s.eeprom b = 0)) ∧ t.glb.stewardB = b.stewardSelB ∧
      t.pwr.cause = s.pwr.cause ∧ t.tiers.mem = s.tiers.mem ∧ (t.bsc.stage = if cardState s.eeprom b = 0 then 1 else 5)) ∧
  (∀ (s : State) (b : BootInputs), s.pwr.modRstLow = true ∨ s.pwr.tripped = true → exec (.resetRelease b) s = .next (answer s s))

/-- A sensor sample below a trip (R432, Table 15.9): the reading, the hottest reading, the power and the energy are recorded, and the
policy acts on the readings as they stand: HOT, CAP_HIT and CRIT are set where they hold, and, out of reset, the stretch unit is asked to
raise or lower.
(Model's choices: log 43, 56.) -/
def Obligations.ASensorSampleIsRecorded : Prop :=
  ∀ (s : State) (k : Fin 26) (temp : BitVec 16) (power : BitVec 12) (v : State), temp.toInt < tripLevel k →
    v = { s with pwr := { s.pwr with
      temp := tset 0 s.pwr.temp k temp, sampled := orBit s.pwr.sampled k, tempMax := noteMax s.pwr.tempMax k temp, power := power
      powerMax := if s.pwr.powerMax.toNat < power.toNat then power else s.pwr.powerMax
      energy := if k.val = 25 then s.pwr.energy + power.toNat else s.pwr.energy
      hot := clrBit s.pwr.hot k } } →
    (live s = true → exec (.sensorSample k temp power) s = .next (answer s (settle (thermalPolicy v)))) ∧
    (s.pwr.phase = .inReset → exec (.sensorSample k temp power) s = .next (answer s (policyStatus v))) ∧
    (∀ u : State, atCrit u = true → bit (thermalPolicy u).pwr.status 5 = true ∧ alertLevel (thermalPolicy u) = false)

/-- Wake timers and cluster wakes (R429, R430): arming a timer for its own context, disarming it with a count of zero, and refusing a count
not at least 2 above the tempo count; a timer that fires; a power-up that starts, or is deferred in the window before a pulse; and a
cluster that becomes active from I0, or ready from I1.
(Model's choices: log 42.) -/
def Obligations.WakeTimersAndClusterWakes : Prop :=
  (∀ (s : State) (fn : FnId) (val : W32) (k : Nat), live s = true → pwrOwn s fn = some k → hostReach s fn = true →
    exec (.wakeTimerArm fn val) s = .next (answer s (
      if join64 val (ctxAt s k).wakeLo = 0 then updCtx s k (fun c => { c with wakeHi := val, wakeArmed := false })
      else if keepsCount s = true ∧ s.tmp.count.toNat + 2 ≤ (join64 val (ctxAt s k).wakeLo).toNat then
        updCtx s k (fun c => { c with wakeHi := val, wakeArmed := true })
      else setPwrStatus s 8))) ∧
  (∀ (s : State) (k : CtxId), live s = true → (ctxAt s k).wakeArmed = true →
    exec (.wakeTimerFire k) s = .next (answer s (wakeCtx (unpark (updCtx s k (fun c => { c with wakeArmed := false })) k) k))) ∧
  (∀ (s : State) (k : ClusterId), live s = true → wakeOf s k ≠ 0 → clusterIdle s k = 1 → bit s.pwr.deferred k = false →
    exec (.clusterWakeStart k) s = .next (answer s (if inWakeWindow s = true then
      { s with pwr := { s.pwr with
        deferred := orBit s.pwr.deferred k, wakeDefer := satAdd s.pwr.wakeDefer 1, status := orBit s.pwr.status 7 } }
      else startWake s k))) ∧
  (∀ (s : State) (k : ClusterId), live s = true → clusterIdle s k = 4 → clusterWl s k = 0 →
    exec (.clusterWakeReady k) s = .next (answer s { s with pwr := { s.pwr with
      cluster := tset 0 s.pwr.cluster k 0, wakeAt := tset 0 s.pwr.wakeAt k 0 } }))

/-- Idle ports (R431): a port that may idle enters I2, and any other stays; a wake from I2 is counted, and the port is awake.
(Model's choices: log 42.) -/
def Obligations.IdlePortsSleepAndWake : Prop :=
  (∀ (s : State) (p : PortId), live s = true →
    exec (.portIdleTimeout p) s = .next (answer s (if mayIdle s p = true then updPort s p (fun x => { x with idle := 1 }) else s))) ∧
  (∀ (s : State) (p : PortId), live s = true → (portAt s p).idle = 1 →
    exec (.portWake p) s = .next (answer s { s with
      fab := { s.fab with ports := tset {} s.fab.ports p { portAt s p with idle := 0 } }
      pwr := { s.pwr with wakes := satAdd s.pwr.wakes 1 } })) ∧
  (∀ (s : State) (p : PortId), live s = true → (portAt s p).idle ≠ 1 → exec (.portWake p) s = .next (answer s s))

/-- The clear registers: each clears the counters its description names, for the function that may write it, and nothing else (Tables 2.9,
5.10, 6.9, 8.11, 9.15, 11.15, 11.16, 13.6, 15.11): TMP_CLEAR the held total, the largest hem use and the deviations, and every core's and port's
counts; FAB_CLEAR the ports' CRC and down counts and the count of FAB_MSG_LAST; CNT_CLEAR the engines' counts, its high-water marks returning to
what is in use. -/
def Obligations.ClearRegistersClearTheirCounters : Prop :=
  ∀ (s : State) (fn : FnId) (val : W32), live s = true → bit val 0 = true →
    (isSteward s fn = true →
      exec (.pwrClear fn val) s = .next (answer s { s with pwr := { s.pwr with
        powerMax := 0, tempMax := 0, wakes := 0, wakeDefer := 0, wakeLate := 0 } }) ∧
      exec (.tirClear fn val) s = .next (answer s { s with tiers := { s.tiers with
        scrubSweeps := 0, rereads := 0, fences := 0, retiredN := 0, repaired := 0, heldN := [], codecFaults := 0, weak := [] } }) ∧
      exec (.safClear fn val) s = .next (answer s { s with saf := { s.saf with
        committed := 0, withheld := 0, faults := 0, flog := [], flogNext := 0, flogWrapped := false, oppMismatch := 0, choiceTotal := 0
        choiceKind := [], checkerFails := 0 } }) ∧
      (∀ u v : State, u = { s with tmp := { s.tmp with heldTotal := 0, hemMax := 0, devCount := 0 } } →
        v = forAll (List.range 72) u (fun s c => setCore s c { coreAt s c with slip := 0, waitSlips := 0, rereads := 0 }) →
        exec (.tmpClear fn val) s = .next (answer s (forAll (List.range 16) v (fun s p => setPort s p { portAt s p with
          retries := 0, retryNc := 0 })))) ∧
      (∀ u : State, u = forAll (List.range 16) s (fun s p => setPort s p { portAt s p with crcN := 0, downs := 0 }) →
        exec (.fabClear fn val) s = .next (answer s { u with fab := { u.fab with msgLast := setBits u.fab.msgLast 0 16 0 } }))) ∧
    (hostReach s fn = true → exec (.hqClear fn val) s = .next (answer s (setFn s fn { fnAt s fn with dbErr := 0, evtLost := 0 }))) ∧
    (∀ k : Nat, hostReach s fn = true → srvSel s fn = some k → exec (.srvClear fn val) s = .next (answer s { s with srv := { s.srv with
      perCtx := tset {} s.srv.perCtx k { srvCtxAt s k with draftDrop := 0, tailIgn := 0 } } })) ∧
    (∀ r : RouterId, routerExists s r = true → exec (.rtrClear r val) s = .next (answer s (setRouter s r { routerAt s r with
      crcCount := 0, strayCount := 0, seamFaults := 0, freeWaitMax := 0, slotLent := 0 }))) ∧
    (∀ (c : CoreId) (z : Core → Nat → Core), enabledCore s c = true →
      z = (fun x e => setEngine x e { engineAt x e with satCount := 0, rampShort := 0 }) →
      exec (.coreCntClear .service c val) s = .next (answer s (setCore s c { z (z (z (z (coreAt s c) 0) 1) 2) 3 with
        sbHigh := sbUsed (coreAt s c), gatherHigh := (coreAt s c).gather.length }))) ∧
    (∀ (c : CoreId) (rq : Requester), rq ≠ .service → exec (.coreCntClear rq c val) s = .next (answer s s))

/-! ### Tempo -/

/-- A pulse within its window advances the tempo count (R43, R46, R49): outside a worked tempo the module acts on it and a tempo edge
follows; a pulse inside a worked tempo of more than one pulse period is only counted.
(Model's choices: log 2, 17.) -/
def Obligations.APulseAdvancesTheCount : Prop :=
  ∀ (s : State) (rclk : Nat), countsPulses s = true → inWindow s rclk = true → Quiet s →
    (s.tmp.working = false → s.tmp.resumeAt = none → s.tmp.unavailAt = none →
      exec (.tempoPulse rclk) s = .next (answer s { s with
        now := max s.now (pulseTime s rclk)
        tmp := { s.tmp with pulseSeen := true, expect := true, pulseAt := pulseTime s rclk, count := s.tmp.count + 1, edgeDue := true } })) ∧
    (s.tmp.working = true → s.tmp.pulses + 1 < s.tmp.stride → s.pwr.deferred = 0 →
      exec (.tempoPulse rclk) s = .next (answer s { s with
        now := max s.now (pulseTime s rclk)
        tmp := { s.tmp with
          pulseSeen := true, expect := true, pulseAt := pulseTime s rclk, count := s.tmp.count + 1, pulses := s.tmp.pulses + 1 } }))

/-- A tempo pulse fault (R44, R45) puts the module in tempo lost with the PULSE cause under fault 0x18: a pulse outside its window, which
still advances the count; no pulse in time; a high level that lasts too long.
(Model's choices: log 30.) -/
def Obligations.APulseFaultLosesTheTempo : Prop :=
  (∀ (s : State) (rclk : Nat), countsPulses s = true → inWindow s rclk = false → s.tmp.working = false → s.tmp.unavailAt = none → Quiet s →
    ∃ t, exec (.tempoPulse rclk) s = .next t ∧ TempoLost s t 2 0x18 ∧ t.tmp.count = s.tmp.count + 1) ∧
  (∀ s : State, live s = true → bit s.tmp.ctrl 0 = true → s.tmp.expect = true → Quiet s →
    ∃ t, exec .tempoPulseMissing s = .next t ∧ TempoLost s t 2 0x18 ∧ t.tmp.count = s.tmp.count ∧ t.tmp.expect = false) ∧
  (∀ s : State, live s = true → bit s.tmp.ctrl 0 = true → Quiet s →
    ∃ t, exec .tempoHighTooLong s = .next t ∧ TempoLost s t 2 0x18 ∧ t.tmp.count = s.tmp.count)

/-- A held tempo (R60): a module that has asserted or received overrun skips the pulse that would end the worked tempo. No tempo edge is
due, the hubs are not reset, the work and the wait of every core go on unchanged, the count advances, the hold is counted, and so is the
timing-dependent choice.
(Model's choices: log 17.) -/
def Obligations.AHeldPulseIsSkipped : Prop :=
  ∀ (s : State) (rclk : Nat), countsPulses s = true → inWindow s rclk = true → Quiet s → s.pwr.deferred = 0 →
    s.tmp.working = true → s.tmp.stride ≤ s.tmp.pulses + 1 → s.tmp.held = false → s.tmp.lost = false →
    (s.tmp.overrunSent = true ∨ s.tmp.t.toNat ∈ s.tmp.overrunFor) →
    ∃ t, exec (.tempoPulse rclk) s = .next t ∧ Spared s t ∧ t.saf.choiceTotal = s.saf.choiceTotal + 1 ∧ t.ctxs = s.ctxs ∧
      t.tmp = { s.tmp with
        pulseSeen := true, expect := true, pulseAt := pulseTime s rclk, count := s.tmp.count + 1, held := true, pulses := s.tmp.pulses + 1
        heldTotal := satAdd s.tmp.heldTotal 1, status := orBit s.tmp.status 1 }

/-- The tempo edge, 48 sc after its pulse (R43), in this order: a commit point still due; the end of the worked tempo in progress; what was
accepted before the edge takes effect (R47), contexts and clusters change; and a worked tempo begins unless the module is in tempo lost
or in a snapshot stop. Without an acted-on pulse there is none. A worked tempo that begins is that of the module's count (R46, R49), with
nothing yet of pulses, holds, overruns and deviations; one that ends is named as the last (R366); and an edge that begins none leaves the
array clock gated and every core that is not in maintenance in the boundary wait (R45, R50).
(Model's choices: log 2, 17, 29.) -/
def Obligations.TheTempoEdgeInOrder : Prop :=
  (∀ s u v : State, live s = true → s.tmp.edgeDue = true →
    u = updTmp (atLeast (commitPoint s) (s.tmp.pulseAt + 48 * Config.unitsPerSc)) (fun t => { t with edgeDue := false }) →
    v = (let e := if u.tmp.working = true then endTempo u else u
         snapNow (neighEdge (idleEdge (ctxEdge (applyAccepted (updTmp e (fun t => { t with edgeAt := e.now, commitDue := true }))))))) →
    exec .tempoEdge s = .next (answer s (settle (if v.tmp.lost = false ∧ v.fab.snapStop = false then beginWork v else beginNone v)))) ∧
  (∀ s : State, live s = true → s.tmp.edgeDue = false → Quiet s → exec .tempoEdge s = .next (answer s s)) ∧
  (∀ u : State, (endTempo u).tmp.working = false ∧ (endTempo u).tmp.ended = true ∧ (endTempo u).tmp.lastT = u.tmp.t ∧
    (endTempo u).tmp.count = u.tmp.count ∧ (endTempo u).tmp.lost = u.tmp.lost) ∧
  (∀ v : State, ∃ w, Begun v w ∧ beginWork v = gateIfAll w) ∧
  (∀ v : State, (beginNone v).lock.gated = true ∧ (beginNone v).hubs = [] ∧ (beginNone v).tmp.working = v.tmp.working ∧
    ∃ w : State, (beginNone v).cores = (forAll (enabledCores v) w (fun s c => updCore s c waitCore)).cores) ∧
  (∀ x : Core, x.maint = false → (waitCore x).boundary = true ∧ (waitCore x).a.done = true ∧ (waitCore x).x.done = true ∧
    ∀ o ∈ (waitCore x).ops, isMessage o.unit = true)

/-- The commit point, 3 µs after the tempo edge (R366, R368): opposition signatures not compared by then are a fault; each context that ran
the ended worked tempo is decided, a withheld one being one that a fault marked, or any in tempo lost; deferred power-ups then start. Each
committed worked tempo adds one to SAF_COMMITTED and stands in its context's record of commits; a withheld one is counted, and named (shown with PERSIST_EXIT clear: R372's exit comes after).
(Model's choices: log 2, 33.) -/
def Obligations.TheCommitPointDecides : Prop :=
  (∀ s : State, live s = true → s.tmp.commitDue = true →
    exec .commitPoint s = .next (answer s (settle (startDeferred (updTmp
      (decideEnded (sigsLate (atLeast s (s.tmp.edgeAt + usSc 3 * Config.unitsPerSc)))) (fun t => { t with commitDue := false })))))) ∧
  (∀ s : State, live s = true → s.tmp.commitDue = false → Quiet s → exec .commitPoint s = .next (answer s s)) ∧
  (∀ (s : State) (k : Nat), withheldBy s k = true ↔ s.tmp.lost = true ∨ ∃ m ∈ (ctxAt s k).marks, m.1 = s.tmp.lastT) ∧
  (∀ (s : State) (good : List Nat), (forAll good s commitCtx).saf = { s.saf with committed := s.saf.committed + BitVec.ofNat 64 good.length } ∧
    (forAll good s commitCtx).tmp = s.tmp ∧ ∀ k ∈ good, s.tmp.lastT ∈ (ctxAt (forAll good s commitCtx) k).commits) ∧
  (∀ (s : State) (k : Nat), bit s.saf.ctrl 2 = false → (withholdCtx s k).saf.withheld = satAdd s.saf.withheld 1 ∧ (withholdCtx s k).saf.lastWh = s.tmp.lastT ∧
    (withholdCtx s k).saf.committed = s.saf.committed ∧ bit (withholdCtx s k).saf.status 1 = true)

/-- Markers (R56 to R59, R65 to R67): the periodic marker counts the coming pulse and goes out on every marker port; a projection that passes
the cutoff asserts overrun once, with its marker and status; a marker whose CRC fails is counted and discarded; and a copy already used,
or one on a port that carries no markers, is discarded. Of a good copy, an overrun marker in time holds its worked tempo; a throttle marker
in time joins those of its worked tempo and a switch announcement the pending switches, but one that names a variant the module cannot
follow raises fault 0x28 and notes where it leaves the domain; and a periodic marker whose count and phase agree only measures the skew.
(Model's choices: log 9, 16, 17, 56, 65.) -/
def Obligations.MarkersAreSentAndTaken : Prop :=
  (∀ s : State, live s = true → keepsCount s = true → s.tmp.pulseSeen = true →
    exec .periodicMarkerSend s = .next (answer s (
      let u := atLeast s (s.tmp.pulseAt + periodUnits s - Config.guardSc * Config.unitsPerSc)
      sendMarker u (markerPorts s) (s.tmp.count + 1).toNat 0 s.tmp.variant.toNat 0))) ∧
  (∀ s : State, live s = true → projectionPassed s = true → s.tmp.lost = false → s.tmp.edgeDue = false → s.tmp.held = false →
    s.tmp.overrunSent = false →
    exec .overrun s = .next (answer s (settle (raiseMarker { s with tmp := { s.tmp with
      overrunSent := true, overrunFor := s.tmp.overrunFor ++ [s.tmp.t.toNat], status := orBit s.tmp.status 0 } } s.tmp.t.toNat 1 0 0)))) ∧
  (∀ (s : State) (p : PortId) (copy : Fin 3) (m : BitVec 256), live s = true → bit s.tmp.ctrl 0 = true → p.val ∈ markerPorts s → Quiet s →
    exec (.markerReceive p copy false m) s =
      .next (answer s (setPort s p { portAt s p with crcN := satAdd (portAt s p).crcN 1 }))) ∧
  (∀ (s : State) (p : PortId) (copy : Fin 3) (ok : Bool) (m : BitVec 256), live s = true → Quiet s →
    (p.val ∉ markerPorts s ∨ (ok = true ∧ s.tmp.copiesUsed.contains (p.val, (mkCount m).toNat, bits m 64 128) = true)) →
    exec (.markerReceive p copy ok m) s = .next (answer s s)) ∧
  (∀ (s : State) (p : PortId) (copy : Fin 3) (m : BitVec 256) (key : Nat × Nat × Nat), live s = true → bit s.tmp.ctrl 0 = true →
    p.val ∈ markerPorts s → mkFormed m = true → Quiet s → key = (p.val, (mkCount m).toNat, bits m 64 128) →
    s.tmp.copiesUsed.contains key = false →
    (mkKind m = 1 → tempoEnded s (mkCount m).toNat = false → s.tmp.overrunFor.contains (mkCount m).toNat = false →
      ∃ t l, exec (.markerReceive p copy true m) s = .next t ∧ Spared s t ∧ t.tmp = { s.tmp with
        copiesUsed := key :: s.tmp.copiesUsed, forwarded := l, overrunFor := s.tmp.overrunFor ++ [(mkCount m).toNat] }) ∧
    (mkKind m = 2 → tempoEnded s (mkCount m).toNat = false → canFollow s (mkVariant m).toNat = true →
      ∃ t l, exec (.markerReceive p copy true m) s = .next t ∧ Spared s t ∧ t.tmp = { s.tmp with
        copiesUsed := key :: s.tmp.copiesUsed, forwarded := l, throttles := s.tmp.throttles ++ [((mkCount m).toNat, mkVariant m)] }) ∧
    (mkKind m = 3 → canFollow s (mkVariant m).toNat = true → s.tmp.switches.length < 16 →
      ∃ t l, exec (.markerReceive p copy true m) s = .next t ∧ Spared s t ∧ t.tmp = { s.tmp with
        copiesUsed := key :: s.tmp.copiesUsed, forwarded := l, switches := insertSwitch s.tmp.switches (mkSwitch m) (mkVariant m) }) ∧
    (∀ n : Nat, canFollow s (mkVariant m).toNat = false →
      (mkKind m = 2 ∧ tempoEnded s (mkCount m).toNat = false ∧ n = (mkCount m).toNat + lead s) ∨ (mkKind m = 3 ∧ n = mkSwitch m) →
      ∃ t l e, exec (.markerReceive p copy true m) s = .next t ∧ Spared s t ∧ t.saf.reports = s.saf.reports ++ [e] ∧ e.code = 0x28 ∧
        t.tmp = { s.tmp with
          copiesUsed := key :: s.tmp.copiesUsed, forwarded := l
          unavailAt := some (match s.tmp.unavailAt with | some u => min u n | none => n) }) ∧
    (∀ d : Nat, mkKind m = 0 → s.tmp.countFromMarker = false → s.tmp.pulseSeen = true → s.tmp.haveCount = true →
      d = ((mkPhase m : Int) + (portAt s p).lat.toNat - (phaseSc s : Nat)).natAbs → d ≤ 600 → mkCount m = s.tmp.count + 1 →
      exec (.markerReceive p copy true m) s = .next (answer s { s with tmp := { s.tmp with
        copiesUsed := key :: s.tmp.copiesUsed
        skew := if s.tmp.skew.toNat < d * 5 / 12 then BitVec.ofNat 16 (d * 5 / 12) else s.tmp.skew } }))) ∧
  (∀ s : State, live s = true → exec .stretchSpacingExpiry s = .next (answer s (settle (match policyAsks s, s.lock.request with
    | some up, _ => judge { s with lock := { s.lock with request := none, since := max s.lock.since 256 } } up
    | none, some up => judge { s with lock := { s.lock with request := none, since := max s.lock.since 256 } } up
    | none, none => s))))

/-- Hold divergence (R62): an overrun marker for count t that arrives after the receiver has acted on the pulse ending worked tempo t puts
it in tempo lost under fault 0x1E; a periodic marker that does not count the coming pulse does so under 0x19 (R46), one whose phase is more
than 250 ns off under 0x1A (R59); and the stalemate detector (R69): two streams of a core held on objects that nothing in flight can signal
put the module in tempo lost under fault 0x1D.
(Model's choices: log 30.) -/
def Obligations.DivergenceAndStalemateLoseTheTempo : Prop :=
  (∀ (s : State) (p : PortId) (copy : Fin 3) (m : BitVec 256), live s = true → bit s.tmp.ctrl 0 = true → p.val ∈ markerPorts s →
    mkFormed m = true → mkKind m = 1 → s.tmp.copiesUsed.contains (p.val, (mkCount m).toNat, bits m 64 128) = false →
    tempoEnded s (mkCount m).toNat = true → s.tmp.overrunFor.contains (mkCount m).toNat = false → s.tmp.lost = false → Quiet s →
    ∃ t, exec (.markerReceive p copy true m) s = .next t ∧ TempoLost s t 4 0x1E ∧ (mkCount m).toNat ∈ t.tmp.overrunFor) ∧
  (∀ (s : State) (p : PortId) (copy : Fin 3) (m : BitVec 256) (d : Nat), live s = true → bit s.tmp.ctrl 0 = true → p.val ∈ markerPorts s →
    mkFormed m = true → mkKind m = 0 → s.tmp.copiesUsed.contains (p.val, (mkCount m).toNat, bits m 64 128) = false →
    s.tmp.countFromMarker = false → s.tmp.pulseSeen = true → s.tmp.haveCount = true →
    d = ((mkPhase m : Int) + (portAt s p).lat.toNat - (phaseSc s : Nat)).natAbs → Quiet s →
    (mkCount m ≠ s.tmp.count + 1 → d ≤ 600 → ∃ t, exec (.markerReceive p copy true m) s = .next t ∧ TempoLost s t 12 0x19) ∧
    (mkCount m = s.tmp.count + 1 → 600 < d → ∃ t, exec (.markerReceive p copy true m) s = .next t ∧ TempoLost s t 3 0x1A)) ∧
  (∀ (s : State) (c : CoreId) (a e : Nat), live s = true → enabledCore s c = true → Quiet s →
    waitObject (coreAt s c) .access = some a → waitObject (coreAt s c) .execute = some e → a < 0xC0 → e < 0xC0 →
    (∀ o ∈ (coreAt s c).ops, o.sop = 0 ∨ (o.sobj.toNat ≠ a ∧ o.sobj.toNat ≠ e)) → (∀ g ∈ (coreAt s c).sigs, g.sobj ≠ a ∧ g.sobj ≠ e) →
    ∃ t, exec (.stalemateTimeout c) s = .next t ∧ TempoLost s t 7 0x1D)

/-- The TMP registers with rows of their own (R45, R66, R77, R78, R438): a resume count at least 2 above the tempo count is accepted and
another refused with CFG_ERR; EN rises, or falls while no bolt is loaded; a switch is announced with its marker; and a read of the low
half of a count latches the high half. -/
def Obligations.TempoRegisters : Prop :=
  (∀ (s : State) (fn : FnId) (val : W32) (c : Instr), c = .tempoResume fn val ∨ c = .tempoEnable fn val → live s = true →
    isSteward s fn = true → Quiet s →
    (bit val 0 = true → bit s.tmp.ctrl 0 = true → bit val 2 = true → s.tmp.haveCount = true → s.tmp.count.toNat + 2 ≤ resumeCount s →
      exec c s = .next (answer s { s with tmp := { s.tmp with ctrl := val &&& 3, resumeAt := some (resumeCount s) } })) ∧
    (bit val 2 = true → (keepsCount s = false ∨ resumeCount s < s.tmp.count.toNat + 2) →
      exec c s = .next (answer s { s with tmp := { s.tmp with status := orBit s.tmp.status 9 } })) ∧
    (bit val 0 = true → bit val 2 = false → bit s.tmp.ctrl 0 = false → bit s.glb.boot 5 = false →
      exec c s = .next (answer s { s with tmp := { s.tmp with ctrl := val &&& 3 } })) ∧
    (bit val 0 = false → bit val 2 = false → bit s.tmp.ctrl 0 = true → loadedCtxs s = [] →
      exec c s = .next (answer s (tempoOff { s with tmp := { s.tmp with ctrl := val &&& 3 } })))) ∧
  (∀ (s : State) (fn : FnId) (val : W32) (n : Nat), live s = true → isSteward s fn = true → n = (join64 s.tmp.setHi s.tmp.setLo).toNat →
    exec (.variantAnnounce fn val) s = .next (answer s (
      if canFollow s (bits val 0 2) = true ∧ keepsCount s = true ∧ s.tmp.count.toNat + lead s ≤ n ∧ s.tmp.switches.length < 16 then
        raiseMarker { s with tmp := { s.tmp with switches := insertSwitch s.tmp.switches n (BitVec.ofNat 2 (bits val 0 2)) } }
          s.tmp.count.toNat 3 (bits val 0 2) n
      else { s with tmp := { s.tmp with status := orBit s.tmp.status 9 } }))) ∧
  (∀ (s : State) (fn : FnId), live s = true → s.glb.unconfigured = false →
    exec (.tmpCountLoRead fn) s = .next (answer s { s with
      readData := lo32 (countNow s), tmp := { s.tmp with countHiLatch := some (hi32 (countNow s)) } }) ∧
    exec (.tmpSwitchCountLoRead fn) s = .next (answer s { s with
      readData := lo32 (firstSwitch s), tmp := { s.tmp with switchHiLatch := some (hi32 (firstSwitch s)) } }))

/-! ### The core streams -/

/-- How a stream instruction issues (R110, R111, R117, R118, Table 4.1): on a running stream, where its word is well formed and of good
parity, its ranges lie in their regions, its wait holds and its unit and its scoreboard ranges are free, the schedule time comes (R32); the
wait's condition is consumed; the instruction does what it does; and the stream goes on to its next instruction at the time the plan gives.
(Model's choices: log 2, 12, 22.) -/
def Obligations.AStreamInstructionIssues : Prop :=
  ∀ (s u : State) (i : Instr) (c : CoreId) (st : Stream) (w : W128) (op t : Nat) (plan : State → Nat → Plan) (p : Plan),
    streamCmd i = some (c, st, w, op, plan) → AtIssue s c st t → u = catchUp s t → (u.lock.gated = true ∨ t ≤ lockTrc u) → p = plan u t →
    wOp w = op → condOk w = true → sopOk w = true → badWord (coreAt s c) st = false → p.streamOk = true → p.check = .ok → p.blocked = none →
    waitHolds (coreAt u c) w = true →
    exec i s = .next (answer s (settle (advance (p.act (setCore u c (consume (coreAt u c) w))) c st w p.next)))

/-- A malformed word is not performed (R117): it does not wait, its signal takes effect at the end of the ac after issue where SOP and SOBJ
are well formed, its slot passes, and an instruction fault is raised for its core; a range outside its region does the same with an access
fault that names the byte. Where the core belongs to no context the fault withholds nothing, and it is reported either way.
(Model's choices: log 13, 30, 58.) -/
def Obligations.AMalformedWordIsNotPerformed : Prop :=
  (∀ (s u : State) (i : Instr) (c : CoreId) (st : Stream) (w : W128) (op t n code low : Nat) (plan : State → Nat → Plan) (p : Plan),
    streamCmd i = some (c, st, w, op, plan) → AtIssue s c st t → u = catchUp s t → (u.lock.gated = true ∨ t ≤ lockTrc u) → p = plan u t →
    n = (streamOf (coreAt u c) st).sched →
    ((code = 0x0C ∧ low = 0 ∧ (condOk w = false ∨ sopOk w = false ∨ p.streamOk = false ∨ wOp w ≠ op ∨ badWord (coreAt s c) st = true ∨
        p.check = .malformed)) ∨
      (code = 0x0D ∧ condOk w = true ∧ sopOk w = true ∧ p.streamOk = true ∧ wOp w = op ∧ badWord (coreAt s c) st = false ∧
        ∃ a, p.check = .access a ∧ low = a % 2 ^ 32)) →
    exec i s = .next (answer s (settle (
      let f := raiseCore u c code (streamNo st * 2 ^ 43 + wOp w * 2 ^ 35 + low)
      advance (if sopOk w = true then signalAt f c (streamNo st) (clk f c + 1) (wSop w) (wSobj w) else f) c st w (n + 1))))) ∧
  (∀ (s : State) (c code low : Nat), ∃ e : FlogEnt,
    (raiseCore s c code low).saf.reports = s.saf.reports ++ [e] ∧ e.code = BitVec.ofNat 8 code ∧ e.valid = true)

/-- An instruction whose wait does not hold, or whose unit or ranges are taken, holds its stream (R111, R75, Table 4.2): nothing issues; a
scheduled wait counts a deviation of case 2 as it begins to hold, a taken unit or range one of its own case, and a decoupled wait a wait slip
and no deviation; while the same hold lasts, the stream just goes on holding. -/
def Obligations.AnUnsatisfiedWaitHoldsTheStream : Prop :=
  ∀ (s u : State) (i : Instr) (c : CoreId) (st : Stream) (w : W128) (op t : Nat) (plan : State → Nat → Plan) (p : Plan) (v : StreamSt),
    streamCmd i = some (c, st, w, op, plan) → AtIssue s c st t → u = catchUp s t → (u.lock.gated = true ∨ t ≤ lockTrc u) → p = plan u t →
    wOp w = op → condOk w = true → sopOk w = true → badWord (coreAt s c) st = false → p.streamOk = true → p.check = .ok → Quiet u →
    v = streamOf (coreAt u c) st →
    (¬ (v.held = some w ∧ v.dev = true) → waitHolds (coreAt u c) w = false → wCond w < 8 →
      exec i s = .next (answer s (deviate (updStream u c st (fun v => { v with held := some w, dev := true })) c 2))) ∧
    (¬ (v.held = some w ∧ v.dev = false) → waitHolds (coreAt u c) w = false → 8 ≤ wCond w →
      exec i s = .next (answer s (updCore (updStream u c st (fun v => { v with held := some w, dev := false })) c (fun x =>
        { x with waitSlips := satAdd x.waitSlips 1 })))) ∧
    (∀ k, ¬ (v.held = some w ∧ v.dev = true) → waitHolds (coreAt u c) w = true → p.blocked = some k →
      exec i s = .next (answer s (deviate (updStream u c st (fun v => { v with held := some w, dev := true })) c k))) ∧
    (v.held = some w → (waitHolds (coreAt u c) w = false ∧ v.dev = decide (wCond w < 8)) ∨
        (waitHolds (coreAt u c) w = true ∧ p.blocked.isSome = true ∧ v.dev = true) →
      exec i s = .next (answer s u))

/-- The control class in the middle of a frame (R110, R118, R119): a NOP without signal takes its slot and does nothing else; TIME moves the
next instruction's schedule time to its target; SYNC acts on its object as Table 4.8 lists; and the first BOUNDARY of a core ends its own
stream's work. -/
def Obligations.TheControlClassTakesItsSlots : Prop :=
  ∀ (s : State) (c : CoreId) (st : Stream) (w : W128) (x : Core) (v : StreamSt),
    AtIssue s c st v.sched → x = coreAt s c → v = streamOf x st → (s.lock.gated = true ∨ v.sched ≤ lockTrc s) → Quiet s →
    badWord x st = false → wCond w = 0 → wObj w = 0 → wSop w = 0 → wSobj w = 0 → v.index % 64 ≠ 0 → v.index + 1 < v.len →
    (wOp w = 0x00 → bits w 0 96 = 0 →
      exec (.nop c st w) s = .next (answer s (setCore s c (setStream x st { v with
        held := none, dev := false, index := v.index + 1, sched := v.sched + 1 })))) ∧
    (wOp w = 0x01 → bits w 24 72 = 0 → v.sched < bits w 0 24 →
      exec (.time c st w) s = .next (answer s (setCore s c (setStream x st { v with
        held := none, dev := false, index := v.index + 1, sched := bits w 0 24 })))) ∧
    (wOp w = 0x03 → chkSync w = .ok →
      (syAct w = 2 → (syncAt x (syObj w)).val.toNat + syVal w < 2 ^ 32 ∧ x.badSync.contains (syObj w) = false) →
      (∀ y : Core, y = (match syAct w with
        | 0 => setSync x (syObj w) { syncAt x (syObj w) with thr := BitVec.ofNat 32 (syVal w) }
        | 1 => setSync x (syObj w) { syncAt x (syObj w) with val := BitVec.ofNat 32 (syVal w) }
        | 2 => setSync x (syObj w) { syncAt x (syObj w) with val := BitVec.ofNat 32 ((syncAt x (syObj w)).val.toNat + syVal w) }
        | _ => setSync x (syObj w) { syncAt x (syObj w) with val := 0 }) →
      exec (.sync c st w) s = .next (answer s (setCore s c (setStream y st { v with
        held := none, dev := false, index := v.index + 1, sched := v.sched + 1 }))))) ∧
    (wOp w = 0x02 → bits w 0 96 = 0 → x.ops = [] → x.a.done = false → x.x.done = false →
      exec (.boundary c st w none) s = .next (answer s (setCore s c (setStream x st { v with
        held := none, dev := false, index := v.index + 1, done := true }))))

/-- What the units of a core do after an issue (R82, R91, R97, R104, R107, R115, R116, R136): the rows of a pass are compared in order; a row
whose comparison holds and whose sums fit raises nothing, another raises the check-column fault, named once for its pass; a compared row
opens its accumulator entry, or adds to it under one base; an engine falls a level at 72, 80, 88 and 96 ac after its last row; a complete
operation is released and its signal waits for the end of the ac, at which it is performed; and the reads before a first worked tempo fetch the
next frame set.
(Model's choices: log 2, 12, 31, 58, 59.) -/
def Obligations.UnitsGoOnAfterTheIssue : Prop :=
  (∀ (s : State) (c : CoreId) (e : EngineId) (d : Int), live s = true → enabledCore s c = true →
    (0 < rowsWaiting s c e → exec (.passRowResult c e d) s = .next (answer s (settle (
      tickUntil 512 (updCore s c (fun x => updEngine x e (fun g => setDelta g d))) (fun u => decide (rowsWaiting u c e < rowsWaiting s c e)))))) ∧
    (rowsWaiting s c e = 0 → Quiet s → exec (.passRowResult c e d) s = .next (answer s s))) ∧
  (∀ (s : State) (c e t : Nat) (r : PassRow), r.stage = 0 →
    (t < r.at_ + 137 → rowStep s c e t r = (s, r)) ∧ (r.at_ + 137 = t → rowStep s c e t r = (rowCheck s c e r, { r with stage := 1 }))) ∧
  (∀ (s : State) (c e : Nat) (r : PassRow) (vs : List Int), r.stage = 1 → r.into = some vs →
    rowStep s c e (r.at_ + 138) r = (accumulate s c e r vs, { r with stage := 2 })) ∧
  (∀ (s : State) (c e : Nat) (r : PassRow), r.overs = [] → (∀ v ∈ r.sums, int64Ok v = true) →
    ((r.check.add ⟨r.delta - r.sums.foldl (· + ·) 0, r.base⟩).isZero = true → rowCheck s c e r = s) ∧
    ((r.check.add ⟨r.delta - r.sums.foldl (· + ·) 0, r.base⟩).isZero = false → r.passIndex ∉ (engineAt (coreAt s c) e).named →
      rowCheck s c e r = raiseCore (updCore s c (fun x => updEngine x e (fun g => { g with named := g.named ++ [r.passIndex] }))) c 1
        (e * 2 ^ 42 + r.row * 2 ^ 34 + r.passIndex % 2 ^ 18 * 2 ^ 16))) ∧
  (∀ (s : State) (c e : Nat) (r : PassRow) (vs : List Int),
    (r.add = false → accumulate s c e r vs =
      updCore s c (fun x => updEngine x e (fun g => g.setAcc r.row (vs.map (fun v => ⟨v, r.base⟩))))) ∧
    (r.add = true → (∀ p ∈ vs.zipIdx, ((engineAt (coreAt s c) e).accAt_ r.row p.2).base = r.base ∧
        longOk (((engineAt (coreAt s c) e).accAt_ r.row p.2).v + p.1) = true) →
      accumulate s c e r vs = updCore s c (fun x => updEngine x e (fun g =>
        g.setAcc r.row (vs.zipIdx.map (fun p => ⟨((engineAt (coreAt s c) e).accAt_ r.row p.2).v + p.1, r.base⟩)))))) ∧
  (∀ (s : State) (c : CoreId) (e : EngineId), live s = true → enabledCore s c = true →
    (0 < (engineAt (coreAt s c) e).level → s.lock.gated = false → exec (.rampOutStep c e) s = .next (answer s (settle (
      tickUntil 512 s (fun u => decide ((engineAt (coreAt u c) e).level < (engineAt (coreAt s c) e).level)))))) ∧
    ((engineAt (coreAt s c) e).level = 0 ∨ s.lock.gated = true → Quiet s → exec (.rampOutStep c e) s = .next (answer s s))) ∧
  (∀ (x : Core) (e n : Nat), x.ops = [] → 0 < (engineAt x e).level →
    (n < 72 → rampOut x e ((engineAt x e).lastRowAt + n - 1) = x) ∧
    (n = 72 ∨ n = 80 ∨ n = 88 ∨ n = 96 → rampOut x e ((engineAt x e).lastRowAt + n - 1) =
      setEngine x e { engineAt x e with level := (engineAt x e).level - 1 })) ∧
  (∀ (s : State) (c : CoreId) (u : UnitId) (n : Nat), live s = true → enabledCore s c = true → n = ((coreAt s c).ops.filter (opOf u)).length →
    (0 < n → exec (.unitSignal c u) s = .next (answer s (settle (
      tickUntil 65536 s (fun v => decide (((coreAt v c).ops.filter (opOf u)).length < n)))))) ∧
    (n = 0 → Quiet s → exec (.unitSignal c u) s = .next (answer s s))) ∧
  (∀ (s : State) (c l : Nat) (o : Op), (coreAt s c).ops = [o] → o.last = some l → l < o.step → o.again = [] → o.noSignal = false →
    endOps s c (fun _ => true) =
      (let u := setCore s c { coreAt s c with ops := [] }
       signalAt u c (unitRank o.unit) (clk u c) o.sop.toNat o.sobj.toNat)) ∧
  (∀ (s : State) (c rank due sop sobj : Nat), sop ≠ 0 → s.lock.gated = false → (coreAt s c).maint = false → (coreAt s c).sigs = [] →
    signalAt s c rank due sop sobj = setCore s c { coreAt s c with sigs := [⟨16 * due + rank, .signal sop, sobj⟩] } ∧
    (rank < 16 → (coreAt s c).arrivals = [] →
      effectsEnd due (signalAt s c rank due sop sobj) c = applyEffs (setCore s c { coreAt s c with sigs := [] }) c sobj [.signal sop])) ∧
  (∀ (s : State) (c : CoreId), live s = true → enabledCore s c = true → (coreAt s c).maint = true →
    exec (.firstTempoPrefetch c) s = .next (answer s (settle (fetchSet s c (variantAt s (nextBegin s)).toNat))))

/-! ### The maintenance port -/

/-- A core in maintenance mode takes an instruction at its free port (R137 to R139): each of the nine maintenance instructions with zero wait
and signal fields does its work at once; a NOP completes and does nothing; WIN writes its window word into the engines of its mask; and
the completion makes mstat valid (Table 4.22).
(Model's choices: log 14.) -/
def Obligations.AMaintenanceInstructionRuns : Prop :=
  (∀ (s : State) (i : Instr) (c : CoreId) (w : W128) (op : Nat) (act : State → State), maintCmd i = some (c, w, op, act) → AtPort s c →
    wOp w = op → bits w 104 24 = 0 → exec i s = .next (answer s (act s))) ∧
  (∀ (s : State) (c : CoreId) (st : Stream) (w : W128), AtPort s c → bits w 104 24 = 0 → Quiet s →
    (wOp w = 0x00 → bits w 0 96 = 0 → exec (.nop c st w) s = .next (answer s (updCore s c (fun x => { x with mnext := some 0 })))) ∧
    (wOp w = 0x20 → chkWin w = .ok → winOk (wiWord w) = true → wiEng w = 1 → wiTgt w = false →
      exec (.win c st w) s = .next (answer s (updCore
        (updCore s c (fun x => updEngine x 0 (fun g => { g with shadowWin := wiWord w }))) c (fun x => { x with mnext := some 0 }))))) ∧
  (∀ (s : State) (c : CoreId) (v : Byte), live s = true → (coreAt s c).mnext = some v →
    exec (.maintInsnComplete c) s = .next (answer s (updCore s c (fun x => { x with mstat := v, mnext := none })))) ∧
  (∀ (s : State) (c : CoreId), live s = true → enabledCore s c = true → (coreAt s c).clearing = true →
    exec (.storeClearDone c) s = .next (answer s (updCore s c (fun x =>
      { x with clearing := false, store := [], lcrc := [], fences := [], unfenced := [] }))))

/-- What the maintenance port refuses (R137, R345): an instruction outside maintenance mode sets NOT_MAINT and one while another runs sets
LAUNCH_BUSY, and neither is performed; nonzero wait or signal fields, and an opcode that the port does not take, end with mstat 4; and so
do the reserved bits of an instruction, while a range beyond the store ends with mstat 2.
(Model's choices: log 14.) -/
def Obligations.TheMaintenancePortRefuses : Prop :=
  ∀ (s : State) (i : Instr) (c : CoreId) (w : W128) (op : Nat) (act : State → State), maintCmd i = some (c, w, op, act) → live s = true →
    enabledCore s c = true →
    ((coreAt s c).maint = false → exec i s = .next (answer s (updCore s c (fun x => { x with mpErr := orBit x.mpErr 1 })))) ∧
    ((coreAt s c).maint = true → (coreAt s c).mnext.isSome = true →
      exec i s = .next (answer s (updCore s c (fun x => { x with mpErr := orBit x.mpErr 0 })))) ∧
    (AtPort s c → (bits w 104 24 ≠ 0 ∨ wOp w ≠ op) → exec i s = .next (answer s (updCore s c (fun x => { x with mnext := some 4 })))) ∧
    (AtPort s c → bits w 104 24 = 0 → wOp w = op → (bits w 0 52 ≠ 0) →
      exec i s = .next (answer s (updCore s c (fun x => { x with mnext := some 4 })))) ∧
    (AtPort s c → bits w 104 24 = 0 → wOp w = op → op = 0xE2 ∨ op = 0xE3 → bits w 0 62 = 0 → 131072 < bits w 79 17 + (bits w 62 17 + 1) →
      exec i s = .next (answer s (updCore s c (fun x => { x with mnext := some 2 }))))

/-- What the line instructions of R139 do: MRDL gives a line's words, its stored CRC and whether they agree; MWRL writes a line from mres
with a masked CRC; MCLR zeroes lines with fresh CRCs; MSYN reads a sync object's two words, and writes them first where WR asks, a flag
being one bit wide (R154). -/
def Obligations.MaintenanceResults : Prop :=
  ∀ (s : State) (c : CoreId) (w : W128) (x : Core), AtPort s c → bits w 104 24 = 0 → x = coreAt s c →
    (wOp w = 0xE0 → bits w 0 79 = 0 →
      exec (.mrdl c w) s = .next (answer s (updCore (setCore s c { x with
        mres := (List.range 8).foldl (fun t i => tset 0 t i (BitVec.ofNat 64 (sliceNat (readBytes x.store (64 * bits w 79 17) 64) (8 * i) 8))) x.mres
        mcrc := (lineCrc (readBytes x.store (64 * bits w 79 17) 64) ^^^ tget 0 x.lcrc (bits w 79 17)).setWidth 32 }) c
        (fun y => { y with mnext := some (BitVec.ofNat 8 (if tget 0 x.lcrc (bits w 79 17) = 0 then 0 else 1)) })))) ∧
    (wOp w = 0xE1 → bits w 0 63 = 0 → x.fences = [] →
      exec (.mwrl c w) s = .next (answer s (updCore (setCore s c { x with
        store := writeBytes x.store (64 * bits w 79 17) ((List.range 8).flatMap (fun i => leBytes 8 (tget 0 x.mres i).toNat))
        lcrc := tset 0 (tset 0 x.lcrc (bits w 79 17) 0) (bits w 79 17) (BitVec.ofNat 16 (bits w 63 16)) }) c
        (fun y => { y with mnext := some 0 })))) ∧
    (wOp w = 0xE2 → bits w 0 62 = 0 → bits w 79 17 + (bits w 62 17 + 1) ≤ 131072 → (∀ i < 8, tget 0 x.fences i = 0) →
      exec (.mclr c w) s = .next (answer s (updCore (setCore s c { x with
        store := zeroBytes x.store (64 * bits w 79 17) (64 * (bits w 79 17 + (bits w 62 17 + 1)))
        lcrc := tclear x.lcrc (bits w 79 17) (bits w 79 17 + (bits w 62 17 + 1)) }) c (fun y => { y with mnext := some 0 })))) ∧
    (∀ o, wOp w = 0xE8 → bits w 0 87 = 0 → o = bits w 88 8 →
      exec (.msyn c w) s = .next (answer s (
        let u := if bit w 87 = true then updCore s c (fun x => setSync { x with badSync := x.badSync.filter (fun i => decide (i ≠ o)) } o
            ⟨if o < 0x80 then lo32 (tget 0 x.mres 0) &&& 1 else lo32 (tget 0 x.mres 0), if o < 0x80 then (syncAt x o).thr else hi32 (tget 0 x.mres 0)⟩) else s
        updCore (updCore u c (fun y => { y with
          mres := tset 0 y.mres 0 (join64 (if o < 0x80 then 0 else (syncAt y o).thr) (syncAt y o).val) })) c (fun y => { y with mnext := some 0 }))))

/-! ### Core stores -/

/-- A line or block that reads wrong and is read again (R111, R152, R153, R180, R181): a re-read that delivers slips the lock set where
the read was scheduled, and is counted; a second mismatch of a line gives zeros to the operations that hold it, fences it in a free FENCE word,
sets CRC_FENCE and raises the fault of a line that cannot be read; a line or block that is fenced already is not read again. -/
def Obligations.RereadsAreCountedAndFence : Prop :=
  (∀ (s : State) (c : CoreId) (l : Nat) (sched : Bool), live s = true → enabledCore s c = true → l < 131072 → fenceOf (coreAt s c) l = none →
    Quiet s →
    exec (.storeReread c l true sched) s = .next (answer s (
      let u := if sched = true then slipAc s c 3 else s
      updCore (updCore u c (fun x => { x with rereads := satAdd x.rereads 1 })) c (fun x => { x with storeFault := orBit x.storeFault 0 })))) ∧
  (∀ (s u : State) (c : CoreId) (l : Nat) (sched : Bool) (i : Nat), live s = true → enabledCore s c = true → l < 131072 →
    fenceOf (coreAt s c) l = none → Quiet s →
    u = updCore (if sched = true then slipAc (zeroLine s c l) c 3 else zeroLine s c l) c (fun x => { x with rereads := satAdd x.rereads 1 }) →
    freeFence (coreAt u c) = some i →
    exec (.storeReread c l false sched) s = .next (answer s (raiseCore (updCore (updCore u c (fun x => { x with
      fences := tset 0 x.fences i (BitVec.ofNat 32 (2 ^ 31 + l)), unfenced := x.unfenced.filter (fun n => decide (n ≠ l)) })) c (fun x =>
      { x with storeFault := orBit x.storeFault 1 })) c 0x09 (l * 2 ^ 27)))) ∧
  (∀ (s : State) (c l : Nat), (∀ k < 72, (coreAt s k).ops = []) → zeroLine s c l = s) ∧
  (∀ (s : State) (c : CoreId) (b : Nat) (sched : Bool), live s = true → enabledCore s c = true → b < 393216 → fenceEntry s.tiers c b = none →
    exec (.tierReread c b true sched) s = .next (answer s (settle (
      let u := if sched = true then slipAc s c 24 else s
      let v := updCore u c (fun x => { x with rereads := satAdd x.rereads 1 })
      weakHit v (some (c.val, b)) (resolve v c b))))) ∧
  (∀ (s : State) (c : CoreId) (n : Nat) (second sched : Bool), live s = true → Quiet s →
    ((fenceOf (coreAt s c) n).isSome = true → exec (.storeReread c n second sched) s = .next (answer s s)) ∧
    ((fenceEntry s.tiers c n).isSome = true → exec (.tierReread c n second sched) s = .next (answer s s)))

/-- Arrivals, gather entries and rings (R116, R155, R157, R159, R162, R170): the arrival step applies at most four arrivals, in order, with
what else is due in the ac; one arrival adds one to its counter and its status is owed; an entry flushes when its line is whole or holds
bytes of a message, and then completes its writes; 32 ac without a store flush only an entry of service-complex bytes, and a fence request each
entry that holds some; a held ring write goes on only once a slot is free; and an outside write of a sync object is taken from the service
complex and from messages of the core's own context, and from no one else, and takes effect in the arrival step.
(Model's choices: log 2, 18.) -/
def Obligations.ArrivalsGatherEntriesAndRings : Prop :=
  (∀ (s : State) (c : CoreId) (came : List Arrival), live s = true → (coreAt s c).sigs = [] → (coreAt s c).arrivals ≠ [] →
    came = (coreAt s c).arrivals.take 4 →
    exec (.arrival c) s = .next (answer s (settle (forAll came
      (applyAll (setCore s c { coreAt s c with arrivals := (coreAt s c).arrivals.drop 4 }) c (came.map (fun a => (.arrival, a.obj.toNat))))
      (fun s a => oweStatus s c a.reply 0))))) ∧
  (∀ (s : State) (c : CoreId), live s = true → (coreAt s c).sigs = [] → (coreAt s c).arrivals = [] → Quiet s →
    exec (.arrival c) s = .next (answer s s)) ∧
  (∀ (s : State) (c : Nat) (a : Arrival) (x : Core), x = coreAt s c → x.maint = false → x.badSync.contains a.obj.toNat = false →
    (syncAt x a.obj.toNat).val.toNat + 1 < 2 ^ 32 →
    applyAll s c [(.arrival, a.obj.toNat)] =
      setCore s c (setSync x a.obj.toNat { syncAt x a.obj.toNat with val := (syncAt x a.obj.toNat).val + 1 })) ∧
  (∀ (s : State) (c : CoreId) (i : Fin 16) (e : GEntry), live s = true → gatherAt (coreAt s c) i = some e →
    (e.mask = BitVec.allOnes 64 → exec (.gatherFlush c i) s = .next (answer s (settle (resumeHeld (forAll e.notes
      (writeLine (setCore s c (setGather (coreAt s c) i none)) c e.line e.data) (fun s id => noteFlushed s c false id)) c)))) ∧
    (e.mask ≠ BitVec.allOnes 64 → e.other = true → fenceOf (coreAt s c) e.line = none → tget 0 (coreAt s c).lcrc e.line = 0 →
      exec (.gatherFlush c i) s = .next (answer s (settle (resumeHeld (forAll e.notes
        (updCore (setCore s c (setGather (coreAt s c) i none)) c (fun x =>
          putLine x e.line (mergeBytes e.mask (bytesOfLine e.data) (lineBytes x e.line))))
        (fun s id => noteFlushed s c false id)) c)))) ∧
    (e.mask ≠ BitVec.allOnes 64 → e.other = false → Quiet s → exec (.gatherFlush c i) s = .next (answer s s))) ∧
  (∀ (s : State) (c : CoreId) (i : Fin 16) (e : GEntry), live s = true → gatherAt (coreAt s c) i = some e →
    (e.other = true ∨ e.svc = false → Quiet s → exec (.gatherIdleTimeout c i) s = .next (answer s s)) ∧
    (e.other = false → e.svc = true → e.at_ + gatherWait s ≤ s.now →
      exec (.gatherIdleTimeout c i) s = .next (answer s (settle (flushEntry s c i)))) ∧
    (∀ u, e.other = false → e.svc = true → u = tickUntil 32 s (fun s => decide (e.at_ + gatherWait s ≤ s.now)) →
      e.at_ + gatherWait u ≤ u.now → gatherAt (coreAt u c) i = some e →
      exec (.gatherIdleTimeout c i) s = .next (answer s (settle (flushEntry u c i))))) ∧
  (∀ (s : State) (c : CoreId), live s = true → exec (.gatherFenceRequest c) s = .next (answer s (settle (forAll (List.range 16) s (fun s i =>
    match gatherAt (coreAt s c) i with
    | some e => if e.svc = true then flushEntry s c i else s
    | none => s))))) ∧
  (∀ (s : State) (c : CoreId) (r : Fin 16) (h : RingHeld) (rest : List RingHeld), live s = true →
    (ringAt (coreAt s c) r).heldWrites = h :: rest →
    (ringFilled (coreAt s c) r < ringSlots (coreAt s c) r →
      exec (.ringWriteResume c r) s = .next (answer s (settle (ringFill
        (setCore s c (updRing (coreAt s c) r (fun g => { g with heldWrites := rest }))) c r h.data h.src h.reply)))) ∧
    (ringSlots (coreAt s c) r ≤ ringFilled (coreAt s c) r → Quiet s → exec (.ringWriteResume c r) s = .next (answer s s))) ∧
  (∀ (s : State) (rq : Requester) (c : CoreId) (o : Nat) (v : W32), live s = true → enabledCore s c = true → o < 256 → Quiet s →
    ((rq = .service ∨ ∃ k : CtxId, rq = .message k ∧ ctxOfCore s c = some k.val) → (o < 128 → v.toNat ≤ 1) →
      (s.lock.gated = false → (coreAt s c).maint = false →
        exec (.syncObjectWrite rq c (0x1000 + 8 * o) v) s = .next (answer s (updCore s c (fun x =>
          { x with sigs := insertSig ⟨16 * clk s c + 15, .value v, o⟩ x.sigs }))) ∧
        (128 ≤ o → exec (.syncObjectWrite rq c (0x1004 + 8 * o) v) s = .next (answer s (updCore s c (fun x =>
          { x with sigs := insertSig ⟨16 * clk s c + 15, .threshold v, o⟩ x.sigs }))))) ∧
      (s.lock.gated = true ∨ (coreAt s c).maint = true → (coreAt s c).badSync.contains o = false →
        exec (.syncObjectWrite rq c (0x1000 + 8 * o) v) s = .next (answer s (updCore s c (fun x => setSync x o { syncAt x o with val := v }))) ∧
        (128 ≤ o → exec (.syncObjectWrite rq c (0x1004 + 8 * o) v) s =
          .next (answer s (updCore s c (fun x => setSync x o { syncAt x o with thr := v })))))) ∧
    ((∃ k, rq = .host k) ∨ (∃ k : CtxId, rq = .message k ∧ ctxOfCore s c ≠ some k.val) →
      exec (.syncObjectWrite rq c (0x1000 + 8 * o) v) s = .next (answer s s)))

/-! ### Tiers -/

/-- The tiers' own events (R174, R185, R187, R189, Table 6.6): the boundary-wait queue gives up its oldest operation only while its core
waits or is in maintenance mode, and a repair of a block that is no longer fenced is discarded; a weak entry expires; a substitution is
added while its core is in maintenance mode if it breaks no rule of R174; a scrub read does nothing while SCRUB_EN is 0 and otherwise counts
towards its sweep; and the end of a sweep sets the next period by the policy. -/
def Obligations.TierEventsFollowTheirRules : Prop :=
  (∀ (s : State) (c : CoreId) (o : BqOp) (os : List BqOp), live s = true → (coreAt s c).bq = o :: os →
    ((coreAt s c).boundary = true ∨ (coreAt s c).maint = true ∨ (coreAt s c).barred = true →
      exec (.boundaryQueueOp c) s = .next (answer s (settle (boundaryOp (setCore s c (refillBq { coreAt s c with bq := os })) c o)))) ∧
    ((coreAt s c).boundary = false → (coreAt s c).maint = false → (coreAt s c).barred = false → Quiet s →
      exec (.boundaryQueueOp c) s = .next (answer s s))) ∧
  (∀ (s : State) (c b : Nat) (d : BitVec 4096) (h : Bool), fenceEntry s.tiers c b = none → boundaryOp s c (.repair b d h) = s) ∧
  (∀ (s : State) (loc : BlockLoc), live s = true → exec (.weakEntryExpiry loc) s = .next (answer s { s with
    tiers := { s.tiers with weak := s.tiers.weak.filter (fun e => weakLive s e || decide (e.loc ≠ locBlock s loc)) } })) ∧
  (∀ (s : State) (c d : CoreId) (t u : TierId), live s = true →
    (∀ i, (coreAt s c).maint = true → subOk s c t d u = true →
      (List.range 16).find? (fun i => !(bit (tget 0 s.tiers.subs i) 31)) = some i →
      exec (.sliceSubstitutionAdd c t d u) s = .next (answer s { s with
        tiers := { s.tiers with subs := tset 0 s.tiers.subs i (BitVec.ofNat 32 (2 ^ 31 + t.val * 2 ^ 16 + c.val * 2 ^ 8 + d.val)) }.keep })) ∧
    ((coreAt s c).maint = false ∨ enabledCore s d = true ∨ enabledCore s c = false ∨ t ≠ u →
      exec (.sliceSubstitutionAdd c t d u) s = .next (answer s s))) ∧
  (∀ (s : State) (loc : BlockLoc) (r : ReadResult), live s = true → bit s.tiers.ctrl 0 = false →
    exec (.scrubRead loc r) s = .next (answer s s)) ∧
  (∀ (s u : State) (loc : BlockLoc), live s = true → bit s.tiers.ctrl 0 = true → locOk s loc = true →
    (∀ c b, ownerOf s (locBlock s loc) = some (c, b) → fenceEntry s.tiers c b = none) → tget 0 s.tiers.crc (locBlock s loc) = 0 →
    u = updTiers s (fun t => { t with
      sweepSeen := (if locBlock s loc ∈ t.sweepSeen then t.sweepSeen else locBlock s loc :: t.sweepSeen) }) →
    (u.tiers.sweepSeen.length < sweepBlocks s → exec (.scrubRead loc .clean) s = .next (answer s u)) ∧
    (sweepBlocks s ≤ u.tiers.sweepSeen.length → exec (.scrubRead loc .clean) s = .next (answer s (sweepEnd u)))) ∧
  (∀ (s : State) (p : Nat), p = s.tiers.scrubPeriod.toNat →
    (sweepEnd s).tiers.sweepSeen = [] ∧ (sweepEnd s).tiers.sweepAt = s.now ∧ (sweepEnd s).tiers.scrubSweeps = s.tiers.scrubSweeps + 1 ∧
    (sweepEnd s).tiers.scrubPeriod = BitVec.ofNat 32 (
      if s.tiers.sweepBad = true ∨ bits s.tiers.scrubCfg 0 8 ≤ s.tiers.sweepRereads then max (p / 2) s.tiers.scrubMin.toNat
      else if s.tiers.sweepRereads = 0 ∧ 4 ≤ s.tiers.cleanSweeps + 1 then min (p * 2) s.tiers.scrubMax.toNat
      else p))

/-! ### The mesh -/

/-- Flits at a router (R215, R218, R220, R225, R226, R228): a flit comes off its link; a good free flit takes its routing entry's output; one
without a valid entry is discarded as unroutable; a weft flit whose stream entry expects it here waits for the entry's outputs, and one that
the stream table does not expect is a stray; a flit whose CRC is wrong is counted, raises a fault and goes on poisoned with a fresh CRC; a
flit on a port that leads nowhere, or at a core router that stands still, is not taken.
(Model's choices: log 18, 64.) -/
def Obligations.FlitsTakeTheirTablesWay : Prop :=
  (∀ (s u : State) (r : RouterId) (inp : RPort) (f : MeshFlit), live s = true → routerExists s r = true → portLeads s r inp = true →
    (72 ≤ r.val ∨ meshStopped s = false) → u = takeLink s r inp f → flitCrc f.payload f.side = f.crc →
    (sideWeft f.side = false → badEntry u r (sideDest f.side) = false →
      (∀ e, e = tget 0 (routerAt u r).route (sideDest f.side) → bit e 7 = true → Quiet s →
        exec (.flitReceive r inp f) s = .next (answer s (updRouter u r (fun x => { x with
          free := x.free ++ [⟨inp, bits e 0 3, f, 0, s.now⟩] })))) ∧
      (bit (tget 0 (routerAt u r).route (sideDest f.side)) 7 = false →
        exec (.flitReceive r inp f) s = .next (answer s (settle (unroutable u r (sideCtx f.side) (sideDest f.side)))))) ∧
    (sideWeft f.side = true → badEntry u r (128 + sideStream f.side) = false →
      (∀ e, e = tget 0 (routerAt u r).stream (sideStream f.side) → weftActive u r = true → bit e 31 = true → bit e 30 = false →
        bits e 26 4 = sideCtx f.side → bits e 23 3 = inp.val → Quiet s →
        exec (.flitReceive r inp f) s = .next (answer s (updRouter u r (fun x => { x with
          weft := x.weft ++ [⟨inp, 0, f, BitVec.ofNat 8 (bits e 15 8), s.now⟩] })))) ∧
      (∀ e, e = tget 0 (routerAt u r).stream (sideStream f.side) →
        (weftActive u r = false ∨ bit e 31 = false ∨ bits e 26 4 ≠ sideCtx f.side ∨ bits e 23 3 ≠ inp.val) → Quiet s →
        exec (.flitReceive r inp f) s = .next (answer s (meshFault (updRouter u r (fun x => { x with strayCount := satAdd x.strayCount 1 })) r 0x12
          (sideCtx f.side) (sideStream f.side * 2 ^ 34) 2))))) ∧
  (∀ (s u : State) (r : RouterId) (inp : RPort) (f : MeshFlit), live s = true → routerExists s r = true → portLeads s r inp = true →
    (72 ≤ r.val ∨ meshStopped s = false) → flitCrc f.payload f.side ≠ f.crc →
    u = meshFault (updRouter (takeLink s r inp f) r (fun x => { x with crcCount := satAdd x.crcCount 1 })) r 0x10 (sideCtx f.side)
      (inp.val * 2 ^ 41) 0 →
    exec (.flitReceive r inp f) s = .next (answer s (settle (routerReceive u r inp (meshFlit f.payload (orBit f.side 62)))))) ∧
  (∀ (s : State) (r : RouterId) (inp : RPort) (f : MeshFlit), live s = true →
    (routerExists s r = false ∨ portLeads s r inp = false ∨ (r.val < 72 ∧ meshStopped s = true)) → Quiet s →
    exec (.flitReceive r inp f) s = .next (answer s s)) ∧
  (∀ (s : State) (r inp n o : Nat) (f : MeshFlit) (fs : List MeshFlit), linkEnd r inp = some (n, o) →
    twf {} s.routers → twf [] (routerAt s n).link → tget [] (routerAt s n).link o = f :: fs →
    tget [] (routerAt (takeLink s r inp f) n).link o = fs)

/-- What routers do of themselves and by register writes (R220, R228, R231, R235, R236, R374, Table 8.11): an output that runs decides one of
its ac's nc: it sends the oldest ready flit of the stream that the nc is reserved for, else a free flit if the far side has room, else
nothing; a complete seam entry's result becomes a flit of its result stream; RTR_CTRL's WEFT_EN and CTX take effect at once, or in a worked
tempo at the next edge, as its commit always does; and a parity hit raises fault 0x11 in the scope of its structure.
(Model's choices: log 10, 50, 64.) -/
def Obligations.RoutersSendSumAndCommit : Prop :=
  (∀ (s : State) (r : RouterId) (out : RPort), live s = true → Quiet s → (outRuns s r out = false ∨ 2 ≤ nextNc s r out) →
    exec (.routerOutputSend r out) s = .next (answer s s)) ∧
  (∀ (s u : State) (r : RouterId) (out : RPort) (k : Nat), live s = true → outRuns s r out = true → k = nextNc s r out → k < 2 →
    u = (if s.tmp.working = true then
      updRouter s r (fun x => { x with decided := tset 0 x.decided out (4 * s.now + k + 1) }) else s) →
    (reservedFor u r out (routerNc u r + k) = none →
      exec (.routerOutputSend r out) s = .next (answer s (settle (sendFreeFlit u r out false)))) ∧
    (∀ i st, reservedFor u r out (routerNc u r + k) = some (i, st) → weftReady u r out st k = none →
      exec (.routerOutputSend r out) s = .next (answer s (settle (sendFreeFlit u r out true)))) ∧
    (∀ i st f j, reservedFor u r out (routerNc u r + k) = some (i, st) → weftReady u r out st k = some (f, j) →
      badEntry u r (1216 + 4096 * out.val + i) = false → outRoom u r out f.flit = true →
      exec (.routerOutputSend r out) s = .next (answer s (settle (flitLeaves (setRouter u r { routerAt u r with
        weft := (if clrBit f.pending out = 0 then (routerAt u r).weft.eraseIdx j
          else (routerAt u r).weft.modify j (fun g => { g with pending := clrBit f.pending out })) }) r out f.flit))))) ∧
  (∀ (s : State) (r out : Nat) (lent : Bool), freePick (routerAt s r) out = none → sendFreeFlit s r out lent = s) ∧
  (∀ (s : State) (r out i : Nat) (f : InFlit), freePick (routerAt s r) out = some i → (routerAt s r).free[i]? = some f →
    outRoom s r out f.flit = false → sendFreeFlit s r out true = s) ∧
  (∀ (s : State) (r out n inp : Nat) (f : MeshFlit), out ≠ 0 → linkEnd r out = some (n, inp) →
    flitLeaves s r out f = updRouter s r (fun x => { x with link := tupd [] x.link out (fun l => l ++ [f]) })) ∧
  (∀ (s : State) (r : RouterId) (seam : Fin 64), live s = true → Quiet s →
    ((routerAt s r).seamOut.find? (fun p => decide (p.1 = seam.val)) = none → exec (.seamResult r seam) s = .next (answer s s)) ∧
    (∀ p, enabledCore s r = true → (routerAt s r).seamOut.find? (fun p => decide (p.1 = seam.val)) = some p →
      ∃ t, exec (.seamResult r seam) s = .next (answer s t) ∧
        t.routers = (setRouter s r { routerAt s r with
          seamOut := (routerAt s r).seamOut.erase p, weft := (routerAt s r).weft ++ [{ p.2 with at_ := s.now }] }).routers ∧ t.cores = s.cores)) ∧
  (∀ (s : State) (r : RouterId) (v : W32), live s = true → routerExists s r = true → s.tmp.working = false →
    exec (.rtrCommit r v) s = .next (answer s (updRouter (updRouter s r (fun x => { x with
      ctrl := BitVec.ofNat 32 (bits v 0 1 + bits v 2 4 * 4) })) r (fun x => { x with commitDue := x.commitDue || bit v 1 })))) ∧
  (∀ (s : State) (r : RouterId) (v : W32), live s = true → routerExists s r = true → s.tmp.working = true →
    exec (.rtrCommit r v) s = .next (answer s (updRouter { s with
      later := s.later.filter (fun p => decide (p.1 ≠ .rtrCtrl r)) ++ [(.rtrCtrl r, BitVec.ofNat 32 (bits v 0 1 + bits v 2 4 * 4))] } r
      (fun x => { x with commitDue := x.commitDue || bit v 1 })))) ∧
  (∀ (s u : State) (h : ParityHit), live s = true →
    u = parityMark (if h.srcKind = 1 ∧ h.srcIndex.toNat < 88 then updRouter s h.srcIndex.toNat (fun x => { x with status := orBit x.status 1 }) else s) h →
    ∃ t, exec (.paritySweep [h]) s = .next t ∧ Spared u t ∧ ∃ e : FlogEnt, t.saf.reports = s.saf.reports ++ [e] ∧ e.code = 0x11) ∧
  (∀ s : State, live s = true → exec (.paritySweep []) s = .next (answer s s))


/-! ### The fabric -/

/-- A sequenced flit at a port (R241 to R243): the commands that are one such flit do what the link layer makes of it, and then what the OPPOSE
frames that it delivers do; several flits of a message come in one by one, and one of a reserved TYPE is discarded and counted. One with a
wrong CRC is counted and NAKed; the next one in sequence is delivered, and with it the flits that waited for it, and an ACK follows where 64
are owed; one from ahead waits in the reorder buffer while the missing numbers are NAKed, once; a repeat is discarded; and a port that is not
trained at HL3 takes none.
(Model's choices: log 9, 18, 28.) -/
def Obligations.SequencedFlitsComeInOrder : Prop :=
  (∀ (s : State) (i : Instr) (p : PortId) (seq : BitVec 12) (ok : Bool) (it : RxItem), linkCmd i = some (p, seq, ok, it) → live s = true →
    exec i s = .next (answer s (settle (opposeDrain (linkRx s p seq ok it))))) ∧
  (∀ (s : State) (p : PortId) (rx : LinkRx) (r : ReplyRx) (d : List Byte), live s = true → (portAt s p).gen = 3 →
    exec (.replyReceive p rx r d) s = .next (answer s (settle (opposeDrain (linkRx s p rx.seq
      (controlGood rx 9 (BitVec.ofNat 12 (gaChip r.saddr)) (replyPayload r.msgid r.status r.saddr)) (.reply r.saddr r.msgid r.status)))))) ∧
  (∀ (s : State) (p : PortId) (fs : List FabFlit), live s = true →
    exec (.messageReceive p fs) s = .next (answer s (settle (opposeDrain (forAll fs s (fun s f => flitArrive s p f)))))) ∧
  (∀ (s : State) (p : PortId) (f : FabFlit),
    (f.typ = 0 → flitArrive s p f = linkRx s p f.seq (flitGood f) (.data f)) ∧
    (f.typ ≠ 0 → trained (portAt s p) → flitArrive s p f = setPort s p { portAt s p with crcN := satAdd (portAt s p).crcN 1 })) ∧
  (∀ (s : State) (p : PortId) (seq : BitVec 12) (ok : Bool) (it : RxItem) (x : Port) (d : Nat), x = portAt s p → d = (seq - x.rxSeq).toNat →
    (¬ trained x ∨ x.gen ≠ 3 → linkRx s p seq ok it = s) ∧
    (trained x → x.gen = 3 →
      (ok = false → linkRx s p seq ok it = (
        let u := setPort s p { x with crcN := satAdd x.crcN 1 }
        if d < 256 then sendAck u p [seq] else u)) ∧
      (ok = true → d = 0 → linkRx s p seq ok it = (
        let u := deliverItem (setPort s p { x with
          rxSeq := x.rxSeq + 1, unacked := x.unacked + 1, owed := match it with | .data _ => x.owed + 1 | _ => x.owed }) p it
        let v := drainReorder 256 u p
        if 64 ≤ (portAt v p).unacked then sendAck v p [] else v)) ∧
      (ok = true → 256 ≤ d ∨ (0 < d ∧ x.reorder.any (fun e => decide (e.1 = seq)) = true) → linkRx s p seq ok it = s) ∧
      (ok = true → 0 < d → d < 256 → x.reorder = [] →
        linkRx s p seq ok it = sendAck (setPort s p { x with reorder := [(seq, it)] }) p
          ((List.range d).map (fun k => x.rxSeq + BitVec.ofNat 12 k))))) ∧
  (∀ s : State, s.fab.oppRx = [] → opposeDrain s = s)

/-- Acknowledgement, retry and the port's timers (R243 to R247, R266): an ACK frees what it acknowledges and returns credit; a NAKed frame
is sent again, ahead of all other traffic, its time is counted, and its eighth NAK takes the port down; an ACK goes out where flits are owed
one, and returns no credit while fewer than 256 ingress entries are free; an IDLE flit goes out when nothing else is ready, and one that comes
in carries nothing; egress sends resends first, then control, and a down-trained port requests in the form of its generation.
(Model's choices: log 2, 9, 28.) -/
def Obligations.AcksRetriesAndTimers : Prop :=
  (∀ (s : State) (p : PortId) (x : Port) (upTo : BitVec 12) (naks : List (BitVec 12)) (credits : Nat), live s = true → x = portAt s p →
    (¬ trained x → Quiet s → exec (.ackReceive p upTo naks credits) s = .next (answer s s)) ∧
    (trained x → exec (.ackReceive p upTo naks credits) s = .next (answer s (settle
      (forAll (naks.take 32) (setPort s p { acked x upTo with credit := x.credit + credits }) (fun s q => nakOne s p q)))))) ∧
  (∀ (s : State) (p : PortId) (f : Frame) (q : BitVec 12) (n : Nat), (portAt s p).retry.find? (fun g => decide (g.seq = q)) = some f →
    n = (((portAt s p).naks.find? (fun e => decide (e.1 = q))).map (·.2)).getD 0 →
    (n < 7 → nakOne s p q = setPort s p { portAt s p with
      resend := (portAt s p).resend ++ [f], naks := (portAt s p).naks.filter (fun e => decide (e.1 ≠ q)) ++ [(q, n + 1)]
      retries := satAdd (portAt s p).retries 1, retryNc := satAdd (portAt s p).retryNc 360 }) ∧
    (7 ≤ n → nakOne s p q = portDown s p)) ∧
  (∀ (s : State) (p : PortId), live s = true →
    (0 < (portAt s p).unacked → exec (.ackSendTimer p) s = .next (answer s (sendAck s p []))) ∧
    ((portAt s p).unacked = 0 → exec (.ackSendTimer p) s = .next (answer s s)) ∧
    (trained (portAt s p) → (portAt s p).control = [] → (portAt s p).resend = [] →
      exec (.idleSendTimer p) s = .next (answer s { s with wire := s.wire ++ [.frame p ⟨2, 0, 0, 0, 0⟩ (linkCrc 2 0 0 0 0)] })) ∧
    (¬ trained (portAt s p) → exec (.idleSendTimer p) s = .next (answer s s)) ∧
    exec (.idleFlitReceive p) s = .next (answer s (setPort s p (portAt s p)))) ∧
  (∀ (s : State) (p : PortId) (n : Nat), n = 2048 - ingressUsed s p →
    sendAck s p [] = (
      let back := if n < 256 then 0 else (portAt s p).owed
      sendControl (setPort s p { portAt s p with unacked := 0, owed := (portAt s p).owed - back }) p 1
        (ackPayload ((portAt s p).rxSeq - 1) [] back))) ∧
  (∀ (s : State) (p : PortId), live s = true → ¬ trained (portAt s p) ∨ (portAt s p).idle ≠ 0 → Quiet s →
    exec (.portEgressSend p) s = .next (answer s s)) ∧
  (∀ (s : State) (p : PortId) (f : Frame) (fs : List Frame), live s = true → trained (portAt s p) → (portAt s p).idle = 0 → Quiet s →
    (portAt s p).gen = 3 → (portAt s p).resend = f :: fs →
    exec (.portEgressSend p) s = .next (answer s (
      let u := updPort (updPort s p flitTime) p (fun x => { x with resend := fs })
      { u with wire := u.wire ++ [.frame p f (linkCrc f.typ f.seq f.dest f.side f.payload)] }))) ∧
  (∀ (s : State) (p : PortId) (l : Legacy) (ls : List Legacy), live s = true → trained (portAt s p) → (portAt s p).idle = 0 → Quiet s →
    (portAt s p).gen ≠ 3 → (portAt s p).legacyOut = l :: ls →
    exec (.portEgressSend p) s = .next (answer s { setPort s p { portAt s p with legacyOut := ls } with wire := s.wire ++ [.legacy p l] }))

/-- Ports train, are set and fall (R240, R246, R252, R253): training ends at the highest generation that both ends, GEN_MAX and the lanes
allow, with credit for the neighbour's ingress; before the first worked tempo a change applies at once and after it at the next tempo edge;
OPPOSITION on a port other than 15 is refused with CFG_ERR; a port that falls silent, outside I2, or loses lane lock goes down; an IDENT
frame goes out again until one has been received; and one that comes in during the port's own opening is recorded, answered where it echoes
nothing, and opens the port or finds it wired against the rules, while one that names another neighbour than the recorded one takes it down.
(Model's choices: log 15, 28, 42.) -/
def Obligations.PortsTrainAreSetAndFall : Prop :=
  (∀ (s : State) (p : PortId) (far lane : BitVec 2) (g : Nat), live s = true → g = min (genMax (portAt s p)) (min far.toNat lane.toNat) →
    ((portAt s p).st = 1 → 0 < g → exec (.portTrainingDone p far lane) s = .next (answer s (settle (openingCheck (beginOpening
      (setPort s p { portAt s p with st := 2, gen := BitVec.ofNat 2 g, credit := 2048 }) p))))) ∧
    ((portAt s p).st ≠ 1 ∨ g = 0 → Quiet s → exec (.portTrainingDone p far lane) s = .next (answer s s))) ∧
  (∀ (s : State) (fn : FnId) (v : W32) (c : Instr) (p : Nat), c = .portGenMaxSet fn v ∨ c = .portEnableSet fn v ∨ c = .portOppositionSet fn v →
    live s = true → isSteward s fn = true → p = bits s.fab.portSel 0 4 → Quiet s →
    (bit v 2 = true → p ≠ 15 → exec c s = .next (answer s { s with fab := { s.fab with status := orBit s.fab.status 10 } })) ∧
    (bit v 2 = false → s.tmp.begun = true → exec c s = .next (answer s (setPort s p { portAt s p with
      ctrl := { (portAt s p).ctrl with acc := v &&& 0x36 } })))) ∧
  (∀ (s : State) (p : PortId), live s = true →
    ((portAt s p).idle = 1 → Quiet s → exec (.portSilenceTimeout p) s = .next (answer s s)) ∧
    ((portAt s p).idle ≠ 1 → exec (.portSilenceTimeout p) s = .next (answer s (settle (portDown s p)))) ∧
    exec (.laneLockLoss p) s = .next (answer s (settle (portDown s p)))) ∧
  (∀ (s : State) (p : Nat), trained (portAt s p) → s.fab.openingDone = false → s.glb.traceActive = false → (portAt s p).txSrc = [] →
    portDown s p = (let u := setPort s p { portAt s p with
      st := (if genMax (portAt s p) = 0 then 6 else 1), gen := 0, recorded := false, downs := satAdd (portAt s p).downs 1, long := false
      txSeq := 0, rxSeq := 0, retry := [], naks := [], resend := [], reorder := [], unacked := 0, control := [], txSrc := [], txHdr := []
      txChip := [], owed := 0, legacyOut := [], rxFlits := [], lastIdent := none, credit := 0, idle := 0 }
    { u with fab := { u.fab with status := orBit u.fab.status 1 } })) ∧
  (∀ (s : State) (p : PortId), live s = true → (portAt s p).st = 3 → (portAt s p).recorded = false →
    exec (.identResendTimer p) s = .next (answer s (openingCheck (sendControl s p 4 (identPayload s p))))) ∧
  (∀ (s : State) (p : PortId) (f : Ident), live s = true → 3 ≤ (portAt s p).st → (portAt s p).st ≤ 5 → portOpp (portAt s p) = false →
    ((portAt s p).recorded = true → (f.serial ≠ (portAt s p).neighSerial ∨ f.port ≠ (portAt s p).neighPort ∨
        f.board ≠ (portAt s p).neighBoard ∨ f.slot ≠ (portAt s p).neighSlot) →
      exec (.identReceive p f) s = .next (answer s (settle (portDown s p)))) ∧
    ((portAt s p).recorded = false → (portAt s p).st = 3 → ∀ u, u = setPort s p
        (recordLat (recordNeigh { portAt s p with lastIdent := some (f, nowSc s) } f) f (nowSc s)) →
      ∀ v, v = (if f.echoed = true then u else sendControl u p 4 (identPayload u p)) →
      (miswired v p f = true → exec (.identReceive p f) s =
        .next (answer s (settle (openingCheck (setFabStatus (setPort v p { portAt v p with st := 5 }) 3))))) ∧
      (miswired v p f = false → exec (.identReceive p f) s = .next (answer s (settle (openingCheck (
        let w := setPort v p { portAt v p with st := 4 }
        if portIsUp (portAt w p) = true then portComesUp w p else w))))))) ∧
  (∀ (s : State) (p : PortId) (f : Ident), live s = true → (portAt s p).st < 3 ∨ 5 < (portAt s p).st ∨ portOpp (portAt s p) = true → Quiet s →
    exec (.identReceive p f) s = .next (answer s s))

/-- The commands of FAB_CTRL, FAB_DRESET and FAB_ROUTE_COMMIT (R47, R252, R256, R272, R273, R275, R438): EPOCH without ROOT, and a snapshot
without a tempo count at least 2 below its count, are refused with CFG_ERR; EPOCH makes the epoch due at the next pulse; a snapshot is armed
and sent on; the other bits of FAB_CTRL take effect at once, or in a worked tempo at the next edge; a domain reset floods only with DRESET_EN;
and staged routes commit at once before the first worked tempo, else at the next tempo edge.
(Model's choices: log 15.) -/
def Obligations.TheFabricManagerCommands : Prop :=
  (∀ (s : State) (fn : FnId) (v : W32) (c : Instr), c = .openingStart fn v ∨ c = .epochCommand fn v ∨ c = .snapshotArm fn v → live s = true →
    isSteward s fn = true → Quiet s →
    ((bit v 3 = true ∧ bit v 2 = false) ∨
        (bit v 4 = true ∧ bit s.fab.ctrl 4 = false ∧ (keepsCount s = false ∨ snapCount s < s.tmp.count.toNat + 2)) →
      exec c s = .next (answer s { s with fab := { s.fab with status := orBit s.fab.status 10 } })) ∧
    (s.tmp.working = true → bit v 3 = true → bit v 2 = true → bit v 4 = false →
      exec c s = .next (answer s { s with
        fab := { s.fab with epochDue := true, epochAdopted := false }
        later := s.later.filter (fun p => decide (p.1 ≠ .fabCtrl)) ++ [(.fabCtrl, v &&& 0x27)] })) ∧
    (s.tmp.working = false → bit v 3 = true → bit v 2 = true → bit v 4 = false → bit v 1 = false →
      exec c s = .next (answer s { s with fab := { s.fab with
        ctrl := (v &&& 0x27) ||| (s.fab.ctrl &&& 0x10), epochDue := true, epochAdopted := false } })) ∧
    (s.tmp.working = false → bit v 3 = false → bit v 4 = true → bit v 1 = false → bit s.fab.ctrl 4 = false → keepsCount s = true →
      s.tmp.count.toNat + 2 ≤ snapCount s → hl3UpPorts s = [] →
      exec c s = .next (answer s { s with fab := { s.fab with
        ctrl := (v &&& 0x27) ||| 0x10, snapAt := some (snapCount s), snapSeen := s.fab.snapSeen ++ [snapCount s] } })) ∧
    (s.tmp.working = false → bit v 3 = false → bit v 4 = false → bit v 1 = true → exec c s = .next (answer s (settle (openingCheck
      (forAll (List.range 16) { s with fab := { s.fab with ctrl := (v &&& 0x27) ||| (s.fab.ctrl &&& 0x10) } } beginOpening)))))) ∧
  (∀ (s : State) (fn : FnId) (v : W32), live s = true → isSteward s fn = true → bit v 0 = true →
    (bit s.fab.ctrl 5 = false →
      exec (.domainResetFlood fn v) s = .next (answer s { s with fab := { s.fab with status := orBit s.fab.status 10 } })) ∧
    (bit s.fab.ctrl 5 = true → s.fab.dresetAt = none → exec (.domainResetFlood fn v) s = .next (answer s (
      let u : State := { s with fab := { s.fab with dresetAt := some s.now, dresetDue := true } }
      sendControlAll u (hl3UpPorts u) 8 0))) ∧
    (s.fab.routeStaged.all (fun e => routeOk e.1 e.2) = true →
      (s.tmp.begun = true → exec (.fabRouteCommit fn v) s = .next (answer s { s with fab := { s.fab with commitDue := true } })) ∧
      (s.tmp.begun = false → exec (.fabRouteCommit fn v) s = .next (answer s (commitRoutes s)))))

/-- How a message of this module ends (R247, R249, R262, R264, Table 9.9): a REPLY frame that comes in order answers the message that it names,
and one of an older part its own; a REPLY to an unknown MSGID is discarded; one of several copies that ends is counted and the first nonzero
status kept; a PUT whose only copy ends well completes its operation; a message without an answer in time ends with status 0x8; and an older
part's write on a port that is open for it is delivered and its atomic answered with an error, while on any other port a request does nothing.
(Model's choices: log 18, 28, 55, 64.) -/
def Obligations.MessagesEndOnce : Prop :=
  (∀ (s : State) (p : PortId) (rx : LinkRx) (r : ReplyRx) (d : List Byte), live s = true →
    (TakesNext s p rx.seq → controlGood rx 9 (BitVec.ofNat 12 (gaChip r.saddr)) (replyPayload r.msgid r.status r.saddr) = true →
      (∀ u, u = (if ownModule s (gaChip r.saddr) = true then replyTo (flitTaken s p) ⟨r.saddr, r.msgid, r.status, 0⟩
          else settleOne (flitTaken s p) ⟨r.saddr, r.msgid, r.status, 0⟩) →
        (portAt u p).reorder = [] → (portAt u p).unacked < 64 → u.fab.oppRx = [] →
        exec (.replyReceive p rx r d) s = .next (answer s (settle u))) ∧
      (∀ src (m : Msg), ownModule s (gaChip r.saddr) = true → gaCore r.saddr ≠ 0xFE → sourceOf s r.saddr r.msgid = some src →
        findMsg s src r.msgid = some m → m.started = true → 1 < m.copies →
        exec (.replyReceive p rx r d) s = .next (answer s (settle
          (setMsg (flitTaken s p) { m with copies := m.copies - 1, status := if m.status = 0 then r.status else m.status }))))) ∧
    (trained (portAt s p) → (portAt s p).gen ≠ 3 → s.fab.oppRx = [] → ownModule s (gaChip r.saddr) = true →
      ∀ src, sourceOf s r.saddr r.msgid = some src →
        exec (.replyReceive p rx r d) s = .next (answer s (settle (opposeDrain (answerMsg s src r.msgid r.status d)))))) ∧
  (∀ (s : State) (src : Nat) (id : W32) (st : BitVec 4) (a : W64), ownModule s (gaChip a) = true → gaCore a ≠ 0xFE →
    sourceOf s a id = some src → replyTo s ⟨a, id, st, 0⟩ = answerMsg s src id st []) ∧
  (∀ (s : State) (src : Nat) (id : W32) (st : BitVec 4) (d : List Byte),
    (findMsg s src id = none → answerMsg s src id st d = s) ∧
    (∀ m : Msg, findMsg s src id = some m → m.started = true → 1 < m.copies →
      answerMsg s src id st d = setMsg s { m with copies := m.copies - 1, status := if m.status = 0 then st else m.status }) ∧
    (∀ m : Msg, findMsg s src id = some m → m.started = true → m.copies ≤ 1 → m.dead = false → m.src < 72 → m.op ≠ 1 → m.status = 0 → st = 0 →
      answerMsg s src id st d = snapDone (readyOp (dropMsg s m.src m.msgid) m.src (.message m.msgid.toNat) false))) ∧
  (∀ (s : State) (src : Nat) (id : W32), live s = true →
    (∀ m : Msg, findMsg s src id = some m → m.started = true → m.dead = false → m.src < 72 → m.op ≠ 1 →
      exec (.messageTimeout src id) s = .next (answer s (settle (snapDone (messageFault
        (readyOp (dropMsg s m.src m.msgid) m.src (.message m.msgid.toNat) false) m 8))))) ∧
    (findMsg s src id = none → Quiet s → exec (.messageTimeout src id) s = .next (answer s s))) ∧
  (∀ (s : State) (p : PortId) (op : Fin 3) (a n : Nat) (d : List Byte), live s = true →
    ((portAt s p).st ≠ 4 ∨ (portAt s p).gen = 3 → Quiet s → exec (.legacyRequestReceive p op a n d) s = .next (answer s s)) ∧
    ((portAt s p).st = 4 → portIsUp (portAt s p) = true → (portAt s p).gen ≠ 3 → (portAt s p).gen ≠ 0 →
      (op = 2 → Quiet s → exec (.legacyRequestReceive p op a n d) s = .next (answer s
        (setPort s p { portAt s p with legacyOut := (portAt s p).legacyOut ++ [⟨3, 0, 0, []⟩] }))) ∧
      (∀ c off k b, op = 0 → k = bits (portAt s p).legacy 16 4 → b = BitVec.ofNat 8 (bits (portAt s p).legacy 8 8) →
        physicalOf s (a / 2 ^ 28 % 64) = some c → aperLocal (a % 2 ^ 28) = some off → routes s (72 + p.val) c = true →
        exec (.legacyRequestReceive p op a n d) s = .next (answer s (settle (deliverCore s (legacyHdr s p k off d.length (some b)) c off d (some k)
          ((physicalOf s (bits (portAt s p).legacy 20 6)).map (fun x => (x, b)))))))))

/-! ### Fault detection and opposition -/

/-- An OPPOSE flit that comes in order acts by its kind (R242, Table 13.4), and verdict frames (R370, R371): a frame counts only on an up HL3
port; the first of its tag and count is forwarded on every other up HL3 port; where VERDICT_RX is set, it withholds its count for each bound
context of its tag that has not committed it, and where one has committed it, the module enters tempo lost with a late-verdict fault (0x27).
(Model's choices: log 9, 16.) -/
def Obligations.VerdictsWithholdOrLoseTheTempo : Prop :=
  (∀ (s : State) (p : PortId) (o : OpposeRx) (i : Instr),
    i = .opposeSigReceive p o ∨ i = .opposeLogReceive p o ∨ i = .mirrorReceive p o ∨ i = .verdictReceive p o → live s = true →
    TakesNext s p o.rx.seq → controlGood o.rx 0xA 0 o.frame.toNat = true →
    exec i s = .next (answer s (settle (opposeArrive (flitTaken s p) p o.frame)))) ∧
  ∀ (s : State) (p : PortId) (f : Flit256) (tag : Nat) (key : W16 × W64) (u : State), bits f 64 8 = 3 →
    tag = opArg f % 65536 → key = (BitVec.ofNat 16 tag, opCount f) →
    u = (if s.fab.verdicts.contains key then s
      else sendControlAll { s with fab := { s.fab with verdicts := key :: s.fab.verdicts } } ((hl3UpPorts s).filter (fun q => decide (q ≠ p.val))) 0xA
        (verdictPayload (opCount f) (opArg f / 65536) tag)) →
    (portIsUp (portAt s p) = false ∨ (portAt s p).gen ≠ 3 → opposeArrive s p f = s) ∧
    (portIsUp (portAt s p) = true → (portAt s p).gen = 3 →
      (bit s.saf.ctrl 1 = false ∨ key ∈ s.fab.verdictSeen → opposeArrive s p f = u) ∧
      (bit s.saf.ctrl 1 = true → key ∉ s.fab.verdictSeen → ∀ t, t = opposeArrive s p f →
        (∀ k < 16, jobTag s k = some tag → (ctxAt s k).st ≠ .unbound → opCount f ∉ (ctxAt s k).commits →
          ∀ n ∈ ctxCounts s k [opCount f], ∃ m ∈ (ctxAt t k).marks, m.1 = n) ∧
        ((∃ k < 16, jobTag s k = some tag ∧ (ctxAt s k).st ≠ .unbound ∧ opCount f ∈ (ctxAt s k).commits) →
          t.tmp = { s.tmp with status := orBit (orBit s.tmp.status 11) 14, lost := true, resumeAt := none } ∧
          ∃ e ∈ t.saf.reports, e.code = 0x27 ∧ e.valid = true) ∧
        ((∀ k < 16, jobTag s k = some tag → (ctxAt s k).st ≠ .unbound → opCount f ∉ (ctxAt s k).commits) → t.tmp = s.tmp)))

/-- Opposition frames (R380 to R382): frames not from the opposition peer are ignored; SIG frames of one count are collected; once both
sides' signatures are there, equal ones end the comparison, and a difference raises 0x20 on this side, names the lowest differing core
and freezes its log; LOG chunks of the named core are collected, and the first difference is found after the last; and MIRROR items act on a
FOLLOW alone.
(Model's choices: log 9.) -/
def Obligations.OppositionFramesAreCompared : Prop :=
  (∀ (s : State) (p : PortId) (f : Flit256), bits f 64 8 ≤ 2 → fromPeer s p = false → opposeArrive s p f = s) ∧
  (∀ (s : State) (p : PortId) (f : Flit256) (x y : Saf), bits f 64 8 = 0 → fromPeer s p = true → opPart f < 2 →
    x = (if s.saf.peerCount = opCount f then s.saf else { s.saf with peerCount := opCount f, peerParts := 0, peerSigs := [], peerServ := none }) →
    x.peerParts ≠ 4 →
    y = { x with
      peerSigs := (List.range 32).foldl (fun t i => tset 0 t (32 * opPart f + i) (opVal f i)) x.peerSigs
      peerServ := if opPart f = 0 then some (BitVec.ofNat 32 (opArg f)) else x.peerServ
      peerParts := x.peerParts ||| (opPart f + 1) } →
    (y.sigSent = false ∨ y.peerParts ≠ 3 ∨ y.peerCount ≠ y.sigCount → opposeArrive s p f = { s with saf := y }) ∧
    (y.sigSent = true → y.peerParts = 3 → y.peerCount = y.sigCount →
      ((∀ n < 64, y.ownSigs.getD n 0 = tget 0 y.peerSigs n) → y.peerServ = some y.ownServ →
        opposeArrive s p f = { s with saf := { y with peerParts := 4, sigDone := some y.sigCount } }) ∧
      (∀ core, core = ((List.range 64).filter (fun n => decide (y.ownSigs.getD n 0 ≠ tget 0 y.peerSigs n))).headD 0 →
        (∃ n < 64, y.ownSigs.getD n 0 ≠ tget 0 y.peerSigs n) ∨ y.peerServ ≠ some y.ownServ → y.frozen = false →
        ∀ t, t = opposeArrive s p f → t.saf.frozen = true ∧ t.saf.oppCore = core ∧ t.saf.oppFirstCnt = y.sigCount ∧
          t.saf.oppMismatch = satAdd y.oppMismatch 1 ∧
          (∃ e : FlogEnt, t.saf.reports = y.reports ++ [e] ∧ e.code = 0x20 ∧ e.valid = true) ∧
          ∀ k ∈ moduleScope s, ∀ n ∈ ctxCounts s k (attributed s), ∃ m ∈ (ctxAt t k).marks, m.1 = n))) ∧
  (∀ (s : State) (p : PortId) (f : Flit256) (x : Saf), bits f 64 8 = 1 → fromPeer s p = true →
    x = { s.saf with
      peerLog := (List.range 32).foldl (fun t i => tset 0 t (32 * opIndex f + i) (opVal f i)) s.saf.peerLog, peerChunks := s.saf.peerChunks + 1 } →
    (s.saf.frozen = false ∨ opPart f ≠ s.saf.oppCore ∨ opCount f ≠ s.saf.oppFirstCnt ∨ 128 ≤ opIndex f → opposeArrive s p f = s) ∧
    (s.saf.frozen = true → opPart f = s.saf.oppCore → opCount f = s.saf.oppFirstCnt → opIndex f < 128 →
      opposeArrive s p f = { s with saf := if x.peerChunks = 128 then { x with oppFirst := oppFirstWord x } else x })) ∧
  (∀ (s : State) (p : PortId) (f : Flit256), bits f 64 8 = 2 → fromPeer s p = true →
    (following s = false → opposeArrive s p f = s) ∧
    (following s = true → ∀ c k, physicalOf s (opItem f / 2 ^ 56 % 64) = some c → ctxOfCore s c = some k →
      (opItem f / 2 ^ 62 = 0 → opposeArrive s p f =
        mirrorWrite s k c (opItem f / 2 ^ 56 % 64) (opItem f / 2 ^ 39 % 2 ^ 17) (leBytes 64 (bits f 192 512))) ∧
      (opItem f / 2 ^ 62 = 3 → opposeArrive s p f = s)))

/-- The commands of fault detection (R360, R376, R378, R379, R381, R387): EN of SAF_OPP_CTRL is refused with CFG_ERR unless every condition of
R379 holds; a read of SAF_OPP_FIRST unfreezes the log; SAF_CHOICE_CFG takes a LOG2 from 8 to 20, and EN from 0 to 1 restarts the ring; a
self-test visit keeps the core's store, sync objects and the tiers, and reports a latent fault as 0x23; LATENT_LATE is set past 3,600 s; and a
checker that does not flag as a boundary wait begins raises 0x23, which withholds the ended worked tempo and the next.
(Model's choices: log 21, 51.) -/
def Obligations.FaultDetectionIsCommanded : Prop :=
  (∀ (s : State) (fn : FnId) (v : W32) (peer : OppPeer), live s = true → isSteward s fn = true →
    (bit v 0 = false ∨ (peer.sameOrder = true ∧ peer.sameResults = true ∧ peer.peerRoleFollow ≠ bit v 1 ∧ portOpp (portAt s 15) = true ∧
        (portAt s 15).gen = 3 ∧ 2 ≤ (portAt s 15).st ∧ (portAt s 15).st ≤ 4 ∧ keepsCount s = true ∧
        ∀ k < 16, peer.digests.getD k 0 = ctxDigest s k) →
      exec (.oppositionEnable fn v peer) s = .next (answer s { s with saf := { s.saf with oppCtrl := v &&& 3 } })) ∧
    (bit v 0 = true → (peer.sameOrder = false ∨ peer.sameResults = false ∨ peer.peerRoleFollow = bit v 1 ∨ portOpp (portAt s 15) = false ∨
        (portAt s 15).gen ≠ 3 ∨ (portAt s 15).st < 2 ∨ 4 < (portAt s 15).st ∨ keepsCount s = false ∨
        ∃ k < 16, peer.digests.getD k 0 ≠ ctxDigest s k) →
      exec (.oppositionEnable fn v peer) s = .next (answer s { s with saf := { s.saf with status := orBit s.saf.status 10 } }))) ∧
  (∀ (s : State) (fn : FnId), live s = true → exec (.safOppFirstRead fn) s =
    .next (answer s { s with readData := s.saf.oppFirst, saf := { s.saf with frozen := false } })) ∧
  (∀ (s : State) (fn : FnId) (v : W32), live s = true → isSteward s fn = true →
    (bits v 0 5 < 8 ∨ 20 < bits v 0 5 →
      exec (.choiceRingEnable fn v) s = .next (answer s { s with saf := { s.saf with status := orBit s.saf.status 10 } })) ∧
    (8 ≤ bits v 0 5 → bits v 0 5 ≤ 20 →
      (bit v 31 = true → bit s.saf.choiceCfg 31 = false → exec (.choiceRingEnable fn v) s = .next (answer s { s with saf := { s.saf with
        choiceCfg := v &&& 0x8000001F, choiceOn := true, choiceBase := join64 s.saf.choiceHi s.saf.choiceLo, choiceLog2 := bits v 0 5
        choicePos := 0, choiceSeq := 0, choicePhase := true } })) ∧
      (bit v 31 = false ∨ bit s.saf.choiceCfg 31 = true → exec (.choiceRingEnable fn v) s = .next (answer s { s with saf := { s.saf with
        choiceCfg := v &&& 0x8000001F, choiceOn := bit v 31 } })))) ∧
  (∀ (s : State) (c : CoreId) (latent : Bool), live s = true →
    (enabledCore s c = false ∨ (coreAt s c).maint = false ∨ (coreAt s c).mnext.isSome = true ∨ s.svc.released = false →
      exec (.selfTestVisit c latent) s = .next (answer s s)) ∧
    (enabledCore s c = true → (coreAt s c).maint = true → (coreAt s c).mnext = none → s.svc.released = true →
      ∃ t, exec (.selfTestVisit c latent) s = .next t ∧ (coreAt t c).store = (coreAt s c).store ∧ (coreAt t c).syncs = (coreAt s c).syncs ∧
        t.tiers = s.tiers ∧ (coreAt t c).visited = some s.now ∧
        (latent = false → t.saf = s.saf) ∧
        (latent = true → t.saf.checkerFails = satAdd s.saf.checkerFails 1 ∧
          ∃ e : FlogEnt, t.saf.reports = s.saf.reports ++ [e] ∧ e.code = 0x23 ∧ e.valid = true))) ∧
  (∀ (s : State), live s = true →
    (3600 < (visitAge s).1.toNat → exec .latentLate s = .next (answer s { s with saf := { s.saf with status := orBit s.saf.status 8 } })) ∧
    ((visitAge s).1.toNat ≤ 3600 → exec .latentLate s = .next (answer s s))) ∧
  (∀ (s : State) (c : CoreId) (st : Stream) (w : W128) (k : Fin 7) (h : Byte), live s = true →
    ∃ u, exec (.boundary c st w none) s = .next (answer s (settle u)) ∧
      ((coreAt s c).boundary = true ∨ (coreAt u c).boundary = false →
        exec (.boundary c st w (some (k, h))) s = .next (answer s (settle u))) ∧
      ((coreAt s c).boundary = false → (coreAt u c).boundary = true →
        ∃ t, exec (.boundary c st w (some (k, h))) s = .next (answer s (settle t)) ∧ t.tmp = { u.tmp with checkNext := some 768 } ∧
          (∃ e : FlogEnt, t.saf.reports = u.saf.reports ++ [e] ∧ e.code = 0x23 ∧ e.valid = true) ∧
          ∀ j ∈ moduleScope u, ∀ n ∈ ctxCounts u j (attributed u), ∃ m ∈ (ctxAt t j).marks, m.1 = n))

/-! ### Serving -/

/-- Selection lanes (R295, R296): a set TRIG of a running context's entry starts its lane and is cleared, in
the arrival step of a running core; a lane that has read its last line
sends its candidates and sets DONE; the candidate of a line has the largest score, and among equal scores the smallest vocabulary index.
(Model's choices: log 19.) -/
def Obligations.SelectionTakesTheBestCandidate : Prop :=
  (∀ (s : State) (k : CtxId) (n : Nat) (e : SelEntry) (c : Nat), live s = true → Quiet s → selEntry s k n = some e → physicalOf s e.core = some c →
    ((ctxAt s k).st = .running → (syncAt (coreAt s c) e.trig).val ≠ 0 → selId k n ∉ s.srv.selRun →
      (s.lock.gated = false → (coreAt s c).maint = false → exec (.selectionLaneStart k n) s = .next (answer s (
        let u := updCore s c (fun x => { x with sigs := insertSig ⟨16 * clk s c + 14, .value 0, e.trig⟩ x.sigs })
        { u with srv := { u.srv with selRun := u.srv.selRun ++ [selId k n] } }))) ∧
      (s.lock.gated = true ∨ (coreAt s c).maint = true → (coreAt s c).badSync.contains e.trig = false →
        exec (.selectionLaneStart k n) s = .next (answer s (
          let u := updCore s c (fun x => setSync x e.trig { syncAt x e.trig with val := 0 })
          { u with srv := { u.srv with selRun := u.srv.selRun ++ [selId k n] } })))) ∧
    ((ctxAt s k).st ≠ .running ∨ (syncAt (coreAt s c) e.trig).val = 0 ∨ selId k n ∈ s.srv.selRun →
      exec (.selectionLaneStart k n) s = .next (answer s s))) ∧
  (∀ (s : State) (k : CtxId) (n : Nat) (e : SelEntry) (c : Nat) (d : ServDecl) (r : GroupRec), live s = true →
    selEntry s k n = some e → servDecl s k = some d → physicalOf s e.core = some c → d.groups[e.group]? = some r →
    (selId k n ∈ s.srv.selRun → exec (.selectionLaneDone k n) s = .next (answer s (settle (
      let u := forAll (List.range e.rows) s (fun s i => selRow s k c d e.group r e (e.row0 + i))
      let v := { u with srv := { u.srv with selRun := u.srv.selRun.filter (fun i => decide (i ≠ selId k n)), selDone := u.srv.selDone ++ [selId k n] } }
      effectAt v c 14 (clk v c) (.value 1) e.done)))) ∧
    (selId k n ∉ s.srv.selRun → Quiet s → exec (.selectionLaneDone k n) s = .next (answer s s))) ∧
  (∀ (key : SelKey) (vocab base : Nat) (d : Line) (b : Option (Int × Nat)) (sc : Int) (v : Nat), lineBest key vocab base d b = some (sc, v) →
    (∀ i < 32, base + i < vocab → score key (base + i) (BitVec.ofNat 16 (bits d (16 * i) 16)) ≤ sc ∧
      (score key (base + i) (BitVec.ofNat 16 (bits d (16 * i) 16)) = sc → v ≤ base + i)) ∧
    (b = some (sc, v) ∨ ∃ i < 32, base + i < vocab ∧ v = base + i ∧ score key (base + i) (BitVec.ofNat 16 (bits d (16 * i) 16)) = sc))

/-- Decisions, token doorbells, prompts and groups (R279, R284, R294, R297, R300, R303, R310, R329, R375): a group whose sampled rows all have
their candidates is decided once, SEL_FLAG is set and the next step prepared; a difference between twins raises 0x25 first; accepted drafts are
the longest prefix that equals the selections; a tail below the previous one, above the head, or for a lane the function may not write, is
ignored and counted; SRV_GROUPS is refused where it takes a lane that is not FREE or a group that another context owns; a prompt that has come
fills its FEEDING lane; and a slot that is not LOADING ignores the end of a read.
(Model's choices: log 33, 35, 47, 67.) -/
def Obligations.DecisionsAndTokenRings : Prop :=
  (∀ (s : State) (g : GroupId) (k : Nat) (d : ServDecl) (r : GroupRec) (rows : List Nat), live s = true → groupCtx s g = some k →
    servDecl s k = some d → groupRec s k g = some r → rows = sampledRows s d g r →
    (s.tmp.working = false ∨ (ctxAt s k).ranNow = false ∨ (ctxAt s k).parked = true ∨ g.val ∈ s.srv.decided ∨ groupReady s k d g rows = false →
      ∀ twin, Quiet s → exec (.groupDecision g twin) s = .next (answer s s)) ∧
    (s.tmp.working = true → (ctxAt s k).ranNow = true → (ctxAt s k).parked = false → g.val ∉ s.srv.decided → groupReady s k d g rows = true →
      following s = false → (ctxAt s k).discardNext = false →
      exec (.groupDecision g none) s = .next (answer s (settle (
        let u := { s with srv := { s.srv with
          decided := s.srv.decided ++ [g.val]
          sigToks := rows.foldl (fun (t : Tbl W32) row => tset 0xFFFFFFFF t (g.val * 2048 + row) (rowToken s g row)) s.srv.sigToks } }
        prepGroup (setSelFlag (forAll (List.range r.lanes) u (fun s i => decideLane s k g r i)) r) k d g r)))) ∧
    (s.tmp.working = true → (ctxAt s k).ranNow = true → (ctxAt s k).parked = false → g.val ∉ s.srv.decided → groupReady s k d g rows = true →
      ∀ twin, ∃ t, exec (.groupDecision g (some twin)) s = .next (answer s (settle t)) ∧
        ∃ u, (∃ e : FlogEnt, u.saf.reports = s.saf.reports ++ [e] ∧ e.code = 0x25 ∧ e.valid = true) ∧
          (∀ n ∈ ctxCounts s k (attributed s), ∃ m ∈ (ctxAt u k).marks, m.1 = n) ∧ t = decideGroup u k d g r none)) ∧
  (∀ (ds ts : List W32) (m : Nat), m ≤ ds.length → m ≤ ts.length → ds.take m = ts.take m →
    m = ds.length ∨ m = ts.length ∨ ds[m]? ≠ ts[m]? → accepted ds ts = m) ∧
  (∀ (s : State) (fn : FnId) (off size : Nat) (val : W64), live s = true →
    (hostReach s fn = false → exec (.tokenDoorbell fn off size val) s = .next (answer s s)) ∧
    (hostReach s fn = true → ∀ x, x = laneAt s (off / 8) →
      (size = 8 → off % 8 = 0 → off < 4096 → (groupCtx s (off / 8 / 128)).isSome = true → groupCtx s (off / 8 / 128) = fnCtx s fn → x.st ≠ .free →
        x.tail.toNat ≤ val.toNat → val.toNat ≤ x.head.toNat →
        exec (.tokenDoorbell fn off size val) s = .next (answer s (setLane s (off / 8) { x with tail := val }))) ∧
      (size ≠ 8 ∨ off % 8 ≠ 0 ∨ 4096 ≤ off → exec (.tokenDoorbell fn off size val) s = .next (answer s s)) ∧
      (∀ k, size = 8 → off % 8 = 0 → off < 4096 → fnCtx s fn = some k →
        (groupCtx s (off / 8 / 128) ≠ fnCtx s fn ∨ x.st = .free ∨ val.toNat < x.tail.toNat ∨ x.head.toNat < val.toNat) →
        exec (.tokenDoorbell fn off size val) s = .next (answer s (updSrvCtx
          { s with srv := { s.srv with status := orBit s.srv.status 1 } } k (fun y => { y with tailIgn := satAdd y.tailIgn 1 })))))) ∧
  (∀ (s : State) (fn : FnId) (v : W32) (k : Nat), live s = true → isSteward s fn = true → k = bits s.srv.ctxSel 0 4 →
    ((∃ g < 4, ∃ i < 128, bit (tget {} s.srv.groups k).eff g = true ∧ bit v g = false ∧ (laneAt s (128 * g + i)).st ≠ .free) ∨
      (∃ g < 4, ∃ o < 16, bit v g = true ∧ o ≠ k ∧ (bit (tget {} s.srv.groups o).acc g = true ∨ bit (tget {} s.srv.groups o).eff g = true)) →
      exec (.srvGroupsWrite fn v) s = .next (answer s { s with srv := { s.srv with status := orBit s.srv.status 3 } })) ∧
    ((∀ g < 4, ∀ i < 128, bit (tget {} s.srv.groups k).eff g = true → bit v g = false → (laneAt s (128 * g + i)).st = .free) →
      (∀ g < 4, ∀ o < 16, bit v g = true → o ≠ k → bit (tget {} s.srv.groups o).acc g = false ∧ bit (tget {} s.srv.groups o).eff g = false) →
      exec (.srvGroupsWrite fn v) s = .next (answer s { s with srv := { s.srv with
        groups := tset {} s.srv.groups k { tget {} s.srv.groups k with acc := v &&& 0xF } } }))) ∧
  (∀ (s : State) (l : LaneId) (f : Nat) (x : Lane) (toks : List W32), live s = true → x = laneAt s l → ctxFn s x.ctx = some f →
    toks = (List.range x.feedLen).map (fun i => BitVec.ofNat 32 (readLe (hostMem s f) (x.feedAddr.toNat + 4 * i) 4)) →
    (x.st = .feeding → x.fed = false → exec (.promptReadComplete l true) s =
      .next (answer s (setLane s l { x with com := ⟨0, toks, last16 toks⟩, fed := true }))) ∧
    (x.st ≠ .feeding ∨ x.fed = true → ∀ ok, exec (.promptReadComplete l ok) s = .next (answer s s)) ∧
    exec (.promptReadComplete l false) s = .next (answer s s)) ∧
  (∀ (s : State) (i : Fin 64) (ok : Bool), live s = true → Quiet s → (patchAt s i).st ≠ .loading ∨ (patchAt s i).verified = true →
    exec (.patchImageVerified i ok) s = .next (answer s s)) ∧
  (∀ (s : State) (i : Fin 64) (id : Nat) (c : Cmd) (j : Nat) (gen : W16) (h : W64) (n : Nat) (key : PubKey) (sig : W64), live s = true →
    (patchAt s i).st = .loading → (patchAt s i).verified = false → (patchAt s i).cmd = some id → findCmd s id = some c →
    c.kind = .patchLoad j gen h n key sig →
    let zeroed := setPatch (writePatch s (patchAt s i).ctx i (List.replicate n 0)) i {}
    let data := readBytes (hostMem s c.fn) h.toNat n
    let block := sigBlock s c.fn sig
    let good := loadVerifies ⟨2, n, (patchAt s i).ident.toNat, gen.toNat, keyDigest key⟩ key block data
    exec (.patchImageVerified i false) s = .next (answer s (settle (finishCmd zeroed c.id 0x15 0 (countNow s)))) ∧
    (good = false → exec (.patchImageVerified i true) s = .next (answer s (settle (finishCmd zeroed c.id 9 0 (countNow s))))) ∧
    (good = true → exec (.patchImageVerified i true) s = .next (answer s (settle (updCmd
      (setPatch (writePatch s (patchAt s i).ctx i data) i { patchAt s i with verified := true }) c.id (fun c => { c with
        started := true, good := some (digestOf (logRecord block (signedMessage block data) 2 i 0 0 n)) }))))))

/-- Shuttles (R305, R306, Tables 10.14, 10.15): an OFFER before its admission is held; one for a lane that waits for it is refused with 0x0B on
another job tag or KV format word, with 4 where its KVLEN is not below LIMIT; a GRANT, state record or ACK counts only at its step and under its
job tag; a record that fails its checks ends the shuttle; a side that does not take its next step in time ends it with 0x0D; and on a failure
the destination's lane ends and its ADMIT completes with the status, while the source's last record is an END with cause 5.
(Model's choices: log 34, 9.) -/
def Obligations.ShuttlesTakeTheirSteps : Prop :=
  (∀ (s : State) (chip : BitVec 12) (job : W16) (ident kvfmt : W64) (kvlen : BitVec 24), live s = true →
    (shuttleLane s .landing chip.toNat ident = none → Quiet s → exec (.shuttleOfferReceive chip job ident kvfmt kvlen) s =
      .next (answer s { s with srv := { s.srv with offers := s.srv.offers ++ [⟨chip, ident, job, kvfmt, kvlen.toNat, s.now⟩] } })) ∧
    (∀ l d, shuttleLane s .landing chip.toNat ident = some l → servDecl s (laneAt s l).ctx = some d →
      ((laneAt s l).shuttle.step ≠ 2 → Quiet s → exec (.shuttleOfferReceive chip job ident kvfmt kvlen) s = .next (answer s s)) ∧
      ((laneAt s l).shuttle.step = 2 →
        (shuttleTag s l job = false ∨ kvfmt ≠ d.kvfmt →
          exec (.shuttleOfferReceive chip job ident kvfmt kvlen) s = .next (answer s (settle (shuttleAbort s l 0x0B)))) ∧
        (shuttleTag s l job = true → kvfmt = d.kvfmt → (laneAt s l).limit ≤ kvlen.toNat →
          exec (.shuttleOfferReceive chip job ident kvfmt kvlen) s = .next (answer s (settle (shuttleAbort s l 4)))) ∧
        (shuttleTag s l job = true → kvfmt = d.kvfmt → kvlen.toNat < (laneAt s l).limit →
          exec (.shuttleOfferReceive chip job ident kvfmt kvlen) s = .next (answer s (settle (
            let x := laneAt s l
            let u := forAll (List.range d.shards) s (fun s sh => forAll (List.range (shipBlocks d kvlen.toNat)) s (fun s b =>
              kvAllocate s x.ctx d x sh b))
            let n := shipCount d kvlen.toNat
            let addrs := (List.range n).map (shuttleBlock u d x kvlen.toNat)
            sendGrant (setLane u l { x with
              com := { x.com with kvlen := kvlen.toNat }
              shuttle := { x.shuttle with step := 5, grants := addrs, todo := if d.coded then List.range n else [] } }) l d addrs))))))) ∧
  (∀ (s : State) (chip : BitVec 12) (job : W16) (ident : W64) (addrs : List W64), live s = true →
    (shuttleLane s .shipping chip.toNat ident = none → Quiet s → exec (.shuttleGrantReceive chip job ident addrs) s = .next (answer s s)) ∧
    (∀ l d n, shuttleLane s .shipping chip.toNat ident = some l → servDecl s (laneAt s l).ctx = some d → n = shipCount d (laneAt s l).com.kvlen →
      ((laneAt s l).shuttle.step ≠ 3 → Quiet s → exec (.shuttleGrantReceive chip job ident addrs) s = .next (answer s s)) ∧
      ((laneAt s l).shuttle.step = 3 → shuttleTag s l job = false →
        exec (.shuttleGrantReceive chip job ident addrs) s = .next (answer s (settle (shuttleAbort s l 0x0B)))) ∧
      ((laneAt s l).shuttle.step = 3 → shuttleTag s l job = true → addrs.length = n →
        exec (.shuttleGrantReceive chip job ident addrs) s = .next (answer s (settle (
          let u := setLane s l { laneAt s l with shuttle := { (laneAt s l).shuttle with
            grants := addrs, step := 4, putsLeft := if d.coded then 0 else n, todo := if d.coded then List.range n else [] } }
          if d.coded then u else forAll (List.range n) u (fun s o => putBlock s l d o))))))) ∧
  (∀ (s : State) (chip : BitVec 12) (job : W16) (ident : W64) (record : BitVec 1024) (puts : Nat), live s = true →
    (shuttleLane s .landing chip.toNat ident = none → Quiet s →
      exec (.shuttleStateRecordReceive chip job ident record puts) s = .next (answer s s)) ∧
    (∀ l d cause, shuttleLane s .landing chip.toNat ident = some l → servDecl s (laneAt s l).ctx = some d → legacyPeer s chip.toNat = false →
      (laneAt s l).shuttle.step = 5 → cause = recordCause (laneAt s l) d (leBytes 128 record.toNat) puts →
      (shuttleTag s l job = false →
        exec (.shuttleStateRecordReceive chip job ident record puts) s = .next (answer s (settle (shuttleAbort s l 0x0B)))) ∧
      (shuttleTag s l job = true → cause ≠ 0 →
        exec (.shuttleStateRecordReceive chip job ident record puts) s = .next (answer s (settle (shuttleAbort s l cause)))) ∧
      (shuttleTag s l job = true → cause = 0 →
        exec (.shuttleStateRecordReceive chip job ident record puts) s = .next (answer s (settle (shuttleLanded
          (setLane s l { laneAt s l with shuttle := { (laneAt s l).shuttle with
            record := some (recordState (leBytes 128 record.toNat), puts)
            puts := if d.coded then (laneAt s l).shuttle.puts else puts } }) l)))))) ∧
  (∀ (s : State) (chip : BitVec 12) (job : W16) (ident : W64) (st : Byte), live s = true →
    (shuttleLane s .shipping chip.toNat ident = none → shuttleLane s .landing chip.toNat ident = none → Quiet s →
      exec (.shuttleAckReceive chip job ident st) s = .next (answer s s)) ∧
    (∀ l, shuttleLane s .shipping chip.toNat ident = some l → shuttleTag s l job = true →
      (st ≠ 0 → exec (.shuttleAckReceive chip job ident st) s = .next (answer s (settle (shuttleFail s l st.toNat)))) ∧
      (st = 0 → (laneAt s l).shuttle.step = 6 → Quiet s → exec (.shuttleAckReceive chip job ident st) s =
        .next (answer s (setLane s l { laneAt s l with st := .ending, ended := true, shuttle := {} }))))) ∧
  (∀ (s : State) (l : LaneId), live s = true →
    ((laneAt s l).st = .shipping ∨ ((laneAt s l).st = .landing ∧ (laneAt s l).shuttle.step ≠ 6) →
      exec (.shuttleTimeout l) s = .next (answer s (settle (shuttleAbort s l 0x0D)))) ∧
    ((laneAt s l).st ≠ .shipping → (laneAt s l).st ≠ .landing ∨ (laneAt s l).shuttle.step = 6 → Quiet s →
      exec (.shuttleTimeout l) s = .next (answer s s))) ∧
  (∀ (s : State) (l status : Nat) (x : Lane), x = laneAt s l →
    (x.st = .shipping → shuttleFail s l status = setLane (dropAnswers s l) l { x with
      st := .ending, recs := x.recs ++ [endRecord 5 (afterLast x)], ended := true, shuttle := {} }) ∧
    (∀ id, x.st = .landing → x.cmd = some id → shuttleFail s l status = (
      let u := setLane (dropAnswers s l) l { x with st := .ending, recs := [], ended := true, shuttle := {}, cmd := none }
      finishCmd { u with srv := { u.srv with segs := u.srv.segs.filter (fun e => decide (e.1 ≠ x.shuttle.ident)) } } id status l (countNow s))))

/-! ### Host ports, contexts and rings -/

/-- Acceptance of the commands of Table 11.6 (R325, R326): nothing is fetched where no entry is new or the completion ring has no free entry;
an accepted command takes the next number and reserves a completion; a reserved field or another OPCODE completes it with status 0x01, and
otherwise it does what its command does. -/
def Obligations.AHostCommandIsAccepted : Prop :=
  ∀ (s : State) (i : Instr) (fn : FnId) (q : Fin 4) (hdr : BitVec 512) (op : Nat) (ok : Bool) (run : State → Nat → State),
    ringCmd i = some (fn, q, hdr, op, ok, run) → live s = true →
    (fetchable s fn q = false → Quiet s → exec i s = .next (answer s s)) ∧
    (fetchable s fn q = true → ∀ u, u = { updQp s fn q (fun p => { p with sqHead := (p.sqHead + 1) % sqSize p, open_ := p.open_ + 1 }) with
        cmds := s.cmds ++ [⟨s.nextCmd, fn, q, BitVec.ofNat 16 (bits hdr 0 16), bit hdr 31, (fnCtx s fn).getD 16, .other, false, none, false⟩]
        nextCmd := s.nextCmd + 1 } →
      (bits hdr 16 8 = op → bits hdr 24 7 = 0 → bits hdr 32 480 = 0 → ok = true → exec i s = .next (answer s (settle (run u s.nextCmd)))) ∧
      (bits hdr 16 8 ≠ op ∨ bits hdr 24 7 ≠ 0 ∨ bits hdr 32 480 ≠ 0 ∨ ok = false →
        exec i s = .next (answer s (settle (finishCmd u s.nextCmd 1 0 0)))))

/-- What accepted commands check, and in which order (R279, R311, R323, R326, R331, R333, R334, R356, R382): no context, then its state, then
the command's own checks, the first that fails giving the status; a command that passes them waits for its edge, its start or its host read.
(Model's choices: log 32, 38, 66, 67.) -/
def Obligations.HostCommandsFollowTheirChecks : Prop :=
  (∀ (s : State) (id k none_ : Nat) (ok : CtxSt → Bool) (run : State → Nat → State),
    forCtx s id none none_ ok run = finishCmd s id none_ 0 0 ∧
    (ok (ctxAt s k).st = false → forCtx s id (some k) none_ ok run = finishCmd s id 0x11 0 0) ∧
    (ok (ctxAt s k).st = true → forCtx s id (some k) none_ ok run = run (unpark (updCmd s id (fun c => { c with ctx := k })) k) k)) ∧
  (∀ (s : State) (id k : Nat) (follow : Bool) (run : State → State),
    (ctxGroups s k = [] → forServing s id k follow run = finishCmd s id 1 0 (countNow s)) ∧
    (ctxGroups s k ≠ [] → follow = true → following s = true → forServing s id k follow run = finishCmd s id 0x11 0 (countNow s)) ∧
    (ctxGroups s k ≠ [] → follow = false ∨ following s = false → forServing s id k follow run = run s)) ∧
  (∀ (s : State) (b : BitVec 1536) (id k : Nat),
    (keepsCount s = false ∨ bits b 0 64 < s.tmp.count.toNat + 2 ∨ (ctxAt s k).runAt ≠ none ∨ boltLoading s k = true →
      runRun s b id k = finishCmd s id 0x11 0 0) ∧
    (keepsCount s = true → s.tmp.count.toNat + 2 ≤ bits b 0 64 → (ctxAt s k).runAt = none → boltLoading s k = false →
      runRun s b id k = setCtx s k { ctxAt s k with runAt := some (bits b 0 64), runCmd := some id }) ∧
    (∀ x, (ctxAt s k).bolt = some x →
      (x.carry = true ∨ (bits b 0 64 ≠ 0 ∧ bits b 0 64 < s.tmp.t.toNat) ∨ (ctxAt s k).stopAt ≠ none → stopRun s b id k = finishCmd s id 0x11 0 0) ∧
      (x.carry = false → (ctxAt s k).stopAt = none → bits b 0 64 = 0 → stopRun s b id k =
        setCtx s k { ctxAt s k with stopAt := some s.tmp.t.toNat, stopCmd := some id }) ∧
      (x.carry = false → (ctxAt s k).stopAt = none → s.tmp.t.toNat ≤ bits b 0 64 → bits b 0 64 ≠ 0 → stopRun s b id k =
        setCtx s k { ctxAt s k with stopAt := some (bits b 0 64), stopCmd := some id }))) ∧
  (∀ (s : State) (b : BitVec 1536) (id k : Nat),
    (inCtx s k (wlCore b) = none → wloadRun s b id k = finishCmd s id 0x13 0 0) ∧
    (∀ c, inCtx s k (wlCore b) = some c → storeOpen s c (wlKind b) = false → wloadRun s b id k = finishCmd s id 0x13 0 0) ∧
    (∀ c, inCtx s k (wlCore b) = some c → storeOpen s c (wlKind b) = true →
      ((wlKind b < 2 ∧ inRegion (wlKind b) (wlAddr b) (wlLen b) = false) ∨ (wlKind b = 2 ∧ wlLen b % 1024 ≠ 0) →
        wloadRun s b id k = finishCmd s id 0x12 0 0) ∧
      ((wlKind b < 2 → inRegion (wlKind b) (wlAddr b) (wlLen b) = true) → (wlKind b = 2 → wlLen b % 1024 = 0) →
        (wlLen b = 0 → wloadRun s b id k = finishCmd s id 0 0 0) ∧
        (wlLen b ≠ 0 → ctxKey s k (wlKey b) = none → wloadRun s b id k = finishCmd s id 0x14 0 0) ∧
        (∀ key, wlLen b ≠ 0 → ctxKey s k (wlKey b) = some key → wloadRun s b id k = updCmd s id (fun x => { x with
          kind := .wload (wlKind b) c (wlAddr b) (wlLen b) (BitVec.ofNat 64 (wlHost b)) key (BitVec.ofNat 64 (wlSig b))
            (if wlAen b then some (BitVec.ofNat 8 (wlArrive b)) else none) }))))) ∧
  (∀ (s : State) (b : BitVec 1536) (f id k : Nat),
    (inCtx s k (rdCore b) = none → rdoutRun s b f id k = finishCmd s id 0x13 0 0) ∧
    (∀ c, inCtx s k (rdCore b) = some c → storeOpen s c (rdKind b) = false → rdoutRun s b f id k = finishCmd s id 0x13 0 0) ∧
    (∀ c, inCtx s k (rdCore b) = some c → storeOpen s c (rdKind b) = true →
      (inRegion (rdKind b) (rdAddr b) (rdLen b) = false → rdoutRun s b f id k = finishCmd s id 0x12 0 0) ∧
      (inRegion (rdKind b) (rdAddr b) (rdLen b) = true → rdLen b = 0 → rdoutRun s b f id k = finishCmd s id 0 0 0) ∧
      (∀ d bad t u, inRegion (rdKind b) (rdAddr b) (rdLen b) = true → rdLen b ≠ 0 →
        rdoutBytes s c (rdKind b) (rdAddr b) (rdLen b) = (d, bad, t) → u = setHostMem t f (writeBytes (hostMem t f) (rdHost b) d) →
        (bad = none → rdoutRun s b f id k = finishCmd u id 0 0 0) ∧
        (∀ o, bad = some o → rdoutRun s b f id k = finishCmd u id 0x18 o 0)))) ∧
  (∀ (s : State) (b : BitVec 1536) (id k : Nat),
    ((∃ l ∈ ctxLanes s k, laneFree s l = false) ∨ (ctxAt s k).runAt ≠ none ∨ boltLoading s k = true →
      boltRun s b id k = finishCmd s id 0x11 0 (countNow s)) ∧
    ((∀ l ∈ ctxLanes s k, laneFree s l = true) → (ctxAt s k).runAt = none → boltLoading s k = false →
      (ctxKey s k (bits b 128 3) = none → boltRun s b id k = finishCmd s id 0x14 0 (countNow s)) ∧
      (∀ key, ctxKey s k (bits b 128 3) = some key → boltRun s b id k = updCmd s id (fun x => { x with
        kind := .boltLoad (BitVec.ofNat 64 (bits b 64 64)) (bits b 0 32) key (BitVec.ofNat 64 (bits b 192 64)) })))) ∧
  (∀ (s : State) (b : BitVec 1536) (id k : Nat),
    (plLen b = 0 → patchLoadRun s b id k = finishCmd s id 0 0 (countNow s)) ∧
    (plLen b ≠ 0 → (∀ i ∈ poolSlots s k, (patchAt s i).st ≠ .free) → patchLoadRun s b id k = finishCmd s id 7 0 (countNow s)) ∧
    (∀ i, plLen b ≠ 0 → (poolSlots s k).find? (fun i => decide ((patchAt s i).st = .free)) = some i →
      ((∃ j ∈ slotsOf s k (plId b), plGen b ≤ (patchAt s j).gen.toNat) → patchLoadRun s b id k = finishCmd s id 8 0 (countNow s)) ∧
      ((∀ j ∈ slotsOf s k (plId b), (patchAt s j).gen.toNat < plGen b) →
        (patchSlotBytes (srvCtxAt s k) < plLen b → patchLoadRun s b id k = finishCmd s id 4 0 (countNow s)) ∧
        (plLen b ≤ patchSlotBytes (srvCtxAt s k) → ctxKey s k (plKey b) = none → patchLoadRun s b id k = finishCmd s id 0x14 0 (countNow s)) ∧
        (∀ key, plLen b ≤ patchSlotBytes (srvCtxAt s k) → ctxKey s k (plKey b) = some key → patchLoadRun s b id k =
          updCmd (setPatch s i { st := .loading, ctx := k, ident := BitVec.ofNat 16 (plId b), gen := BitVec.ofNat 16 (plGen b), cmd := some id }) id
            (fun c => { c with
              kind := .patchLoad i (BitVec.ofNat 16 (plGen b)) (BitVec.ofNat 64 (bits b 64 64)) (plLen b) key (BitVec.ofNat 64 (bits b 192 64)) }))))) ∧
  (∀ (s : State) (b : BitVec 1536) (id k f : Nat),
    ((∀ i ∈ slotsOf s k (bits b 0 16), (patchAt s i).st ≠ .ready) → patchDropRun s b id k = finishCmd s id 0x0A 0 (countNow s)) ∧
    (isSteward s f = false → hostcopyRun s b f id = finishCmd s id 0x10 0 0) ∧
    (isSteward s f = true → findTag s (bits b 0 16) = none → hostcopyRun s b f id = finishCmd s id 0x17 0 0) ∧
    (∀ h, isSteward s f = true → findTag s (bits b 0 16) = some h → hostcopyRun s b f id =
      repairAnswer (finishCmd (dropTag s (bits b 0 16)) id 0 0 0) h.block 2 (some (readBytes (hostMem s f) (bits b 64 64) 512))))

/-- How loads and host copies end (R331, R333): a WLOAD starts once, after every earlier one of its context that overlaps it, and writes its data;
a spool append without room completes with 0x16; a DMA error, a write that met a fenced line or block, or a signature that fails zeroes the destination and completes with 0x15 or 0x14; a
good load makes its arrival and completes with 0x00; a bolt load reads and checks its image; and a host copy not answered in 100 ms is a failed
source.
(Model's choices: log 24, 38, 66.) -/
def Obligations.LoadsRunToTheirEnd : Prop :=
  (∀ (s : State) (id : Nat) (ok : Bool), live s = true → Quiet s → findCmd s id = none →
    exec (.wloadStart id) s = .next (answer s s) ∧ exec (.loadVerifyComplete id ok) s = .next (answer s s)) ∧
  (∀ (s : State) (id : Nat) (c : Cmd) (d core a n : Nat) (h : W64) (key : PubKey) (sig : W64) (arr : Option Byte), live s = true →
    findCmd s id = some c → c.kind = .wload d core a n h key sig arr →
    (c.started = true ∨ wloadWaits s c = true → Quiet s → exec (.wloadStart id) s = .next (answer s s)) ∧
    (c.started = false → wloadWaits s c = false →
      (d = 2 → spoolFree (coreAt s core) < n / 1024 → exec (.wloadStart id) s = .next (answer s (settle (finishCmd s id 0x16 0 0)))) ∧
      (∀ data block good, d ≠ 2 ∨ n / 1024 ≤ spoolFree (coreAt s core) → data = readBytes (hostMem s c.fn) h.toNat n → block = sigBlock s c.fn sig →
        good = (if loadVerifies ⟨1, n, 0, 0, keyDigest key⟩ key block data then
          some (digestOf (logRecord block (signedMessage block data) 1 d (logicalOf s core) a n)) else none) →
        exec (.wloadStart id) s = .next (answer s (settle (updCmd (loadWrite s core d a data).2 id (fun x => { x with
          kind := .wload d core a n h key sig arr, started := true, torn := !(loadWrite s core d a data).1, good := good })))))) ∧
    (c.started = false → Quiet s → ∀ ok, exec (.loadVerifyComplete id ok) s = .next (answer s s)) ∧
    (c.started = true →
      (∀ ok, ok = false ∨ c.torn = true →
        exec (.loadVerifyComplete id ok) s = .next (answer s (settle (finishCmd (loadZero s c.kind) c.id 0x15 0 0)))) ∧
      (c.torn = false → c.good = none → exec (.loadVerifyComplete id true) s =
        .next (answer s (settle (finishCmd (loadZero s c.kind) c.id 0x14 0 0)))) ∧
      (∀ g u, c.torn = false → c.good = some g → u = (match arr with | some o => queueArrival s core o none | none => s) →
        (d ≠ 2 → exec (.loadVerifyComplete id true) s = .next (answer s (settle (finishCmd (addWeightLog u c.ctx g) c.id 0 0 0)))) ∧
        (d = 2 → ∀ tail, tail = BitVec.ofNat 32 ((spoolTail (coreAt u core) + n / 1024) % spoolChunks (coreAt u core)) →
          exec (.loadVerifyComplete id true) s = .next (answer s (settle (finishCmd
            (addWeightLog (updCore u core (fun x => setCwEff (setCw x 0x20C tail) 0x20C tail)) c.ctx g) c.id 0 0 0))))))) ∧
  (∀ (s : State) (id : Nat) (c : Cmd) (h : W64) (n : Nat) (key : PubKey) (sig : W64), live s = true → findCmd s id = some c →
    c.kind = .boltLoad h n key sig →
    (c.started = true → Quiet s → ∀ ok, exec (.loadVerifyComplete id ok) s = .next (answer s s)) ∧
    (c.started = false → exec (.loadVerifyComplete id false) s = .next (answer s (settle (finishCmd s c.id 0x15 0 (countNow s))))) ∧
    (c.started = false → exec (.loadVerifyComplete id true) s = .next (answer s (settle (
      let u := updCmd s c.id (fun x => { x with kind := .boltLoad h n key sig, started := true })
      loadImage u c.ctx c.id key (readBytes (hostMem s c.fn) h.toNat n) (sigBlock s c.fn sig)))))) ∧
  (∀ (s : State) (tag : W16), live s = true →
    (findTag s tag.toNat = none → Quiet s → exec (.hostCopyExpiry tag) s = .next (answer s s)) ∧
    (∀ h, findTag s tag.toNat = some h → exec (.hostCopyExpiry tag) s =
      .next (answer s (settle (repairAnswer (dropTag s tag.toNat) h.block 2 none)))))

/-- Rings, doorbells and vectors (R318, R328, R330, R339): a doorbell of another size or offset, with an index at or above the ring's size, or of a
disabled ring is ignored and counted, and another one moves its ring's index; a due vector that is not masked is sent, and then not
again for 2 µs; and a queue pair's fields
change only while it is disabled and every command has completed, with CFG_ERR otherwise.
(Model's choices: log 39.) -/
def Obligations.RingsTakeTheirDoorbells : Prop :=
  (∀ (s : State) (fn : FnId) (q : Fin 4) (off size : Nat) (val : W64) (i : Instr) (p : QPair) (on : Bool) (n : Nat), live s = true →
    p = qpAt (fnAt s fn) q →
    (i = .sqTailDoorbell fn q off size val ∧ on = qpEnabled p ∧ n = sqSize p) ∨ (i = .cqHeadDoorbell fn q off size val ∧ on = qpEnabled p ∧ n = cqSize p) ∨
      (i = .eventHeadDoorbell fn off size val ∧ on = evtEnabled (fnAt s fn) ∧ n = evtSize (fnAt s fn)) →
    (hostReach s fn = false → exec i s = .next (answer s s)) ∧
    (hostReach s fn = true → size ≠ 4 ∨ off ≠ 0 ∨ on = false ∨ n ≤ bits val 0 16 →
      exec i s = .next (answer s (setFn s fn { fnAt s fn with dbErr := satAdd (fnAt s fn).dbErr 1 }))) ∧
    (hostReach s fn = true → size = 4 → off = 0 → on = true → bits val 0 16 < n →
      (i = .sqTailDoorbell fn q off size val → exec i s = .next (answer s (updQp s fn q (fun p => { p with sqTail := bits val 0 16 })))) ∧
      (i = .cqHeadDoorbell fn q off size val → exec i s = .next (answer s (updQp s fn q (fun p => { p with cqHead := bits val 0 16 })))) ∧
      (i = .eventHeadDoorbell fn off size val → exec i s = .next (answer s (evtDrain 64
        (setFn s fn { fnAt s fn with evtHead := bits val 0 16 }) fn))))) ∧
  (∀ (s : State) (fn : FnId) (v : Fin 64), live s = true →
    (bit (fnAt s fn).msix v = true → bit (tget 0 (fnAt s fn).msixTable (4 * v.val + 3)) 0 = false → tget 0 (fnAt s fn).msixNext v ≤ s.now →
      exec (.msixSend fn v) s = .next (answer s { setFn s fn { fnAt s fn with
        msix := clrBit (fnAt s fn).msix v, msixNext := tset 0 (fnAt s fn).msixNext v (s.now + usSc 2 * Config.unitsPerSc) } with
        wire := s.wire ++ [.msix fn v] })) ∧
    (bit (fnAt s fn).msix v = false ∨ bit (tget 0 (fnAt s fn).msixTable (4 * v.val + 3)) 0 = true ∨ s.now < tget 0 (fnAt s fn).msixNext v →
      exec (.msixSend fn v) s = .next (answer s s))) ∧
  (∀ (s : State) (fn : FnId) (q : Fin 4) (v : W32) (p : QPair), live s = true → p = qpAt (fnAt s fn) q → hostReach s fn = true →
    (qpEnabled p = true → bit v 31 = true → exec (.queueEnable fn q v) s = .next (answer s { s with ctxStatus := orBit s.ctxStatus 0 })) ∧
    (qpEnabled p = true → bit v 31 = false → exec (.queueEnable fn q v) s =
      .next (answer s (updQp s fn q (fun p => qpSettle { p with qcfg := clrBit p.qcfg 31 })))) ∧
    (qpEnabled p = false → p.open_ ≠ 0 ∨ bits v 0 4 < 4 ∨ 12 < bits v 0 4 ∨ bits v 4 4 < 4 ∨
        (bit v 31 = true ∧ (bits p.sqLo 0 12 ≠ 0 ∨ bits p.cqLo 0 12 ≠ 0)) →
      exec (.queueEnable fn q v) s = .next (answer s { s with ctxStatus := orBit s.ctxStatus 0 })) ∧
    (qpEnabled p = false → p.open_ = 0 → 4 ≤ bits v 0 4 → bits v 0 4 ≤ 12 → 4 ≤ bits v 4 4 →
      (bit v 31 = true → bits p.sqLo 0 12 = 0 ∧ bits p.cqLo 0 12 = 0) →
      exec (.queueEnable fn q v) s = .next (answer s (updQp s fn q (fun p => { p with qcfg := v &&& 0x803F00FF })))))

/-- Contexts, functions and ports (R315, R321 to R324, R330, R336, R422, R430, R18, R170): a binding or a partition that the rules refuse sets
CFG_ERR, and an accepted one waits for the edge while its idle clusters wake; FORCE_STOP marks a RUNNING context; trace mode is refused where
port B is in use; a function-level reset disables the function's rings, abandons its commands and stops its context; a link that goes down, a
hot reset and a falling PERST reset every function of the port; and a register write acts on the block that its offset names, for a requester
that the block allows.
(Model's choices: log 39, 41, 46, 69.) -/
def Obligations.FunctionsPortsAndRegisters : Prop :=
  (∀ (s : State) (fn : FnId) (v : W32) (k : Nat), live s = true → isSteward s fn = true → k = bits s.ctxSel 0 4 →
    (bindOk s k v = false → exec (.contextBind fn v) s = .next (answer s { s with ctxStatus := orBit s.ctxStatus 0 })) ∧
    (bindOk s k v = true → exec (.contextBind fn v) s = .next (answer s (wakeAccepted (setCtx s k { ctxAt s k with
      bind := { (ctxAt s k).bind with acc := v &&& 0x800001F0 } }) k))) ∧
    ((ctxAt s k).st = .loaded ∨ (ctxAt s k).st = .running ∨ clustersOk s k (bits v 0 18) = false →
      exec (.partitionWrite fn v) s = .next (answer s { s with ctxStatus := orBit s.ctxStatus 0 })) ∧
    ((ctxAt s k).st = .unbound ∨ (ctxAt s k).st = .bound → clustersOk s k (bits v 0 18) = true →
      exec (.partitionWrite fn v) s = .next (answer s (wakeAccepted (setCtx s k { ctxAt s k with
        clusters := { (ctxAt s k).clusters with acc := v &&& 0x3FFFF } }) k))) ∧
    (bit v 0 = true → (ctxAt s k).st = .running → exec (.forceStop fn v) s = .next (answer s (setCtx s k { ctxAt s k with force := true }))) ∧
    (bit v 0 = false ∨ (ctxAt s k).st ≠ .running → exec (.forceStop fn v) s = .next (answer s s))) ∧
  (∀ (s : State) (k : Nat) (v : W32), (ctxAt s k).st = .running ∨ ((ctxAt s k).st = .loaded ∧ bit v 31 = true) → bindOk s k v = false) ∧
  (∀ (s : State) (fn : FnId) (v : W32), live s = true → isSteward s fn = true → bit v 2 = false →
    (bit v 0 = true → bit s.glb.traceCtrl 0 = false → s.glb.stewardB = true ∨ portBBound s = true ∨ portBVfs s = true →
      ∃ t, exec (.traceModeRequest fn v) s = .next t ∧ bit t.glb.traceCtrl 2 = true ∧ bit t.glb.traceCtrl 0 = false) ∧
    (bit v 0 = false ∨ bit s.glb.traceCtrl 0 = true ∨ (s.glb.stewardB = false ∧ portBBound s = false ∧ portBVfs s = false) →
      exec (.traceModeRequest fn v) s = .next (answer s { s with glb := { s.glb with
        traceCtrl := (w1c s.glb.traceCtrl (v &&& 4) &&& 4) ||| (v &&& 0xFF01) } }))) ∧
  (∀ (s : State) (fn : FnId), live s = true →
    (fnEnabled s fn = false → Quiet s → exec (.functionLevelReset fn) s = .next (answer s s)) ∧
    (fnEnabled s fn = true → exec (.functionLevelReset fn) s = .next (answer s (settle (flr s fn))))) ∧
  (∀ (s : State) (f k : Nat), (s.cmds.filter (fun c => decide (c.fn = f))) = [] → fnCtx s f = some k →
    flr s f = setCtx { setFn s f (ringsOff (fnAt s f)) with
        saf := { s.saf with choiceOn := s.saf.choiceOn && !(isSteward s f) } } k { ctxAt s k with
      runAt := none, runCmd := none, stopAt := none, stopCmd := none,
      force := (ctxAt s k).force || decide ((ctxAt s k).st = .running), flr := decide ((ctxAt s k).st = .running) }) ∧
  (∀ (s : State) (p : PciePort), live s = true →
    exec (.pcieHotReset p) s = .next (answer s (settle (forAll (portFns p) s flr))) ∧
    exec (.pcieLinkDown p) s = .next (answer s (settle (linkDown s p))) ∧
    exec (.perstAssert p) s = .next (answer s (settle (linkDown (setPerst s p false) p)))) ∧
  (∀ (s : State) (p : PciePort), exec (.perstDeassert p) s = .next (answer s (setPerst s p true)) ∧
    (live s = false → exec (.perstAssert p) s = .next (answer s (setPerst s p false)))) ∧
  (∀ (s : State) (p : PciePort), linkDown s p = (
    let u := setPcieWord (forAll (portFns p) s flr) p 0
    if bit (pcieWord s p) 7 then postSteward u 2 0 0 (16 + (match p with | .a => 0 | .b => 1)) 0 else u)) ∧
  (∀ (s : State) (p : PciePort) (speed : BitVec 4) (flit : Bool) (width : BitVec 6) (u : State), live s = true → Quiet s →
    u = setPcieWord s p (BitVec.ofNat 32 (speed.toNat * 256 + 128 + b2n flit * 64 + width.toNat)) →
    (perstLow p s = true → exec (.pcieLinkUp p speed flit width) s = .next (answer s s)) ∧
    (perstLow p s = false → bit (pcieWord s p) 7 = true → exec (.pcieLinkUp p speed flit width) s = .next (answer s u)) ∧
    (perstLow p s = false → bit (pcieWord s p) 7 = false → exec (.pcieLinkUp p speed flit width) s =
      .next (answer s (postSteward u 2 0 0 (2 ^ 31 + 16 + (match p with | .a => 0 | .b => 1)) 0)))) ∧
  (∀ (s : State) (f : FnId) (off : Nat) (v : W64), live s = true →
    (bar0Decodes s f off = false ∨ (isSteward s f = false ∧ (off / 4096 = 2 ∨ off / 4096 = 3 ∨ off / 4096 = 5 ∨ off / 4096 = 8)) ∨
        off / 4096 = 7 ∨ off / 4096 = 9 ∨ 11 ≤ off / 4096 → Quiet s →
      exec (.registerWrite (.host f) (.bar0 off) v) s = .next (answer s s)) ∧
    (bar0Decodes s f off = true → isSteward s f = true →
      (off / 4096 = 2 → exec (.registerWrite (.host f) (.bar0 off) v) s = .next (answer s (settle (writeTmp s (off % 4096) (lo32 v))))) ∧
      (off / 4096 = 3 → exec (.registerWrite (.host f) (.bar0 off) v) s = .next (answer s (settle (writeFab s (off % 4096) (lo32 v))))) ∧
      (off / 4096 = 5 → exec (.registerWrite (.host f) (.bar0 off) v) s = .next (answer s (settle (writeSaf s (off % 4096) (lo32 v))))) ∧
      (off / 4096 = 8 → exec (.registerWrite (.host f) (.bar0 off) v) s = .next (answer s (settle (writeTir s (off % 4096) (lo32 v)))))) ∧
    (s.svc.released = false → Quiet s → ∀ sp, exec (.registerWrite .service sp v) s = .next (answer s s)) ∧
    (∀ k c o, exec (.registerWrite (.message k) (.core c o) v) s = .next (answer s (settle (syncWriteOp s (.message k) c o (lo32 v))))) ∧
    (∀ k o, Quiet s → exec (.registerWrite (.message k) (.bar0 o) v) s = .next (answer s s)))

/-! ### The service complex -/

/-- Service cores, their message engine and fault reports (R342, R343, R347, R357, R377): nothing happens before release; an access that reaches
nothing traps, and one of a maintenance port, a router or a core's store is that unit's; a corrected ECC error of a TCM or the service store is
counted, and an uncorrectable one raises 0x26 and puts the module in tempo lost; a slot whose message is outstanding starts no other, a descriptor that breaks a rule ends with its status, and a good one is sent;
and firmware handles reports oldest first.
(Model's choices: log 6, 45, 53, 64, 66.) -/
def Obligations.ServiceCoresAndReports : Prop :=
  (∀ (s : State) (k : SvcId) (addr size : Nat) (d : BitVec 512) (e : Ecc), live s = true → Quiet s →
    (s.svc.released = false → exec (.serviceLoad k addr size e) s = .next (answer s s) ∧
      exec (.serviceStore k addr size d e) s = .next (answer s s)) ∧
    (s.svc.released = true →
      (svcTarget s k addr size = .none_ → exec (.serviceLoad k addr size e) s = .next (answer s (svcTrap s k addr)) ∧
        exec (.serviceStore k addr size d e) s = .next (answer s (svcTrap s k addr))) ∧
      (∀ a, svcTarget s k addr size = .mem a →
        (∀ u, (e = .ok ∧ u = s) ∨ (e = .corrected ∧ u = { s with svc := { s.svc with eccCorrected := satAdd s.svc.eccCorrected 1 } }) →
          exec (.serviceLoad k addr size e) s = .next (answer s (svcLoaded u k (BitVec.ofNat 512 (readLe s.svc.mem a size)))) ∧
          exec (.serviceStore k addr size d e) s = .next (answer s (svcStored
            { u with svc := { u.svc with mem := writeLe u.svc.mem a size d.toNat } } k))) ∧
        (e = .uncorrectable → ∃ u, TempoLost s u 16 0x26 ∧ exec (.serviceLoad k addr size e) s = .next (answer s (svcFree u k size)) ∧
          exec (.serviceStore k addr size d e) s = .next (answer s (svcStored
            { u with svc := { u.svc with mem := writeLe u.svc.mem a size d.toNat } } k)))) ∧
      (∀ c off, svcTarget s k addr size = .maint c off → exec (.serviceLoad k addr size e) s =
        .next (answer s (svcLoaded s k ((readMaint s c off size).setWidth 512)))) ∧
      (∀ r off, svcTarget s k addr size = .router r off → exec (.serviceLoad k addr size e) s =
        .next (answer s (svcLoaded s k ((readRouter s r off size).setWidth 512)))) ∧
      (∀ c off, svcTarget s k addr size = .maint c off → exec (.serviceStore k addr size d e) s =
        .next (answer s (settle (writeMaint (svcStored s k) c off size (d.setWidth 64))))) ∧
      (∀ r off, svcTarget s k addr size = .router r off → exec (.serviceStore k addr size d e) s =
        .next (answer s (settle (writeRouter (svcStored s k) r off size (d.setWidth 64))))) ∧
      (∀ c a o, svcTarget s k addr size = .local_ c a → regionOf a = .store o → o + size ≤ 0x800000 → (coreAt s c).clearing = false →
        exec (.serviceStore k addr size d e) s =
          .next (answer s (settle (svcStored (storeWrite s c o (leBytes size d.toNat) true none) k)))))) ∧
  (∀ (s : State) (i : Fin 64) (d : Line), live s = true →
    d = BitVec.ofNat 512 (readLe s.svc.mem (0x800000 + (Config.messageRing + 64 * i.val) % 0x1000000) 64) →
    (s.svc.released = false ∨ tget false s.svc.msgOpen i = true → Quiet s → exec (.serviceMessageSubmit i) s = .next (answer s s)) ∧
    (s.svc.released = true → tget false s.svc.msgOpen i = false →
      (svcDescStatus s d ≠ 0 → Quiet s → exec (.serviceMessageSubmit i) s = .next (answer s { s with svc := { s.svc with
        msgStatus := tset 0 s.svc.msgStatus i (BitVec.ofNat 32 (svcDescStatus s d)) } })) ∧
      (svcDescStatus s d = 0 → (descOf d).len = 0 → Quiet s → exec (.serviceMessageSubmit i) s = .next (answer s { s with svc := { s.svc with
        msgStatus := tset 0 s.svc.msgStatus i 0 } })) ∧
      (∀ m, svcDescStatus s d = 0 → (descOf d).len ≠ 0 →
        m = { svcMsg s 72 (descOf d).op (descOf d).gaddr (bits d 256 64) (descOf d).len (descOf d).cls with
          arrive := if (descOf d).aen then some (descOf d).arrive else none, coreset := (descOf d).coreset, fence := (descOf d).fence } →
        exec (.serviceMessageSubmit i) s = .next (answer s (settle (sendSvc { s with svc := { s.svc with
          msgOpen := tset false s.svc.msgOpen i true, slots := s.svc.slots ++ [(m.msgid, i.val)] } } m)))))) ∧
  (∀ (s : State), live s = true →
    (s.svc.released = false ∨ s.saf.reports = [] → Quiet s → exec .faultReportHandling s = .next (answer s s)) ∧
    (∀ e rest, s.svc.released = true → s.saf.reports = e :: rest → exec .faultReportHandling s = .next (answer s (settle (
      startRepair (postFault { s with saf := { s.saf with reports := rest } } e) e)))))

/-! ### Identity and security -/

/-- The mailbox and firmware (R397, R399 to R401, R405, R414, Tables 14.7, 14.8): a command written while one runs completes with 0x09 beside it; an
unconfigured module answers 0x03 to all but CARD_READ, and a reserved bit 0x01; each command checks who writes it and its arguments before it acts;
an image that fails a check zeroes the service memories and sets STAGE 4, and one that passes releases the service cores; and BSC_FW_FLOOR is
refused below FW_SVN_MIN and after release.
(Model's choices: log 7, 40.) -/
def Obligations.MailboxAndFirmware : Prop :=
  (∀ (s : State) (i : Instr) (f : FnId) (cmd : W32) (op : Nat) (run : State → State), mailCmd i = some (f, cmd, op, run) → live s = true →
    (fnEnabled s f = false → exec i s = .next (answer s s)) ∧
    (fnEnabled s f = true →
      (bit (fnAt s f).mbResult 31 = true → exec i s = .next (answer s (setFn s f { fnAt s f with mbResult := 0x80000009 }))) ∧
      (bit (fnAt s f).mbResult 31 = false →
        (s.glb.unconfigured = true → bits cmd 24 8 ≠ 5 → exec i s = .next (answer s (mbDone s f 3))) ∧
        (s.glb.unconfigured = false ∨ bits cmd 24 8 = 5 →
          (bit cmd 19 = true ∨ bits cmd 0 16 ≠ 0 → exec i s = .next (answer s (mbDone s f 1))) ∧
          (bit cmd 19 = false → bits cmd 0 16 = 0 → bits cmd 24 8 = op → exec i s = .next (answer s (run s))))))) ∧
  (∀ (s : State) (f : FnId) (x : Fn), x = fnAt s f →
    (s.bsc.stage = 0 → mbFwDeliver s f = mbDone s f 4) ∧
    (s.bsc.stage ≠ 0 → isSteward s f = false → mbFwDeliver s f = mbDone s f 2) ∧
    (isSteward s f = true → s.bsc.stage = 3 → mbFwDeliver s f = mbDone s f 4) ∧
    (isSteward s f = true → s.bsc.stage ≠ 0 → s.bsc.stage ≠ 3 → mbAddr x % 4096 ≠ 0 ∨ x.mbLen.toNat < 4608 ∨ 25170432 < x.mbLen.toNat →
      mbFwDeliver s f = mbDone s f 1) ∧
    (isSteward s f = true → s.bsc.stage ≠ 0 → s.bsc.stage ≠ 3 → mbAddr x % 4096 = 0 → 4608 ≤ x.mbLen.toNat → x.mbLen.toNat ≤ 25170432 →
      mbFwDeliver s f = { setFn s f { x with mbResult := 0x80000000 } with bsc := { s.bsc with
        stage := 2, fwBusy := some (f, BitVec.ofNat 64 (mbAddr x), x.mbLen.toNat) } })) ∧
  (∀ (s : State) (f : FnId) (cmd : W32) (k i : Nat), k = bits cmd 20 4 → i = bits cmd 16 3 →
    (mayKey s f k = false → mbKeySet s f cmd true = mbDone s f 2 ∧ mbKeyClear s f cmd = mbDone s f 2) ∧
    (mayKey s f k = true → mbKeyClear s f cmd = mbDone (setKey s k i none) f 0) ∧
    (mayKey s f k = true → mbAddr (fnAt s f) % 64 = 0 →
      mbKeySet s f cmd false = mbDone s f 5 ∧
      (keyRecord (readBytes (hostMem s f) (mbAddr (fnAt s f)) 512) = none → mbKeySet s f cmd true = mbDone s f 1) ∧
      (∀ key, keyRecord (readBytes (hostMem s f) (mbAddr (fnAt s f)) 512) = some key →
        mbKeySet s f cmd true = mbDone (setKey s k i (some key)) f 0)) ∧
    (isSteward s f = true → (ctxAt s k).st ≠ .unbound → mbKeyLock s f cmd = mbDone (setCtx s k { ctxAt s k with locked := true }) f 0) ∧
    (isSteward s f = false ∨ (ctxAt s k).st = .unbound → mbKeyLock s f cmd = mbDone s f 2) ∧
    ((ctxAt s k).st = .unbound ∨ (isSteward s f = false ∧ (ctxFn s k ≠ some f.val ∨ (ctxAt s k).locked = true)) → mayKey s f k = false)) ∧
  (∀ (s : State) (f : FnId) (ok : Bool),
    (fnIsPf f = false → mbCardRead s f ok = mbDone s f 2) ∧
    (fnIsPf f = true → mbAddr (fnAt s f) % 64 = 0 → s.card.cardState ≠ 1 → mbCardRead s f true =
      mbDone (setHostMem s f (writeBytes (hostMem s f) (mbAddr (fnAt s f)) (readBytes s.eeprom 0 16384))) f 0)) ∧
  (∀ (s : State) (ok : Bool), live s = true →
    (s.bsc.fwBusy = none → exec (.fwVerifyComplete ok) s = .next (answer s s)) ∧
    (∀ f a n st, s.bsc.fwBusy = some (f, a, n) → st = (if ok then fwStatus s (readBytes (hostMem s f) a.toNat n) else 5) →
      (st ≠ 0 → exec (.fwVerifyComplete ok) s = .next (answer s (mbDone { s with
        svc := { s.svc with mem := [] }, bsc := { s.bsc with stage := 4, fwCause := BitVec.ofNat 8 st, fwBusy := none } } f st))) ∧
      (st = 0 → ∃ t, exec (.fwVerifyComplete ok) s = .next t ∧ t.svc.released = true ∧ t.bsc.stage = 3 ∧ t.bsc.fwBusy = none ∧
        t.bsc.fwSvn = BitVec.ofNat 32 (sliceNat (readBytes (hostMem s f) a.toNat n) 8 4)))) ∧
  (∀ (s : State) (f : FnId) (v : W32), live s = true → (namedSteward s f = false → exec (.fwFloorWrite f v) s = .next (answer s s)) ∧
    (v.toNat < s.card.svnMin.toNat ∨ s.bsc.stage = 3 → exec (.fwFloorWrite f v) s = .next (answer s s)) ∧
    (namedSteward s f = true → s.card.svnMin.toNat ≤ v.toNat → s.bsc.stage ≠ 3 →
      exec (.fwFloorWrite f v) s = .next (answer s { s with bsc := { s.bsc with fwFloor := v } })))

/-- Attestation (R406, R407, R409): a request of another version, of another code or too short, or out of turn is answered by an ERROR; a version
request restarts the connection, capabilities and algorithms follow in turn, and certificates, challenges and signed measurements need the identity
key; every response is counted.
(Model's choices: log 7, 25.) -/
def Obligations.AttestationAnswers : Prop :=
  (∀ (s : State) (i : Instr) (p : PciePort) (r : List Byte) (ver code len n : Nat), spdmCmd i = some (p, r, ver, code, len, n) → live s = true →
    ((r.getD 0 0).toNat ≠ ver → exec i s = .next (answer s (spdmError s p 0x41 0))) ∧
    ((r.getD 0 0).toNat = ver → (r.getD 1 0).toNat ≠ code ∨ r.length < len → exec i s = .next (answer s (spdmError s p 1 0))) ∧
    ((r.getD 0 0).toNat = ver → (r.getD 1 0).toNat = code → len ≤ r.length → spdmAt s p < n →
      exec i s = .next (answer s (spdmError s p 4 0))) ∧
    ((r.getD 0 0).toNat = ver → (r.getD 1 0).toNat = code → len ≤ r.length → n ≤ spdmAt s p →
      (i = .getVersion p r → ∃ t, exec i s = .next t ∧ spdmAt t p = 1 ∧ t.wire = s.wire ++ [.spdm p [0x10, 0x04, 0, 0, 0, 1, 0, 0x12]] ∧
        t.bsc.spdmCount = satAdd s.bsc.spdmCount 1) ∧
      (i = .getCapabilities p r ∨ i = .negotiateAlgorithms p r →
        (n < spdmAt s p → exec i s = .next (answer s (spdmError s p 4 0))) ∧
        (spdmAt s p = n → ∃ t w, exec i s = .next t ∧ spdmAt t p = n + 1 ∧ t.wire = s.wire ++ [.spdm p w] ∧
          spdmT t p 0 = spdmT s p 0 ++ r ++ w ∧ t.bsc.spdmCount = satAdd s.bsc.spdmCount 1)) ∧
      (i = .getDigests p r → ∃ t, exec i s = .next t ∧ t.wire = s.wire ++ [.spdm p ([0x12, 0x01, 0, 1] ++ sha256 (certChain s))]) ∧
      (i = .getCertificate p r ∨ i = .challenge p r → s.bsc.idKey = false → exec i s = .next (answer s (spdmError s p 7 (code % 256)))) ∧
      (i = .getCertificate p r → s.bsc.idKey = true → (r.getD 2 0).toNat % 16 = 0 → ∀ c m, c = certChain s → sliceNat r 4 2 < c.length →
        m = min (sliceNat r 6 2) (c.length - sliceNat r 4 2) → ∃ t, exec i s = .next t ∧ t.wire = s.wire ++ [.spdm p (
          [0x12, 0x02, 0, 0] ++ leBytes 2 m ++ leBytes 2 (c.length - sliceNat r 4 2 - m) ++ (c.drop (sliceNat r 4 2)).take m)]) ∧
      (i = .challenge p r → s.bsc.idKey = true → (r.getD 2 0).toNat % 16 = 0 → r.getD 3 0 = 0 → ∃ t, exec i s = .next t ∧
        t.freeCtr = s.freeCtr + 1 ∧ ∃ w, w = [0x12, 0x03, 0, 1] ++ sha256 (certChain s) ++ spdmNonce s ++ [] ++ leBytes 2 0 ∧
          t.wire = s.wire ++ [.spdm p (w ++ spdmSign "responder-challenge_auth signing" (spdmT s p 0 ++ spdmT s p 1 ++ r ++ w))]) ∧
      (i = .getMeasurements p r → (r.getD 2 0).toNat % 2 = 1 → s.bsc.idKey = false → exec i s = .next (answer s (spdmError s p 7 0xE0))) ∧
      (i = .getMeasurements p r → (r.getD 2 0).toNat % 2 = 0 → (r.getD 3 0).toNat = 0 → ∃ t, exec i s = .next t ∧
        t.wire = s.wire ++ [.spdm p ([0x12, 0x60, BitVec.ofNat 8 (allBlocks s p).length, 0, 0] ++ leBytes 3 0 ++ [] ++ spdmNonce s ++ leBytes 2 0)]))) ∧
  (∀ (s : State) (p : PciePort) (code data : Nat), (spdmError s p code data).wire = s.wire ++ [.spdm p [0x12, 0x7F, BitVec.ofNat 8 code, BitVec.ofNat 8 data]] ∧
    (spdmError s p code data).bsc.spdmCount = satAdd s.bsc.spdmCount 1)

/-- The clear of a cluster that leaves a context (R410, R411): it starts once its accepted writes have landed, it zeroes its enabled cores' memories
and columns, with their fences, and ends; and a write whose flits have not all come in time is abandoned with status 0x8,
and its flits are left as a response that nothing waits for. -/
def Obligations.LeavingClustersAreCleared : Prop :=
  (∀ (s : State) (k : ClusterId), live s = true →
    (bit s.bsc.clearing k = true → bit s.bsc.clearStarted k = false → clusterQuiet s k = true →
      exec (.clusterClearStart k) s = .next (answer s { s with bsc := { s.bsc with clearStarted := orBit s.bsc.clearStarted k } })) ∧
    (bit s.bsc.clearing k = false ∨ bit s.bsc.clearStarted k = true ∨ clusterQuiet s k = false →
      exec (.clusterClearStart k) s = .next (answer s s)) ∧
    (bit s.bsc.clearStarted k = true → exec (.clusterClearDone k) s = .next (answer s (
      let u := forAll ((clusterCores k).filter (enabledCore s)) s (fun s c => updCore (clearColumn s c) c clearCore)
      { u with bsc := { u.bsc with clearing := clrBit u.bsc.clearing k, clearStarted := clrBit u.bsc.clearStarted k } }))) ∧
    (bit s.bsc.clearStarted k = false → exec (.clusterClearDone k) s = .next (answer s s)) ∧
    (bit s.bsc.clearing k = false ∨ (∀ p < 16, (portAt s p).rxFlits = []) → Quiet s → exec (.clearWriteTimeout k) s = .next (answer s s)) ∧
    (∀ (p : Fin 16) (f : FabFlit), bit s.bsc.clearing k = true → (portAt s p).rxFlits = [f] → (∀ j < 16, j ≠ p.val → (portAt s j).rxFlits = []) →
      (slowWrite s k f [f] = none → Quiet s → exec (.clearWriteTimeout k) s = .next (answer s s)) ∧
      (∀ h dead u, slowWrite s k f [f] = some h →
        dead = { f with payload := BitVec.ofNat 2048 (leNat ({ h with op := 2, daddr := gaMake 0xFFF 0xFE 0, hops := 15 } : Hdr).bytes) } →
        u = settleOne (setPort s p { portAt s p with rxFlits := [dead] }) ⟨h.saddr, h.msgid, 8, 0xFF⟩ →
        (∀ j < 16, (portAt u j).rxFlits = if j = p.val then [dead] else []) →
        exec (.clearWriteTimeout k) s = .next (answer s (settle u))))) ∧
  (∀ (x : Core), (clearCore x).store = [] ∧ (clearCore x).syncs = [] ∧ (clearCore x).engines = [] ∧ (clearCore x).rings = [] ∧
    (clearCore x).fences = [] ∧ (clearCore x).arrivals = [] ∧ (clearCore x).gather = [] ∧ (clearCore x).maint = x.maint) ∧
  (∀ (s : State) (p k : Nat) (f : FabFlit) (fs : List FabFlit) (h : Hdr),
    fs = (portAt s p).rxFlits.filter (fun g => decide (sideVc g.side = sideVc f.side) && decide (sideCls g.side = sideCls f.side)) →
    slowWrite s k f fs = some h → ∃ u, abandonSlow s p k f = settleOne u ⟨h.saddr, h.msgid, 8, 0xFF⟩ ∧ u.cores = s.cores ∧ u.tiers = s.tiers)
end

