-- ==== Sys2Proof/Laws/State.lean ====
section
/-! SUPPORT. One lemma per field of State and update of it, so that no proof unfolds a record update. -/

namespace Sys2Proof.Machine

variable (s : State)

@[simp] theorem setPending_pending (q : List Instr) : (State.setPending s q).pending = q := rfl
@[simp] theorem setPending_now (q : List Instr) : (State.setPending s q).now = s.now := rfl
@[simp] theorem setPending_card (q : List Instr) : (State.setPending s q).card = s.card := rfl
@[simp] theorem setPending_eeprom (q : List Instr) : (State.setPending s q).eeprom = s.eeprom := rfl
@[simp] theorem setPending_glb (q : List Instr) : (State.setPending s q).glb = s.glb := rfl
@[simp] theorem setPending_tmp (q : List Instr) : (State.setPending s q).tmp = s.tmp := rfl
@[simp] theorem setPending_lock (q : List Instr) : (State.setPending s q).lock = s.lock := rfl
@[simp] theorem setPending_hubs (q : List Instr) : (State.setPending s q).hubs = s.hubs := rfl
@[simp] theorem setPending_cores (q : List Instr) : (State.setPending s q).cores = s.cores := rfl
@[simp] theorem setPending_tiers (q : List Instr) : (State.setPending s q).tiers = s.tiers := rfl
@[simp] theorem setPending_routers (q : List Instr) : (State.setPending s q).routers = s.routers := rfl
@[simp] theorem setPending_later (q : List Instr) : (State.setPending s q).later = s.later := rfl
@[simp] theorem setPending_fab (q : List Instr) : (State.setPending s q).fab = s.fab := rfl
@[simp] theorem setPending_srv (q : List Instr) : (State.setPending s q).srv = s.srv := rfl
@[simp] theorem setPending_ctxs (q : List Instr) : (State.setPending s q).ctxs = s.ctxs := rfl
@[simp] theorem setPending_ctxSel (q : List Instr) : (State.setPending s q).ctxSel = s.ctxSel := rfl
@[simp] theorem setPending_ctxStatus (q : List Instr) : (State.setPending s q).ctxStatus = s.ctxStatus := rfl
@[simp] theorem setPending_fns (q : List Instr) : (State.setPending s q).fns = s.fns := rfl
@[simp] theorem setPending_cmds (q : List Instr) : (State.setPending s q).cmds = s.cmds := rfl
@[simp] theorem setPending_nextCmd (q : List Instr) : (State.setPending s q).nextCmd = s.nextCmd := rfl
@[simp] theorem setPending_hostA (q : List Instr) : (State.setPending s q).hostA = s.hostA := rfl
@[simp] theorem setPending_hostB (q : List Instr) : (State.setPending s q).hostB = s.hostB := rfl
@[simp] theorem setPending_saf (q : List Instr) : (State.setPending s q).saf = s.saf := rfl
@[simp] theorem setPending_bsc (q : List Instr) : (State.setPending s q).bsc = s.bsc := rfl
@[simp] theorem setPending_pwr (q : List Instr) : (State.setPending s q).pwr = s.pwr := rfl
@[simp] theorem setPending_svc (q : List Instr) : (State.setPending s q).svc = s.svc := rfl
@[simp] theorem setPending_readData (q : List Instr) : (State.setPending s q).readData = s.readData := rfl
@[simp] theorem setPending_wire (q : List Instr) : (State.setPending s q).wire = s.wire := rfl
@[simp] theorem setPending_freeCtr (q : List Instr) : (State.setPending s q).freeCtr = s.freeCtr := rfl

@[simp] theorem setCore_pending (c : Nat) (x : Core) : (setCore s c x).pending = s.pending := rfl
@[simp] theorem setCore_now (c : Nat) (x : Core) : (setCore s c x).now = s.now := rfl
@[simp] theorem setCore_card (c : Nat) (x : Core) : (setCore s c x).card = s.card := rfl
@[simp] theorem setCore_eeprom (c : Nat) (x : Core) : (setCore s c x).eeprom = s.eeprom := rfl
@[simp] theorem setCore_glb (c : Nat) (x : Core) : (setCore s c x).glb = s.glb := rfl
@[simp] theorem setCore_tmp (c : Nat) (x : Core) : (setCore s c x).tmp = s.tmp := rfl
@[simp] theorem setCore_lock (c : Nat) (x : Core) : (setCore s c x).lock = s.lock := rfl
@[simp] theorem setCore_hubs (c : Nat) (x : Core) : (setCore s c x).hubs = s.hubs := rfl
@[simp] theorem setCore_cores (c : Nat) (x : Core) : (setCore s c x).cores = tset {} s.cores c x := rfl
@[simp] theorem setCore_tiers (c : Nat) (x : Core) : (setCore s c x).tiers = s.tiers := rfl
@[simp] theorem setCore_routers (c : Nat) (x : Core) : (setCore s c x).routers = s.routers := rfl
@[simp] theorem setCore_later (c : Nat) (x : Core) : (setCore s c x).later = s.later := rfl
@[simp] theorem setCore_fab (c : Nat) (x : Core) : (setCore s c x).fab = s.fab := rfl
@[simp] theorem setCore_srv (c : Nat) (x : Core) : (setCore s c x).srv = s.srv := rfl
@[simp] theorem setCore_ctxs (c : Nat) (x : Core) : (setCore s c x).ctxs = s.ctxs := rfl
@[simp] theorem setCore_ctxSel (c : Nat) (x : Core) : (setCore s c x).ctxSel = s.ctxSel := rfl
@[simp] theorem setCore_ctxStatus (c : Nat) (x : Core) : (setCore s c x).ctxStatus = s.ctxStatus := rfl
@[simp] theorem setCore_fns (c : Nat) (x : Core) : (setCore s c x).fns = s.fns := rfl
@[simp] theorem setCore_cmds (c : Nat) (x : Core) : (setCore s c x).cmds = s.cmds := rfl
@[simp] theorem setCore_nextCmd (c : Nat) (x : Core) : (setCore s c x).nextCmd = s.nextCmd := rfl
@[simp] theorem setCore_hostA (c : Nat) (x : Core) : (setCore s c x).hostA = s.hostA := rfl
@[simp] theorem setCore_hostB (c : Nat) (x : Core) : (setCore s c x).hostB = s.hostB := rfl
@[simp] theorem setCore_saf (c : Nat) (x : Core) : (setCore s c x).saf = s.saf := rfl
@[simp] theorem setCore_bsc (c : Nat) (x : Core) : (setCore s c x).bsc = s.bsc := rfl
@[simp] theorem setCore_pwr (c : Nat) (x : Core) : (setCore s c x).pwr = s.pwr := rfl
@[simp] theorem setCore_svc (c : Nat) (x : Core) : (setCore s c x).svc = s.svc := rfl
@[simp] theorem setCore_readData (c : Nat) (x : Core) : (setCore s c x).readData = s.readData := rfl
@[simp] theorem setCore_wire (c : Nat) (x : Core) : (setCore s c x).wire = s.wire := rfl
@[simp] theorem setCore_freeCtr (c : Nat) (x : Core) : (setCore s c x).freeCtr = s.freeCtr := rfl

@[simp] theorem updCore_pending (c : Nat) (f : Core → Core) : (updCore s c f).pending = s.pending := rfl
@[simp] theorem updCore_now (c : Nat) (f : Core → Core) : (updCore s c f).now = s.now := rfl
@[simp] theorem updCore_card (c : Nat) (f : Core → Core) : (updCore s c f).card = s.card := rfl
@[simp] theorem updCore_eeprom (c : Nat) (f : Core → Core) : (updCore s c f).eeprom = s.eeprom := rfl
@[simp] theorem updCore_glb (c : Nat) (f : Core → Core) : (updCore s c f).glb = s.glb := rfl
@[simp] theorem updCore_tmp (c : Nat) (f : Core → Core) : (updCore s c f).tmp = s.tmp := rfl
@[simp] theorem updCore_lock (c : Nat) (f : Core → Core) : (updCore s c f).lock = s.lock := rfl
@[simp] theorem updCore_hubs (c : Nat) (f : Core → Core) : (updCore s c f).hubs = s.hubs := rfl
@[simp] theorem updCore_cores (c : Nat) (f : Core → Core) : (updCore s c f).cores = tset {} s.cores c (f (coreAt s c)) := rfl
@[simp] theorem updCore_tiers (c : Nat) (f : Core → Core) : (updCore s c f).tiers = s.tiers := rfl
@[simp] theorem updCore_routers (c : Nat) (f : Core → Core) : (updCore s c f).routers = s.routers := rfl
@[simp] theorem updCore_later (c : Nat) (f : Core → Core) : (updCore s c f).later = s.later := rfl
@[simp] theorem updCore_fab (c : Nat) (f : Core → Core) : (updCore s c f).fab = s.fab := rfl
@[simp] theorem updCore_srv (c : Nat) (f : Core → Core) : (updCore s c f).srv = s.srv := rfl
@[simp] theorem updCore_ctxs (c : Nat) (f : Core → Core) : (updCore s c f).ctxs = s.ctxs := rfl
@[simp] theorem updCore_ctxSel (c : Nat) (f : Core → Core) : (updCore s c f).ctxSel = s.ctxSel := rfl
@[simp] theorem updCore_ctxStatus (c : Nat) (f : Core → Core) : (updCore s c f).ctxStatus = s.ctxStatus := rfl
@[simp] theorem updCore_fns (c : Nat) (f : Core → Core) : (updCore s c f).fns = s.fns := rfl
@[simp] theorem updCore_cmds (c : Nat) (f : Core → Core) : (updCore s c f).cmds = s.cmds := rfl
@[simp] theorem updCore_nextCmd (c : Nat) (f : Core → Core) : (updCore s c f).nextCmd = s.nextCmd := rfl
@[simp] theorem updCore_hostA (c : Nat) (f : Core → Core) : (updCore s c f).hostA = s.hostA := rfl
@[simp] theorem updCore_hostB (c : Nat) (f : Core → Core) : (updCore s c f).hostB = s.hostB := rfl
@[simp] theorem updCore_saf (c : Nat) (f : Core → Core) : (updCore s c f).saf = s.saf := rfl
@[simp] theorem updCore_bsc (c : Nat) (f : Core → Core) : (updCore s c f).bsc = s.bsc := rfl
@[simp] theorem updCore_pwr (c : Nat) (f : Core → Core) : (updCore s c f).pwr = s.pwr := rfl
@[simp] theorem updCore_svc (c : Nat) (f : Core → Core) : (updCore s c f).svc = s.svc := rfl
@[simp] theorem updCore_readData (c : Nat) (f : Core → Core) : (updCore s c f).readData = s.readData := rfl
@[simp] theorem updCore_wire (c : Nat) (f : Core → Core) : (updCore s c f).wire = s.wire := rfl
@[simp] theorem updCore_freeCtr (c : Nat) (f : Core → Core) : (updCore s c f).freeCtr = s.freeCtr := rfl

@[simp] theorem setCtx_pending (k : Nat) (x : Ctx) : (setCtx s k x).pending = s.pending := rfl
@[simp] theorem setCtx_now (k : Nat) (x : Ctx) : (setCtx s k x).now = s.now := rfl
@[simp] theorem setCtx_card (k : Nat) (x : Ctx) : (setCtx s k x).card = s.card := rfl
@[simp] theorem setCtx_eeprom (k : Nat) (x : Ctx) : (setCtx s k x).eeprom = s.eeprom := rfl
@[simp] theorem setCtx_glb (k : Nat) (x : Ctx) : (setCtx s k x).glb = s.glb := rfl
@[simp] theorem setCtx_tmp (k : Nat) (x : Ctx) : (setCtx s k x).tmp = s.tmp := rfl
@[simp] theorem setCtx_lock (k : Nat) (x : Ctx) : (setCtx s k x).lock = s.lock := rfl
@[simp] theorem setCtx_hubs (k : Nat) (x : Ctx) : (setCtx s k x).hubs = s.hubs := rfl
@[simp] theorem setCtx_cores (k : Nat) (x : Ctx) : (setCtx s k x).cores = s.cores := rfl
@[simp] theorem setCtx_tiers (k : Nat) (x : Ctx) : (setCtx s k x).tiers = s.tiers := rfl
@[simp] theorem setCtx_routers (k : Nat) (x : Ctx) : (setCtx s k x).routers = s.routers := rfl
@[simp] theorem setCtx_later (k : Nat) (x : Ctx) : (setCtx s k x).later = s.later := rfl
@[simp] theorem setCtx_fab (k : Nat) (x : Ctx) : (setCtx s k x).fab = s.fab := rfl
@[simp] theorem setCtx_srv (k : Nat) (x : Ctx) : (setCtx s k x).srv = s.srv := rfl
@[simp] theorem setCtx_ctxs (k : Nat) (x : Ctx) : (setCtx s k x).ctxs = tset {} s.ctxs k x := rfl
@[simp] theorem setCtx_ctxSel (k : Nat) (x : Ctx) : (setCtx s k x).ctxSel = s.ctxSel := rfl
@[simp] theorem setCtx_ctxStatus (k : Nat) (x : Ctx) : (setCtx s k x).ctxStatus = s.ctxStatus := rfl
@[simp] theorem setCtx_fns (k : Nat) (x : Ctx) : (setCtx s k x).fns = s.fns := rfl
@[simp] theorem setCtx_cmds (k : Nat) (x : Ctx) : (setCtx s k x).cmds = s.cmds := rfl
@[simp] theorem setCtx_nextCmd (k : Nat) (x : Ctx) : (setCtx s k x).nextCmd = s.nextCmd := rfl
@[simp] theorem setCtx_hostA (k : Nat) (x : Ctx) : (setCtx s k x).hostA = s.hostA := rfl
@[simp] theorem setCtx_hostB (k : Nat) (x : Ctx) : (setCtx s k x).hostB = s.hostB := rfl
@[simp] theorem setCtx_saf (k : Nat) (x : Ctx) : (setCtx s k x).saf = s.saf := rfl
@[simp] theorem setCtx_bsc (k : Nat) (x : Ctx) : (setCtx s k x).bsc = s.bsc := rfl
@[simp] theorem setCtx_pwr (k : Nat) (x : Ctx) : (setCtx s k x).pwr = s.pwr := rfl
@[simp] theorem setCtx_svc (k : Nat) (x : Ctx) : (setCtx s k x).svc = s.svc := rfl
@[simp] theorem setCtx_readData (k : Nat) (x : Ctx) : (setCtx s k x).readData = s.readData := rfl
@[simp] theorem setCtx_wire (k : Nat) (x : Ctx) : (setCtx s k x).wire = s.wire := rfl
@[simp] theorem setCtx_freeCtr (k : Nat) (x : Ctx) : (setCtx s k x).freeCtr = s.freeCtr := rfl

@[simp] theorem updCtx_pending (k : Nat) (f : Ctx → Ctx) : (updCtx s k f).pending = s.pending := rfl
@[simp] theorem updCtx_now (k : Nat) (f : Ctx → Ctx) : (updCtx s k f).now = s.now := rfl
@[simp] theorem updCtx_card (k : Nat) (f : Ctx → Ctx) : (updCtx s k f).card = s.card := rfl
@[simp] theorem updCtx_eeprom (k : Nat) (f : Ctx → Ctx) : (updCtx s k f).eeprom = s.eeprom := rfl
@[simp] theorem updCtx_glb (k : Nat) (f : Ctx → Ctx) : (updCtx s k f).glb = s.glb := rfl
@[simp] theorem updCtx_tmp (k : Nat) (f : Ctx → Ctx) : (updCtx s k f).tmp = s.tmp := rfl
@[simp] theorem updCtx_lock (k : Nat) (f : Ctx → Ctx) : (updCtx s k f).lock = s.lock := rfl
@[simp] theorem updCtx_hubs (k : Nat) (f : Ctx → Ctx) : (updCtx s k f).hubs = s.hubs := rfl
@[simp] theorem updCtx_cores (k : Nat) (f : Ctx → Ctx) : (updCtx s k f).cores = s.cores := rfl
@[simp] theorem updCtx_tiers (k : Nat) (f : Ctx → Ctx) : (updCtx s k f).tiers = s.tiers := rfl
@[simp] theorem updCtx_routers (k : Nat) (f : Ctx → Ctx) : (updCtx s k f).routers = s.routers := rfl
@[simp] theorem updCtx_later (k : Nat) (f : Ctx → Ctx) : (updCtx s k f).later = s.later := rfl
@[simp] theorem updCtx_fab (k : Nat) (f : Ctx → Ctx) : (updCtx s k f).fab = s.fab := rfl
@[simp] theorem updCtx_srv (k : Nat) (f : Ctx → Ctx) : (updCtx s k f).srv = s.srv := rfl
@[simp] theorem updCtx_ctxs (k : Nat) (f : Ctx → Ctx) : (updCtx s k f).ctxs = tset {} s.ctxs k (f (ctxAt s k)) := rfl
@[simp] theorem updCtx_ctxSel (k : Nat) (f : Ctx → Ctx) : (updCtx s k f).ctxSel = s.ctxSel := rfl
@[simp] theorem updCtx_ctxStatus (k : Nat) (f : Ctx → Ctx) : (updCtx s k f).ctxStatus = s.ctxStatus := rfl
@[simp] theorem updCtx_fns (k : Nat) (f : Ctx → Ctx) : (updCtx s k f).fns = s.fns := rfl
@[simp] theorem updCtx_cmds (k : Nat) (f : Ctx → Ctx) : (updCtx s k f).cmds = s.cmds := rfl
@[simp] theorem updCtx_nextCmd (k : Nat) (f : Ctx → Ctx) : (updCtx s k f).nextCmd = s.nextCmd := rfl
@[simp] theorem updCtx_hostA (k : Nat) (f : Ctx → Ctx) : (updCtx s k f).hostA = s.hostA := rfl
@[simp] theorem updCtx_hostB (k : Nat) (f : Ctx → Ctx) : (updCtx s k f).hostB = s.hostB := rfl
@[simp] theorem updCtx_saf (k : Nat) (f : Ctx → Ctx) : (updCtx s k f).saf = s.saf := rfl
@[simp] theorem updCtx_bsc (k : Nat) (f : Ctx → Ctx) : (updCtx s k f).bsc = s.bsc := rfl
@[simp] theorem updCtx_pwr (k : Nat) (f : Ctx → Ctx) : (updCtx s k f).pwr = s.pwr := rfl
@[simp] theorem updCtx_svc (k : Nat) (f : Ctx → Ctx) : (updCtx s k f).svc = s.svc := rfl
@[simp] theorem updCtx_readData (k : Nat) (f : Ctx → Ctx) : (updCtx s k f).readData = s.readData := rfl
@[simp] theorem updCtx_wire (k : Nat) (f : Ctx → Ctx) : (updCtx s k f).wire = s.wire := rfl
@[simp] theorem updCtx_freeCtr (k : Nat) (f : Ctx → Ctx) : (updCtx s k f).freeCtr = s.freeCtr := rfl

@[simp] theorem setFn_pending (n : Nat) (x : Fn) : (setFn s n x).pending = s.pending := rfl
@[simp] theorem setFn_now (n : Nat) (x : Fn) : (setFn s n x).now = s.now := rfl
@[simp] theorem setFn_card (n : Nat) (x : Fn) : (setFn s n x).card = s.card := rfl
@[simp] theorem setFn_eeprom (n : Nat) (x : Fn) : (setFn s n x).eeprom = s.eeprom := rfl
@[simp] theorem setFn_glb (n : Nat) (x : Fn) : (setFn s n x).glb = s.glb := rfl
@[simp] theorem setFn_tmp (n : Nat) (x : Fn) : (setFn s n x).tmp = s.tmp := rfl
@[simp] theorem setFn_lock (n : Nat) (x : Fn) : (setFn s n x).lock = s.lock := rfl
@[simp] theorem setFn_hubs (n : Nat) (x : Fn) : (setFn s n x).hubs = s.hubs := rfl
@[simp] theorem setFn_cores (n : Nat) (x : Fn) : (setFn s n x).cores = s.cores := rfl
@[simp] theorem setFn_tiers (n : Nat) (x : Fn) : (setFn s n x).tiers = s.tiers := rfl
@[simp] theorem setFn_routers (n : Nat) (x : Fn) : (setFn s n x).routers = s.routers := rfl
@[simp] theorem setFn_later (n : Nat) (x : Fn) : (setFn s n x).later = s.later := rfl
@[simp] theorem setFn_fab (n : Nat) (x : Fn) : (setFn s n x).fab = s.fab := rfl
@[simp] theorem setFn_srv (n : Nat) (x : Fn) : (setFn s n x).srv = s.srv := rfl
@[simp] theorem setFn_ctxs (n : Nat) (x : Fn) : (setFn s n x).ctxs = s.ctxs := rfl
@[simp] theorem setFn_ctxSel (n : Nat) (x : Fn) : (setFn s n x).ctxSel = s.ctxSel := rfl
@[simp] theorem setFn_ctxStatus (n : Nat) (x : Fn) : (setFn s n x).ctxStatus = s.ctxStatus := rfl
@[simp] theorem setFn_fns (n : Nat) (x : Fn) : (setFn s n x).fns = tset {} s.fns n x := rfl
@[simp] theorem setFn_cmds (n : Nat) (x : Fn) : (setFn s n x).cmds = s.cmds := rfl
@[simp] theorem setFn_nextCmd (n : Nat) (x : Fn) : (setFn s n x).nextCmd = s.nextCmd := rfl
@[simp] theorem setFn_hostA (n : Nat) (x : Fn) : (setFn s n x).hostA = s.hostA := rfl
@[simp] theorem setFn_hostB (n : Nat) (x : Fn) : (setFn s n x).hostB = s.hostB := rfl
@[simp] theorem setFn_saf (n : Nat) (x : Fn) : (setFn s n x).saf = s.saf := rfl
@[simp] theorem setFn_bsc (n : Nat) (x : Fn) : (setFn s n x).bsc = s.bsc := rfl
@[simp] theorem setFn_pwr (n : Nat) (x : Fn) : (setFn s n x).pwr = s.pwr := rfl
@[simp] theorem setFn_svc (n : Nat) (x : Fn) : (setFn s n x).svc = s.svc := rfl
@[simp] theorem setFn_readData (n : Nat) (x : Fn) : (setFn s n x).readData = s.readData := rfl
@[simp] theorem setFn_wire (n : Nat) (x : Fn) : (setFn s n x).wire = s.wire := rfl
@[simp] theorem setFn_freeCtr (n : Nat) (x : Fn) : (setFn s n x).freeCtr = s.freeCtr := rfl

@[simp] theorem updFn_pending (n : Nat) (f : Fn → Fn) : (updFn s n f).pending = s.pending := rfl
@[simp] theorem updFn_now (n : Nat) (f : Fn → Fn) : (updFn s n f).now = s.now := rfl
@[simp] theorem updFn_card (n : Nat) (f : Fn → Fn) : (updFn s n f).card = s.card := rfl
@[simp] theorem updFn_eeprom (n : Nat) (f : Fn → Fn) : (updFn s n f).eeprom = s.eeprom := rfl
@[simp] theorem updFn_glb (n : Nat) (f : Fn → Fn) : (updFn s n f).glb = s.glb := rfl
@[simp] theorem updFn_tmp (n : Nat) (f : Fn → Fn) : (updFn s n f).tmp = s.tmp := rfl
@[simp] theorem updFn_lock (n : Nat) (f : Fn → Fn) : (updFn s n f).lock = s.lock := rfl
@[simp] theorem updFn_hubs (n : Nat) (f : Fn → Fn) : (updFn s n f).hubs = s.hubs := rfl
@[simp] theorem updFn_cores (n : Nat) (f : Fn → Fn) : (updFn s n f).cores = s.cores := rfl
@[simp] theorem updFn_tiers (n : Nat) (f : Fn → Fn) : (updFn s n f).tiers = s.tiers := rfl
@[simp] theorem updFn_routers (n : Nat) (f : Fn → Fn) : (updFn s n f).routers = s.routers := rfl
@[simp] theorem updFn_later (n : Nat) (f : Fn → Fn) : (updFn s n f).later = s.later := rfl
@[simp] theorem updFn_fab (n : Nat) (f : Fn → Fn) : (updFn s n f).fab = s.fab := rfl
@[simp] theorem updFn_srv (n : Nat) (f : Fn → Fn) : (updFn s n f).srv = s.srv := rfl
@[simp] theorem updFn_ctxs (n : Nat) (f : Fn → Fn) : (updFn s n f).ctxs = s.ctxs := rfl
@[simp] theorem updFn_ctxSel (n : Nat) (f : Fn → Fn) : (updFn s n f).ctxSel = s.ctxSel := rfl
@[simp] theorem updFn_ctxStatus (n : Nat) (f : Fn → Fn) : (updFn s n f).ctxStatus = s.ctxStatus := rfl
@[simp] theorem updFn_fns (n : Nat) (f : Fn → Fn) : (updFn s n f).fns = tset {} s.fns n (f (fnAt s n)) := rfl
@[simp] theorem updFn_cmds (n : Nat) (f : Fn → Fn) : (updFn s n f).cmds = s.cmds := rfl
@[simp] theorem updFn_nextCmd (n : Nat) (f : Fn → Fn) : (updFn s n f).nextCmd = s.nextCmd := rfl
@[simp] theorem updFn_hostA (n : Nat) (f : Fn → Fn) : (updFn s n f).hostA = s.hostA := rfl
@[simp] theorem updFn_hostB (n : Nat) (f : Fn → Fn) : (updFn s n f).hostB = s.hostB := rfl
@[simp] theorem updFn_saf (n : Nat) (f : Fn → Fn) : (updFn s n f).saf = s.saf := rfl
@[simp] theorem updFn_bsc (n : Nat) (f : Fn → Fn) : (updFn s n f).bsc = s.bsc := rfl
@[simp] theorem updFn_pwr (n : Nat) (f : Fn → Fn) : (updFn s n f).pwr = s.pwr := rfl
@[simp] theorem updFn_svc (n : Nat) (f : Fn → Fn) : (updFn s n f).svc = s.svc := rfl
@[simp] theorem updFn_readData (n : Nat) (f : Fn → Fn) : (updFn s n f).readData = s.readData := rfl
@[simp] theorem updFn_wire (n : Nat) (f : Fn → Fn) : (updFn s n f).wire = s.wire := rfl
@[simp] theorem updFn_freeCtr (n : Nat) (f : Fn → Fn) : (updFn s n f).freeCtr = s.freeCtr := rfl

@[simp] theorem setRouter_pending (r : Nat) (x : Router) : (setRouter s r x).pending = s.pending := rfl
@[simp] theorem setRouter_now (r : Nat) (x : Router) : (setRouter s r x).now = s.now := rfl
@[simp] theorem setRouter_card (r : Nat) (x : Router) : (setRouter s r x).card = s.card := rfl
@[simp] theorem setRouter_eeprom (r : Nat) (x : Router) : (setRouter s r x).eeprom = s.eeprom := rfl
@[simp] theorem setRouter_glb (r : Nat) (x : Router) : (setRouter s r x).glb = s.glb := rfl
@[simp] theorem setRouter_tmp (r : Nat) (x : Router) : (setRouter s r x).tmp = s.tmp := rfl
@[simp] theorem setRouter_lock (r : Nat) (x : Router) : (setRouter s r x).lock = s.lock := rfl
@[simp] theorem setRouter_hubs (r : Nat) (x : Router) : (setRouter s r x).hubs = s.hubs := rfl
@[simp] theorem setRouter_cores (r : Nat) (x : Router) : (setRouter s r x).cores = s.cores := rfl
@[simp] theorem setRouter_tiers (r : Nat) (x : Router) : (setRouter s r x).tiers = s.tiers := rfl
@[simp] theorem setRouter_routers (r : Nat) (x : Router) : (setRouter s r x).routers = tset {} s.routers r x := rfl
@[simp] theorem setRouter_later (r : Nat) (x : Router) : (setRouter s r x).later = s.later := rfl
@[simp] theorem setRouter_fab (r : Nat) (x : Router) : (setRouter s r x).fab = s.fab := rfl
@[simp] theorem setRouter_srv (r : Nat) (x : Router) : (setRouter s r x).srv = s.srv := rfl
@[simp] theorem setRouter_ctxs (r : Nat) (x : Router) : (setRouter s r x).ctxs = s.ctxs := rfl
@[simp] theorem setRouter_ctxSel (r : Nat) (x : Router) : (setRouter s r x).ctxSel = s.ctxSel := rfl
@[simp] theorem setRouter_ctxStatus (r : Nat) (x : Router) : (setRouter s r x).ctxStatus = s.ctxStatus := rfl
@[simp] theorem setRouter_fns (r : Nat) (x : Router) : (setRouter s r x).fns = s.fns := rfl
@[simp] theorem setRouter_cmds (r : Nat) (x : Router) : (setRouter s r x).cmds = s.cmds := rfl
@[simp] theorem setRouter_nextCmd (r : Nat) (x : Router) : (setRouter s r x).nextCmd = s.nextCmd := rfl
@[simp] theorem setRouter_hostA (r : Nat) (x : Router) : (setRouter s r x).hostA = s.hostA := rfl
@[simp] theorem setRouter_hostB (r : Nat) (x : Router) : (setRouter s r x).hostB = s.hostB := rfl
@[simp] theorem setRouter_saf (r : Nat) (x : Router) : (setRouter s r x).saf = s.saf := rfl
@[simp] theorem setRouter_bsc (r : Nat) (x : Router) : (setRouter s r x).bsc = s.bsc := rfl
@[simp] theorem setRouter_pwr (r : Nat) (x : Router) : (setRouter s r x).pwr = s.pwr := rfl
@[simp] theorem setRouter_svc (r : Nat) (x : Router) : (setRouter s r x).svc = s.svc := rfl
@[simp] theorem setRouter_readData (r : Nat) (x : Router) : (setRouter s r x).readData = s.readData := rfl
@[simp] theorem setRouter_wire (r : Nat) (x : Router) : (setRouter s r x).wire = s.wire := rfl
@[simp] theorem setRouter_freeCtr (r : Nat) (x : Router) : (setRouter s r x).freeCtr = s.freeCtr := rfl

@[simp] theorem updRouter_pending (r : Nat) (f : Router → Router) : (updRouter s r f).pending = s.pending := rfl
@[simp] theorem updRouter_now (r : Nat) (f : Router → Router) : (updRouter s r f).now = s.now := rfl
@[simp] theorem updRouter_card (r : Nat) (f : Router → Router) : (updRouter s r f).card = s.card := rfl
@[simp] theorem updRouter_eeprom (r : Nat) (f : Router → Router) : (updRouter s r f).eeprom = s.eeprom := rfl
@[simp] theorem updRouter_glb (r : Nat) (f : Router → Router) : (updRouter s r f).glb = s.glb := rfl
@[simp] theorem updRouter_tmp (r : Nat) (f : Router → Router) : (updRouter s r f).tmp = s.tmp := rfl
@[simp] theorem updRouter_lock (r : Nat) (f : Router → Router) : (updRouter s r f).lock = s.lock := rfl
@[simp] theorem updRouter_hubs (r : Nat) (f : Router → Router) : (updRouter s r f).hubs = s.hubs := rfl
@[simp] theorem updRouter_cores (r : Nat) (f : Router → Router) : (updRouter s r f).cores = s.cores := rfl
@[simp] theorem updRouter_tiers (r : Nat) (f : Router → Router) : (updRouter s r f).tiers = s.tiers := rfl
@[simp] theorem updRouter_routers (r : Nat) (f : Router → Router) : (updRouter s r f).routers = tset {} s.routers r (f (routerAt s r)) := rfl
@[simp] theorem updRouter_later (r : Nat) (f : Router → Router) : (updRouter s r f).later = s.later := rfl
@[simp] theorem updRouter_fab (r : Nat) (f : Router → Router) : (updRouter s r f).fab = s.fab := rfl
@[simp] theorem updRouter_srv (r : Nat) (f : Router → Router) : (updRouter s r f).srv = s.srv := rfl
@[simp] theorem updRouter_ctxs (r : Nat) (f : Router → Router) : (updRouter s r f).ctxs = s.ctxs := rfl
@[simp] theorem updRouter_ctxSel (r : Nat) (f : Router → Router) : (updRouter s r f).ctxSel = s.ctxSel := rfl
@[simp] theorem updRouter_ctxStatus (r : Nat) (f : Router → Router) : (updRouter s r f).ctxStatus = s.ctxStatus := rfl
@[simp] theorem updRouter_fns (r : Nat) (f : Router → Router) : (updRouter s r f).fns = s.fns := rfl
@[simp] theorem updRouter_cmds (r : Nat) (f : Router → Router) : (updRouter s r f).cmds = s.cmds := rfl
@[simp] theorem updRouter_nextCmd (r : Nat) (f : Router → Router) : (updRouter s r f).nextCmd = s.nextCmd := rfl
@[simp] theorem updRouter_hostA (r : Nat) (f : Router → Router) : (updRouter s r f).hostA = s.hostA := rfl
@[simp] theorem updRouter_hostB (r : Nat) (f : Router → Router) : (updRouter s r f).hostB = s.hostB := rfl
@[simp] theorem updRouter_saf (r : Nat) (f : Router → Router) : (updRouter s r f).saf = s.saf := rfl
@[simp] theorem updRouter_bsc (r : Nat) (f : Router → Router) : (updRouter s r f).bsc = s.bsc := rfl
@[simp] theorem updRouter_pwr (r : Nat) (f : Router → Router) : (updRouter s r f).pwr = s.pwr := rfl
@[simp] theorem updRouter_svc (r : Nat) (f : Router → Router) : (updRouter s r f).svc = s.svc := rfl
@[simp] theorem updRouter_readData (r : Nat) (f : Router → Router) : (updRouter s r f).readData = s.readData := rfl
@[simp] theorem updRouter_wire (r : Nat) (f : Router → Router) : (updRouter s r f).wire = s.wire := rfl
@[simp] theorem updRouter_freeCtr (r : Nat) (f : Router → Router) : (updRouter s r f).freeCtr = s.freeCtr := rfl

@[simp] theorem updTmp_pending (f : Tmp → Tmp) : (updTmp s f).pending = s.pending := rfl
@[simp] theorem updTmp_now (f : Tmp → Tmp) : (updTmp s f).now = s.now := rfl
@[simp] theorem updTmp_card (f : Tmp → Tmp) : (updTmp s f).card = s.card := rfl
@[simp] theorem updTmp_eeprom (f : Tmp → Tmp) : (updTmp s f).eeprom = s.eeprom := rfl
@[simp] theorem updTmp_glb (f : Tmp → Tmp) : (updTmp s f).glb = s.glb := rfl
@[simp] theorem updTmp_tmp (f : Tmp → Tmp) : (updTmp s f).tmp = f s.tmp := rfl
@[simp] theorem updTmp_lock (f : Tmp → Tmp) : (updTmp s f).lock = s.lock := rfl
@[simp] theorem updTmp_hubs (f : Tmp → Tmp) : (updTmp s f).hubs = s.hubs := rfl
@[simp] theorem updTmp_cores (f : Tmp → Tmp) : (updTmp s f).cores = s.cores := rfl
@[simp] theorem updTmp_tiers (f : Tmp → Tmp) : (updTmp s f).tiers = s.tiers := rfl
@[simp] theorem updTmp_routers (f : Tmp → Tmp) : (updTmp s f).routers = s.routers := rfl
@[simp] theorem updTmp_later (f : Tmp → Tmp) : (updTmp s f).later = s.later := rfl
@[simp] theorem updTmp_fab (f : Tmp → Tmp) : (updTmp s f).fab = s.fab := rfl
@[simp] theorem updTmp_srv (f : Tmp → Tmp) : (updTmp s f).srv = s.srv := rfl
@[simp] theorem updTmp_ctxs (f : Tmp → Tmp) : (updTmp s f).ctxs = s.ctxs := rfl
@[simp] theorem updTmp_ctxSel (f : Tmp → Tmp) : (updTmp s f).ctxSel = s.ctxSel := rfl
@[simp] theorem updTmp_ctxStatus (f : Tmp → Tmp) : (updTmp s f).ctxStatus = s.ctxStatus := rfl
@[simp] theorem updTmp_fns (f : Tmp → Tmp) : (updTmp s f).fns = s.fns := rfl
@[simp] theorem updTmp_cmds (f : Tmp → Tmp) : (updTmp s f).cmds = s.cmds := rfl
@[simp] theorem updTmp_nextCmd (f : Tmp → Tmp) : (updTmp s f).nextCmd = s.nextCmd := rfl
@[simp] theorem updTmp_hostA (f : Tmp → Tmp) : (updTmp s f).hostA = s.hostA := rfl
@[simp] theorem updTmp_hostB (f : Tmp → Tmp) : (updTmp s f).hostB = s.hostB := rfl
@[simp] theorem updTmp_saf (f : Tmp → Tmp) : (updTmp s f).saf = s.saf := rfl
@[simp] theorem updTmp_bsc (f : Tmp → Tmp) : (updTmp s f).bsc = s.bsc := rfl
@[simp] theorem updTmp_pwr (f : Tmp → Tmp) : (updTmp s f).pwr = s.pwr := rfl
@[simp] theorem updTmp_svc (f : Tmp → Tmp) : (updTmp s f).svc = s.svc := rfl
@[simp] theorem updTmp_readData (f : Tmp → Tmp) : (updTmp s f).readData = s.readData := rfl
@[simp] theorem updTmp_wire (f : Tmp → Tmp) : (updTmp s f).wire = s.wire := rfl
@[simp] theorem updTmp_freeCtr (f : Tmp → Tmp) : (updTmp s f).freeCtr = s.freeCtr := rfl

@[simp] theorem updLock_pending (f : Lock → Lock) : (updLock s f).pending = s.pending := rfl
@[simp] theorem updLock_now (f : Lock → Lock) : (updLock s f).now = s.now := rfl
@[simp] theorem updLock_card (f : Lock → Lock) : (updLock s f).card = s.card := rfl
@[simp] theorem updLock_eeprom (f : Lock → Lock) : (updLock s f).eeprom = s.eeprom := rfl
@[simp] theorem updLock_glb (f : Lock → Lock) : (updLock s f).glb = s.glb := rfl
@[simp] theorem updLock_tmp (f : Lock → Lock) : (updLock s f).tmp = s.tmp := rfl
@[simp] theorem updLock_lock (f : Lock → Lock) : (updLock s f).lock = f s.lock := rfl
@[simp] theorem updLock_hubs (f : Lock → Lock) : (updLock s f).hubs = s.hubs := rfl
@[simp] theorem updLock_cores (f : Lock → Lock) : (updLock s f).cores = s.cores := rfl
@[simp] theorem updLock_tiers (f : Lock → Lock) : (updLock s f).tiers = s.tiers := rfl
@[simp] theorem updLock_routers (f : Lock → Lock) : (updLock s f).routers = s.routers := rfl
@[simp] theorem updLock_later (f : Lock → Lock) : (updLock s f).later = s.later := rfl
@[simp] theorem updLock_fab (f : Lock → Lock) : (updLock s f).fab = s.fab := rfl
@[simp] theorem updLock_srv (f : Lock → Lock) : (updLock s f).srv = s.srv := rfl
@[simp] theorem updLock_ctxs (f : Lock → Lock) : (updLock s f).ctxs = s.ctxs := rfl
@[simp] theorem updLock_ctxSel (f : Lock → Lock) : (updLock s f).ctxSel = s.ctxSel := rfl
@[simp] theorem updLock_ctxStatus (f : Lock → Lock) : (updLock s f).ctxStatus = s.ctxStatus := rfl
@[simp] theorem updLock_fns (f : Lock → Lock) : (updLock s f).fns = s.fns := rfl
@[simp] theorem updLock_cmds (f : Lock → Lock) : (updLock s f).cmds = s.cmds := rfl
@[simp] theorem updLock_nextCmd (f : Lock → Lock) : (updLock s f).nextCmd = s.nextCmd := rfl
@[simp] theorem updLock_hostA (f : Lock → Lock) : (updLock s f).hostA = s.hostA := rfl
@[simp] theorem updLock_hostB (f : Lock → Lock) : (updLock s f).hostB = s.hostB := rfl
@[simp] theorem updLock_saf (f : Lock → Lock) : (updLock s f).saf = s.saf := rfl
@[simp] theorem updLock_bsc (f : Lock → Lock) : (updLock s f).bsc = s.bsc := rfl
@[simp] theorem updLock_pwr (f : Lock → Lock) : (updLock s f).pwr = s.pwr := rfl
@[simp] theorem updLock_svc (f : Lock → Lock) : (updLock s f).svc = s.svc := rfl
@[simp] theorem updLock_readData (f : Lock → Lock) : (updLock s f).readData = s.readData := rfl
@[simp] theorem updLock_wire (f : Lock → Lock) : (updLock s f).wire = s.wire := rfl
@[simp] theorem updLock_freeCtr (f : Lock → Lock) : (updLock s f).freeCtr = s.freeCtr := rfl

@[simp] theorem updTiers_pending (f : Tiers → Tiers) : (updTiers s f).pending = s.pending := rfl
@[simp] theorem updTiers_now (f : Tiers → Tiers) : (updTiers s f).now = s.now := rfl
@[simp] theorem updTiers_card (f : Tiers → Tiers) : (updTiers s f).card = s.card := rfl
@[simp] theorem updTiers_eeprom (f : Tiers → Tiers) : (updTiers s f).eeprom = s.eeprom := rfl
@[simp] theorem updTiers_glb (f : Tiers → Tiers) : (updTiers s f).glb = s.glb := rfl
@[simp] theorem updTiers_tmp (f : Tiers → Tiers) : (updTiers s f).tmp = s.tmp := rfl
@[simp] theorem updTiers_lock (f : Tiers → Tiers) : (updTiers s f).lock = s.lock := rfl
@[simp] theorem updTiers_hubs (f : Tiers → Tiers) : (updTiers s f).hubs = s.hubs := rfl
@[simp] theorem updTiers_cores (f : Tiers → Tiers) : (updTiers s f).cores = s.cores := rfl
@[simp] theorem updTiers_tiers (f : Tiers → Tiers) : (updTiers s f).tiers = f s.tiers := rfl
@[simp] theorem updTiers_routers (f : Tiers → Tiers) : (updTiers s f).routers = s.routers := rfl
@[simp] theorem updTiers_later (f : Tiers → Tiers) : (updTiers s f).later = s.later := rfl
@[simp] theorem updTiers_fab (f : Tiers → Tiers) : (updTiers s f).fab = s.fab := rfl
@[simp] theorem updTiers_srv (f : Tiers → Tiers) : (updTiers s f).srv = s.srv := rfl
@[simp] theorem updTiers_ctxs (f : Tiers → Tiers) : (updTiers s f).ctxs = s.ctxs := rfl
@[simp] theorem updTiers_ctxSel (f : Tiers → Tiers) : (updTiers s f).ctxSel = s.ctxSel := rfl
@[simp] theorem updTiers_ctxStatus (f : Tiers → Tiers) : (updTiers s f).ctxStatus = s.ctxStatus := rfl
@[simp] theorem updTiers_fns (f : Tiers → Tiers) : (updTiers s f).fns = s.fns := rfl
@[simp] theorem updTiers_cmds (f : Tiers → Tiers) : (updTiers s f).cmds = s.cmds := rfl
@[simp] theorem updTiers_nextCmd (f : Tiers → Tiers) : (updTiers s f).nextCmd = s.nextCmd := rfl
@[simp] theorem updTiers_hostA (f : Tiers → Tiers) : (updTiers s f).hostA = s.hostA := rfl
@[simp] theorem updTiers_hostB (f : Tiers → Tiers) : (updTiers s f).hostB = s.hostB := rfl
@[simp] theorem updTiers_saf (f : Tiers → Tiers) : (updTiers s f).saf = s.saf := rfl
@[simp] theorem updTiers_bsc (f : Tiers → Tiers) : (updTiers s f).bsc = s.bsc := rfl
@[simp] theorem updTiers_pwr (f : Tiers → Tiers) : (updTiers s f).pwr = s.pwr := rfl
@[simp] theorem updTiers_svc (f : Tiers → Tiers) : (updTiers s f).svc = s.svc := rfl
@[simp] theorem updTiers_readData (f : Tiers → Tiers) : (updTiers s f).readData = s.readData := rfl
@[simp] theorem updTiers_wire (f : Tiers → Tiers) : (updTiers s f).wire = s.wire := rfl
@[simp] theorem updTiers_freeCtr (f : Tiers → Tiers) : (updTiers s f).freeCtr = s.freeCtr := rfl

@[simp] theorem updFab_pending (f : Fab → Fab) : (updFab s f).pending = s.pending := rfl
@[simp] theorem updFab_now (f : Fab → Fab) : (updFab s f).now = s.now := rfl
@[simp] theorem updFab_card (f : Fab → Fab) : (updFab s f).card = s.card := rfl
@[simp] theorem updFab_eeprom (f : Fab → Fab) : (updFab s f).eeprom = s.eeprom := rfl
@[simp] theorem updFab_glb (f : Fab → Fab) : (updFab s f).glb = s.glb := rfl
@[simp] theorem updFab_tmp (f : Fab → Fab) : (updFab s f).tmp = s.tmp := rfl
@[simp] theorem updFab_lock (f : Fab → Fab) : (updFab s f).lock = s.lock := rfl
@[simp] theorem updFab_hubs (f : Fab → Fab) : (updFab s f).hubs = s.hubs := rfl
@[simp] theorem updFab_cores (f : Fab → Fab) : (updFab s f).cores = s.cores := rfl
@[simp] theorem updFab_tiers (f : Fab → Fab) : (updFab s f).tiers = s.tiers := rfl
@[simp] theorem updFab_routers (f : Fab → Fab) : (updFab s f).routers = s.routers := rfl
@[simp] theorem updFab_later (f : Fab → Fab) : (updFab s f).later = s.later := rfl
@[simp] theorem updFab_fab (f : Fab → Fab) : (updFab s f).fab = f s.fab := rfl
@[simp] theorem updFab_srv (f : Fab → Fab) : (updFab s f).srv = s.srv := rfl
@[simp] theorem updFab_ctxs (f : Fab → Fab) : (updFab s f).ctxs = s.ctxs := rfl
@[simp] theorem updFab_ctxSel (f : Fab → Fab) : (updFab s f).ctxSel = s.ctxSel := rfl
@[simp] theorem updFab_ctxStatus (f : Fab → Fab) : (updFab s f).ctxStatus = s.ctxStatus := rfl
@[simp] theorem updFab_fns (f : Fab → Fab) : (updFab s f).fns = s.fns := rfl
@[simp] theorem updFab_cmds (f : Fab → Fab) : (updFab s f).cmds = s.cmds := rfl
@[simp] theorem updFab_nextCmd (f : Fab → Fab) : (updFab s f).nextCmd = s.nextCmd := rfl
@[simp] theorem updFab_hostA (f : Fab → Fab) : (updFab s f).hostA = s.hostA := rfl
@[simp] theorem updFab_hostB (f : Fab → Fab) : (updFab s f).hostB = s.hostB := rfl
@[simp] theorem updFab_saf (f : Fab → Fab) : (updFab s f).saf = s.saf := rfl
@[simp] theorem updFab_bsc (f : Fab → Fab) : (updFab s f).bsc = s.bsc := rfl
@[simp] theorem updFab_pwr (f : Fab → Fab) : (updFab s f).pwr = s.pwr := rfl
@[simp] theorem updFab_svc (f : Fab → Fab) : (updFab s f).svc = s.svc := rfl
@[simp] theorem updFab_readData (f : Fab → Fab) : (updFab s f).readData = s.readData := rfl
@[simp] theorem updFab_wire (f : Fab → Fab) : (updFab s f).wire = s.wire := rfl
@[simp] theorem updFab_freeCtr (f : Fab → Fab) : (updFab s f).freeCtr = s.freeCtr := rfl

@[simp] theorem updSrv_pending (f : Srv → Srv) : (updSrv s f).pending = s.pending := rfl
@[simp] theorem updSrv_now (f : Srv → Srv) : (updSrv s f).now = s.now := rfl
@[simp] theorem updSrv_card (f : Srv → Srv) : (updSrv s f).card = s.card := rfl
@[simp] theorem updSrv_eeprom (f : Srv → Srv) : (updSrv s f).eeprom = s.eeprom := rfl
@[simp] theorem updSrv_glb (f : Srv → Srv) : (updSrv s f).glb = s.glb := rfl
@[simp] theorem updSrv_tmp (f : Srv → Srv) : (updSrv s f).tmp = s.tmp := rfl
@[simp] theorem updSrv_lock (f : Srv → Srv) : (updSrv s f).lock = s.lock := rfl
@[simp] theorem updSrv_hubs (f : Srv → Srv) : (updSrv s f).hubs = s.hubs := rfl
@[simp] theorem updSrv_cores (f : Srv → Srv) : (updSrv s f).cores = s.cores := rfl
@[simp] theorem updSrv_tiers (f : Srv → Srv) : (updSrv s f).tiers = s.tiers := rfl
@[simp] theorem updSrv_routers (f : Srv → Srv) : (updSrv s f).routers = s.routers := rfl
@[simp] theorem updSrv_later (f : Srv → Srv) : (updSrv s f).later = s.later := rfl
@[simp] theorem updSrv_fab (f : Srv → Srv) : (updSrv s f).fab = s.fab := rfl
@[simp] theorem updSrv_srv (f : Srv → Srv) : (updSrv s f).srv = f s.srv := rfl
@[simp] theorem updSrv_ctxs (f : Srv → Srv) : (updSrv s f).ctxs = s.ctxs := rfl
@[simp] theorem updSrv_ctxSel (f : Srv → Srv) : (updSrv s f).ctxSel = s.ctxSel := rfl
@[simp] theorem updSrv_ctxStatus (f : Srv → Srv) : (updSrv s f).ctxStatus = s.ctxStatus := rfl
@[simp] theorem updSrv_fns (f : Srv → Srv) : (updSrv s f).fns = s.fns := rfl
@[simp] theorem updSrv_cmds (f : Srv → Srv) : (updSrv s f).cmds = s.cmds := rfl
@[simp] theorem updSrv_nextCmd (f : Srv → Srv) : (updSrv s f).nextCmd = s.nextCmd := rfl
@[simp] theorem updSrv_hostA (f : Srv → Srv) : (updSrv s f).hostA = s.hostA := rfl
@[simp] theorem updSrv_hostB (f : Srv → Srv) : (updSrv s f).hostB = s.hostB := rfl
@[simp] theorem updSrv_saf (f : Srv → Srv) : (updSrv s f).saf = s.saf := rfl
@[simp] theorem updSrv_bsc (f : Srv → Srv) : (updSrv s f).bsc = s.bsc := rfl
@[simp] theorem updSrv_pwr (f : Srv → Srv) : (updSrv s f).pwr = s.pwr := rfl
@[simp] theorem updSrv_svc (f : Srv → Srv) : (updSrv s f).svc = s.svc := rfl
@[simp] theorem updSrv_readData (f : Srv → Srv) : (updSrv s f).readData = s.readData := rfl
@[simp] theorem updSrv_wire (f : Srv → Srv) : (updSrv s f).wire = s.wire := rfl
@[simp] theorem updSrv_freeCtr (f : Srv → Srv) : (updSrv s f).freeCtr = s.freeCtr := rfl

@[simp] theorem updSaf_pending (f : Saf → Saf) : (updSaf s f).pending = s.pending := rfl
@[simp] theorem updSaf_now (f : Saf → Saf) : (updSaf s f).now = s.now := rfl
@[simp] theorem updSaf_card (f : Saf → Saf) : (updSaf s f).card = s.card := rfl
@[simp] theorem updSaf_eeprom (f : Saf → Saf) : (updSaf s f).eeprom = s.eeprom := rfl
@[simp] theorem updSaf_glb (f : Saf → Saf) : (updSaf s f).glb = s.glb := rfl
@[simp] theorem updSaf_tmp (f : Saf → Saf) : (updSaf s f).tmp = s.tmp := rfl
@[simp] theorem updSaf_lock (f : Saf → Saf) : (updSaf s f).lock = s.lock := rfl
@[simp] theorem updSaf_hubs (f : Saf → Saf) : (updSaf s f).hubs = s.hubs := rfl
@[simp] theorem updSaf_cores (f : Saf → Saf) : (updSaf s f).cores = s.cores := rfl
@[simp] theorem updSaf_tiers (f : Saf → Saf) : (updSaf s f).tiers = s.tiers := rfl
@[simp] theorem updSaf_routers (f : Saf → Saf) : (updSaf s f).routers = s.routers := rfl
@[simp] theorem updSaf_later (f : Saf → Saf) : (updSaf s f).later = s.later := rfl
@[simp] theorem updSaf_fab (f : Saf → Saf) : (updSaf s f).fab = s.fab := rfl
@[simp] theorem updSaf_srv (f : Saf → Saf) : (updSaf s f).srv = s.srv := rfl
@[simp] theorem updSaf_ctxs (f : Saf → Saf) : (updSaf s f).ctxs = s.ctxs := rfl
@[simp] theorem updSaf_ctxSel (f : Saf → Saf) : (updSaf s f).ctxSel = s.ctxSel := rfl
@[simp] theorem updSaf_ctxStatus (f : Saf → Saf) : (updSaf s f).ctxStatus = s.ctxStatus := rfl
@[simp] theorem updSaf_fns (f : Saf → Saf) : (updSaf s f).fns = s.fns := rfl
@[simp] theorem updSaf_cmds (f : Saf → Saf) : (updSaf s f).cmds = s.cmds := rfl
@[simp] theorem updSaf_nextCmd (f : Saf → Saf) : (updSaf s f).nextCmd = s.nextCmd := rfl
@[simp] theorem updSaf_hostA (f : Saf → Saf) : (updSaf s f).hostA = s.hostA := rfl
@[simp] theorem updSaf_hostB (f : Saf → Saf) : (updSaf s f).hostB = s.hostB := rfl
@[simp] theorem updSaf_saf (f : Saf → Saf) : (updSaf s f).saf = f s.saf := rfl
@[simp] theorem updSaf_bsc (f : Saf → Saf) : (updSaf s f).bsc = s.bsc := rfl
@[simp] theorem updSaf_pwr (f : Saf → Saf) : (updSaf s f).pwr = s.pwr := rfl
@[simp] theorem updSaf_svc (f : Saf → Saf) : (updSaf s f).svc = s.svc := rfl
@[simp] theorem updSaf_readData (f : Saf → Saf) : (updSaf s f).readData = s.readData := rfl
@[simp] theorem updSaf_wire (f : Saf → Saf) : (updSaf s f).wire = s.wire := rfl
@[simp] theorem updSaf_freeCtr (f : Saf → Saf) : (updSaf s f).freeCtr = s.freeCtr := rfl

@[simp] theorem updBsc_pending (f : Bsc → Bsc) : (updBsc s f).pending = s.pending := rfl
@[simp] theorem updBsc_now (f : Bsc → Bsc) : (updBsc s f).now = s.now := rfl
@[simp] theorem updBsc_card (f : Bsc → Bsc) : (updBsc s f).card = s.card := rfl
@[simp] theorem updBsc_eeprom (f : Bsc → Bsc) : (updBsc s f).eeprom = s.eeprom := rfl
@[simp] theorem updBsc_glb (f : Bsc → Bsc) : (updBsc s f).glb = s.glb := rfl
@[simp] theorem updBsc_tmp (f : Bsc → Bsc) : (updBsc s f).tmp = s.tmp := rfl
@[simp] theorem updBsc_lock (f : Bsc → Bsc) : (updBsc s f).lock = s.lock := rfl
@[simp] theorem updBsc_hubs (f : Bsc → Bsc) : (updBsc s f).hubs = s.hubs := rfl
@[simp] theorem updBsc_cores (f : Bsc → Bsc) : (updBsc s f).cores = s.cores := rfl
@[simp] theorem updBsc_tiers (f : Bsc → Bsc) : (updBsc s f).tiers = s.tiers := rfl
@[simp] theorem updBsc_routers (f : Bsc → Bsc) : (updBsc s f).routers = s.routers := rfl
@[simp] theorem updBsc_later (f : Bsc → Bsc) : (updBsc s f).later = s.later := rfl
@[simp] theorem updBsc_fab (f : Bsc → Bsc) : (updBsc s f).fab = s.fab := rfl
@[simp] theorem updBsc_srv (f : Bsc → Bsc) : (updBsc s f).srv = s.srv := rfl
@[simp] theorem updBsc_ctxs (f : Bsc → Bsc) : (updBsc s f).ctxs = s.ctxs := rfl
@[simp] theorem updBsc_ctxSel (f : Bsc → Bsc) : (updBsc s f).ctxSel = s.ctxSel := rfl
@[simp] theorem updBsc_ctxStatus (f : Bsc → Bsc) : (updBsc s f).ctxStatus = s.ctxStatus := rfl
@[simp] theorem updBsc_fns (f : Bsc → Bsc) : (updBsc s f).fns = s.fns := rfl
@[simp] theorem updBsc_cmds (f : Bsc → Bsc) : (updBsc s f).cmds = s.cmds := rfl
@[simp] theorem updBsc_nextCmd (f : Bsc → Bsc) : (updBsc s f).nextCmd = s.nextCmd := rfl
@[simp] theorem updBsc_hostA (f : Bsc → Bsc) : (updBsc s f).hostA = s.hostA := rfl
@[simp] theorem updBsc_hostB (f : Bsc → Bsc) : (updBsc s f).hostB = s.hostB := rfl
@[simp] theorem updBsc_saf (f : Bsc → Bsc) : (updBsc s f).saf = s.saf := rfl
@[simp] theorem updBsc_bsc (f : Bsc → Bsc) : (updBsc s f).bsc = f s.bsc := rfl
@[simp] theorem updBsc_pwr (f : Bsc → Bsc) : (updBsc s f).pwr = s.pwr := rfl
@[simp] theorem updBsc_svc (f : Bsc → Bsc) : (updBsc s f).svc = s.svc := rfl
@[simp] theorem updBsc_readData (f : Bsc → Bsc) : (updBsc s f).readData = s.readData := rfl
@[simp] theorem updBsc_wire (f : Bsc → Bsc) : (updBsc s f).wire = s.wire := rfl
@[simp] theorem updBsc_freeCtr (f : Bsc → Bsc) : (updBsc s f).freeCtr = s.freeCtr := rfl

@[simp] theorem updPwr_pending (f : Pwr → Pwr) : (updPwr s f).pending = s.pending := rfl
@[simp] theorem updPwr_now (f : Pwr → Pwr) : (updPwr s f).now = s.now := rfl
@[simp] theorem updPwr_card (f : Pwr → Pwr) : (updPwr s f).card = s.card := rfl
@[simp] theorem updPwr_eeprom (f : Pwr → Pwr) : (updPwr s f).eeprom = s.eeprom := rfl
@[simp] theorem updPwr_glb (f : Pwr → Pwr) : (updPwr s f).glb = s.glb := rfl
@[simp] theorem updPwr_tmp (f : Pwr → Pwr) : (updPwr s f).tmp = s.tmp := rfl
@[simp] theorem updPwr_lock (f : Pwr → Pwr) : (updPwr s f).lock = s.lock := rfl
@[simp] theorem updPwr_hubs (f : Pwr → Pwr) : (updPwr s f).hubs = s.hubs := rfl
@[simp] theorem updPwr_cores (f : Pwr → Pwr) : (updPwr s f).cores = s.cores := rfl
@[simp] theorem updPwr_tiers (f : Pwr → Pwr) : (updPwr s f).tiers = s.tiers := rfl
@[simp] theorem updPwr_routers (f : Pwr → Pwr) : (updPwr s f).routers = s.routers := rfl
@[simp] theorem updPwr_later (f : Pwr → Pwr) : (updPwr s f).later = s.later := rfl
@[simp] theorem updPwr_fab (f : Pwr → Pwr) : (updPwr s f).fab = s.fab := rfl
@[simp] theorem updPwr_srv (f : Pwr → Pwr) : (updPwr s f).srv = s.srv := rfl
@[simp] theorem updPwr_ctxs (f : Pwr → Pwr) : (updPwr s f).ctxs = s.ctxs := rfl
@[simp] theorem updPwr_ctxSel (f : Pwr → Pwr) : (updPwr s f).ctxSel = s.ctxSel := rfl
@[simp] theorem updPwr_ctxStatus (f : Pwr → Pwr) : (updPwr s f).ctxStatus = s.ctxStatus := rfl
@[simp] theorem updPwr_fns (f : Pwr → Pwr) : (updPwr s f).fns = s.fns := rfl
@[simp] theorem updPwr_cmds (f : Pwr → Pwr) : (updPwr s f).cmds = s.cmds := rfl
@[simp] theorem updPwr_nextCmd (f : Pwr → Pwr) : (updPwr s f).nextCmd = s.nextCmd := rfl
@[simp] theorem updPwr_hostA (f : Pwr → Pwr) : (updPwr s f).hostA = s.hostA := rfl
@[simp] theorem updPwr_hostB (f : Pwr → Pwr) : (updPwr s f).hostB = s.hostB := rfl
@[simp] theorem updPwr_saf (f : Pwr → Pwr) : (updPwr s f).saf = s.saf := rfl
@[simp] theorem updPwr_bsc (f : Pwr → Pwr) : (updPwr s f).bsc = s.bsc := rfl
@[simp] theorem updPwr_pwr (f : Pwr → Pwr) : (updPwr s f).pwr = f s.pwr := rfl
@[simp] theorem updPwr_svc (f : Pwr → Pwr) : (updPwr s f).svc = s.svc := rfl
@[simp] theorem updPwr_readData (f : Pwr → Pwr) : (updPwr s f).readData = s.readData := rfl
@[simp] theorem updPwr_wire (f : Pwr → Pwr) : (updPwr s f).wire = s.wire := rfl
@[simp] theorem updPwr_freeCtr (f : Pwr → Pwr) : (updPwr s f).freeCtr = s.freeCtr := rfl

@[simp] theorem updSvc_pending (f : Svc → Svc) : (updSvc s f).pending = s.pending := rfl
@[simp] theorem updSvc_now (f : Svc → Svc) : (updSvc s f).now = s.now := rfl
@[simp] theorem updSvc_card (f : Svc → Svc) : (updSvc s f).card = s.card := rfl
@[simp] theorem updSvc_eeprom (f : Svc → Svc) : (updSvc s f).eeprom = s.eeprom := rfl
@[simp] theorem updSvc_glb (f : Svc → Svc) : (updSvc s f).glb = s.glb := rfl
@[simp] theorem updSvc_tmp (f : Svc → Svc) : (updSvc s f).tmp = s.tmp := rfl
@[simp] theorem updSvc_lock (f : Svc → Svc) : (updSvc s f).lock = s.lock := rfl
@[simp] theorem updSvc_hubs (f : Svc → Svc) : (updSvc s f).hubs = s.hubs := rfl
@[simp] theorem updSvc_cores (f : Svc → Svc) : (updSvc s f).cores = s.cores := rfl
@[simp] theorem updSvc_tiers (f : Svc → Svc) : (updSvc s f).tiers = s.tiers := rfl
@[simp] theorem updSvc_routers (f : Svc → Svc) : (updSvc s f).routers = s.routers := rfl
@[simp] theorem updSvc_later (f : Svc → Svc) : (updSvc s f).later = s.later := rfl
@[simp] theorem updSvc_fab (f : Svc → Svc) : (updSvc s f).fab = s.fab := rfl
@[simp] theorem updSvc_srv (f : Svc → Svc) : (updSvc s f).srv = s.srv := rfl
@[simp] theorem updSvc_ctxs (f : Svc → Svc) : (updSvc s f).ctxs = s.ctxs := rfl
@[simp] theorem updSvc_ctxSel (f : Svc → Svc) : (updSvc s f).ctxSel = s.ctxSel := rfl
@[simp] theorem updSvc_ctxStatus (f : Svc → Svc) : (updSvc s f).ctxStatus = s.ctxStatus := rfl
@[simp] theorem updSvc_fns (f : Svc → Svc) : (updSvc s f).fns = s.fns := rfl
@[simp] theorem updSvc_cmds (f : Svc → Svc) : (updSvc s f).cmds = s.cmds := rfl
@[simp] theorem updSvc_nextCmd (f : Svc → Svc) : (updSvc s f).nextCmd = s.nextCmd := rfl
@[simp] theorem updSvc_hostA (f : Svc → Svc) : (updSvc s f).hostA = s.hostA := rfl
@[simp] theorem updSvc_hostB (f : Svc → Svc) : (updSvc s f).hostB = s.hostB := rfl
@[simp] theorem updSvc_saf (f : Svc → Svc) : (updSvc s f).saf = s.saf := rfl
@[simp] theorem updSvc_bsc (f : Svc → Svc) : (updSvc s f).bsc = s.bsc := rfl
@[simp] theorem updSvc_pwr (f : Svc → Svc) : (updSvc s f).pwr = s.pwr := rfl
@[simp] theorem updSvc_svc (f : Svc → Svc) : (updSvc s f).svc = f s.svc := rfl
@[simp] theorem updSvc_readData (f : Svc → Svc) : (updSvc s f).readData = s.readData := rfl
@[simp] theorem updSvc_wire (f : Svc → Svc) : (updSvc s f).wire = s.wire := rfl
@[simp] theorem updSvc_freeCtr (f : Svc → Svc) : (updSvc s f).freeCtr = s.freeCtr := rfl

@[simp] theorem updGlb_pending (f : Glb → Glb) : (updGlb s f).pending = s.pending := rfl
@[simp] theorem updGlb_now (f : Glb → Glb) : (updGlb s f).now = s.now := rfl
@[simp] theorem updGlb_card (f : Glb → Glb) : (updGlb s f).card = s.card := rfl
@[simp] theorem updGlb_eeprom (f : Glb → Glb) : (updGlb s f).eeprom = s.eeprom := rfl
@[simp] theorem updGlb_glb (f : Glb → Glb) : (updGlb s f).glb = f s.glb := rfl
@[simp] theorem updGlb_tmp (f : Glb → Glb) : (updGlb s f).tmp = s.tmp := rfl
@[simp] theorem updGlb_lock (f : Glb → Glb) : (updGlb s f).lock = s.lock := rfl
@[simp] theorem updGlb_hubs (f : Glb → Glb) : (updGlb s f).hubs = s.hubs := rfl
@[simp] theorem updGlb_cores (f : Glb → Glb) : (updGlb s f).cores = s.cores := rfl
@[simp] theorem updGlb_tiers (f : Glb → Glb) : (updGlb s f).tiers = s.tiers := rfl
@[simp] theorem updGlb_routers (f : Glb → Glb) : (updGlb s f).routers = s.routers := rfl
@[simp] theorem updGlb_later (f : Glb → Glb) : (updGlb s f).later = s.later := rfl
@[simp] theorem updGlb_fab (f : Glb → Glb) : (updGlb s f).fab = s.fab := rfl
@[simp] theorem updGlb_srv (f : Glb → Glb) : (updGlb s f).srv = s.srv := rfl
@[simp] theorem updGlb_ctxs (f : Glb → Glb) : (updGlb s f).ctxs = s.ctxs := rfl
@[simp] theorem updGlb_ctxSel (f : Glb → Glb) : (updGlb s f).ctxSel = s.ctxSel := rfl
@[simp] theorem updGlb_ctxStatus (f : Glb → Glb) : (updGlb s f).ctxStatus = s.ctxStatus := rfl
@[simp] theorem updGlb_fns (f : Glb → Glb) : (updGlb s f).fns = s.fns := rfl
@[simp] theorem updGlb_cmds (f : Glb → Glb) : (updGlb s f).cmds = s.cmds := rfl
@[simp] theorem updGlb_nextCmd (f : Glb → Glb) : (updGlb s f).nextCmd = s.nextCmd := rfl
@[simp] theorem updGlb_hostA (f : Glb → Glb) : (updGlb s f).hostA = s.hostA := rfl
@[simp] theorem updGlb_hostB (f : Glb → Glb) : (updGlb s f).hostB = s.hostB := rfl
@[simp] theorem updGlb_saf (f : Glb → Glb) : (updGlb s f).saf = s.saf := rfl
@[simp] theorem updGlb_bsc (f : Glb → Glb) : (updGlb s f).bsc = s.bsc := rfl
@[simp] theorem updGlb_pwr (f : Glb → Glb) : (updGlb s f).pwr = s.pwr := rfl
@[simp] theorem updGlb_svc (f : Glb → Glb) : (updGlb s f).svc = s.svc := rfl
@[simp] theorem updGlb_readData (f : Glb → Glb) : (updGlb s f).readData = s.readData := rfl
@[simp] theorem updGlb_wire (f : Glb → Glb) : (updGlb s f).wire = s.wire := rfl
@[simp] theorem updGlb_freeCtr (f : Glb → Glb) : (updGlb s f).freeCtr = s.freeCtr := rfl

@[simp] theorem setPort_pending (p : Nat) (x : Port) : (setPort s p x).pending = s.pending := rfl
@[simp] theorem setPort_now (p : Nat) (x : Port) : (setPort s p x).now = s.now := rfl
@[simp] theorem setPort_card (p : Nat) (x : Port) : (setPort s p x).card = s.card := rfl
@[simp] theorem setPort_eeprom (p : Nat) (x : Port) : (setPort s p x).eeprom = s.eeprom := rfl
@[simp] theorem setPort_glb (p : Nat) (x : Port) : (setPort s p x).glb = s.glb := rfl
@[simp] theorem setPort_tmp (p : Nat) (x : Port) : (setPort s p x).tmp = s.tmp := rfl
@[simp] theorem setPort_lock (p : Nat) (x : Port) : (setPort s p x).lock = s.lock := rfl
@[simp] theorem setPort_hubs (p : Nat) (x : Port) : (setPort s p x).hubs = s.hubs := rfl
@[simp] theorem setPort_cores (p : Nat) (x : Port) : (setPort s p x).cores = s.cores := rfl
@[simp] theorem setPort_tiers (p : Nat) (x : Port) : (setPort s p x).tiers = s.tiers := rfl
@[simp] theorem setPort_routers (p : Nat) (x : Port) : (setPort s p x).routers = s.routers := rfl
@[simp] theorem setPort_later (p : Nat) (x : Port) : (setPort s p x).later = s.later := rfl
@[simp] theorem setPort_fab (p : Nat) (x : Port) : (setPort s p x).fab = { s.fab with ports := tset {} s.fab.ports p x } := rfl
@[simp] theorem setPort_srv (p : Nat) (x : Port) : (setPort s p x).srv = s.srv := rfl
@[simp] theorem setPort_ctxs (p : Nat) (x : Port) : (setPort s p x).ctxs = s.ctxs := rfl
@[simp] theorem setPort_ctxSel (p : Nat) (x : Port) : (setPort s p x).ctxSel = s.ctxSel := rfl
@[simp] theorem setPort_ctxStatus (p : Nat) (x : Port) : (setPort s p x).ctxStatus = s.ctxStatus := rfl
@[simp] theorem setPort_fns (p : Nat) (x : Port) : (setPort s p x).fns = s.fns := rfl
@[simp] theorem setPort_cmds (p : Nat) (x : Port) : (setPort s p x).cmds = s.cmds := rfl
@[simp] theorem setPort_nextCmd (p : Nat) (x : Port) : (setPort s p x).nextCmd = s.nextCmd := rfl
@[simp] theorem setPort_hostA (p : Nat) (x : Port) : (setPort s p x).hostA = s.hostA := rfl
@[simp] theorem setPort_hostB (p : Nat) (x : Port) : (setPort s p x).hostB = s.hostB := rfl
@[simp] theorem setPort_saf (p : Nat) (x : Port) : (setPort s p x).saf = s.saf := rfl
@[simp] theorem setPort_bsc (p : Nat) (x : Port) : (setPort s p x).bsc = s.bsc := rfl
@[simp] theorem setPort_pwr (p : Nat) (x : Port) : (setPort s p x).pwr = s.pwr := rfl
@[simp] theorem setPort_svc (p : Nat) (x : Port) : (setPort s p x).svc = s.svc := rfl
@[simp] theorem setPort_readData (p : Nat) (x : Port) : (setPort s p x).readData = s.readData := rfl
@[simp] theorem setPort_wire (p : Nat) (x : Port) : (setPort s p x).wire = s.wire := rfl
@[simp] theorem setPort_freeCtr (p : Nat) (x : Port) : (setPort s p x).freeCtr = s.freeCtr := rfl

@[simp] theorem updPort_pending (p : Nat) (f : Port → Port) : (updPort s p f).pending = s.pending := rfl
@[simp] theorem updPort_now (p : Nat) (f : Port → Port) : (updPort s p f).now = s.now := rfl
@[simp] theorem updPort_card (p : Nat) (f : Port → Port) : (updPort s p f).card = s.card := rfl
@[simp] theorem updPort_eeprom (p : Nat) (f : Port → Port) : (updPort s p f).eeprom = s.eeprom := rfl
@[simp] theorem updPort_glb (p : Nat) (f : Port → Port) : (updPort s p f).glb = s.glb := rfl
@[simp] theorem updPort_tmp (p : Nat) (f : Port → Port) : (updPort s p f).tmp = s.tmp := rfl
@[simp] theorem updPort_lock (p : Nat) (f : Port → Port) : (updPort s p f).lock = s.lock := rfl
@[simp] theorem updPort_hubs (p : Nat) (f : Port → Port) : (updPort s p f).hubs = s.hubs := rfl
@[simp] theorem updPort_cores (p : Nat) (f : Port → Port) : (updPort s p f).cores = s.cores := rfl
@[simp] theorem updPort_tiers (p : Nat) (f : Port → Port) : (updPort s p f).tiers = s.tiers := rfl
@[simp] theorem updPort_routers (p : Nat) (f : Port → Port) : (updPort s p f).routers = s.routers := rfl
@[simp] theorem updPort_later (p : Nat) (f : Port → Port) : (updPort s p f).later = s.later := rfl
@[simp] theorem updPort_fab (p : Nat) (f : Port → Port) : (updPort s p f).fab = { s.fab with ports := tset {} s.fab.ports p (f (portAt s p)) } := rfl
@[simp] theorem updPort_srv (p : Nat) (f : Port → Port) : (updPort s p f).srv = s.srv := rfl
@[simp] theorem updPort_ctxs (p : Nat) (f : Port → Port) : (updPort s p f).ctxs = s.ctxs := rfl
@[simp] theorem updPort_ctxSel (p : Nat) (f : Port → Port) : (updPort s p f).ctxSel = s.ctxSel := rfl
@[simp] theorem updPort_ctxStatus (p : Nat) (f : Port → Port) : (updPort s p f).ctxStatus = s.ctxStatus := rfl
@[simp] theorem updPort_fns (p : Nat) (f : Port → Port) : (updPort s p f).fns = s.fns := rfl
@[simp] theorem updPort_cmds (p : Nat) (f : Port → Port) : (updPort s p f).cmds = s.cmds := rfl
@[simp] theorem updPort_nextCmd (p : Nat) (f : Port → Port) : (updPort s p f).nextCmd = s.nextCmd := rfl
@[simp] theorem updPort_hostA (p : Nat) (f : Port → Port) : (updPort s p f).hostA = s.hostA := rfl
@[simp] theorem updPort_hostB (p : Nat) (f : Port → Port) : (updPort s p f).hostB = s.hostB := rfl
@[simp] theorem updPort_saf (p : Nat) (f : Port → Port) : (updPort s p f).saf = s.saf := rfl
@[simp] theorem updPort_bsc (p : Nat) (f : Port → Port) : (updPort s p f).bsc = s.bsc := rfl
@[simp] theorem updPort_pwr (p : Nat) (f : Port → Port) : (updPort s p f).pwr = s.pwr := rfl
@[simp] theorem updPort_svc (p : Nat) (f : Port → Port) : (updPort s p f).svc = s.svc := rfl
@[simp] theorem updPort_readData (p : Nat) (f : Port → Port) : (updPort s p f).readData = s.readData := rfl
@[simp] theorem updPort_wire (p : Nat) (f : Port → Port) : (updPort s p f).wire = s.wire := rfl
@[simp] theorem updPort_freeCtr (p : Nat) (f : Port → Port) : (updPort s p f).freeCtr = s.freeCtr := rfl

@[simp] theorem setLane_pending (l : Nat) (x : Lane) : (setLane s l x).pending = s.pending := rfl
@[simp] theorem setLane_now (l : Nat) (x : Lane) : (setLane s l x).now = s.now := rfl
@[simp] theorem setLane_card (l : Nat) (x : Lane) : (setLane s l x).card = s.card := rfl
@[simp] theorem setLane_eeprom (l : Nat) (x : Lane) : (setLane s l x).eeprom = s.eeprom := rfl
@[simp] theorem setLane_glb (l : Nat) (x : Lane) : (setLane s l x).glb = s.glb := rfl
@[simp] theorem setLane_tmp (l : Nat) (x : Lane) : (setLane s l x).tmp = s.tmp := rfl
@[simp] theorem setLane_lock (l : Nat) (x : Lane) : (setLane s l x).lock = s.lock := rfl
@[simp] theorem setLane_hubs (l : Nat) (x : Lane) : (setLane s l x).hubs = s.hubs := rfl
@[simp] theorem setLane_cores (l : Nat) (x : Lane) : (setLane s l x).cores = s.cores := rfl
@[simp] theorem setLane_tiers (l : Nat) (x : Lane) : (setLane s l x).tiers = s.tiers := rfl
@[simp] theorem setLane_routers (l : Nat) (x : Lane) : (setLane s l x).routers = s.routers := rfl
@[simp] theorem setLane_later (l : Nat) (x : Lane) : (setLane s l x).later = s.later := rfl
@[simp] theorem setLane_fab (l : Nat) (x : Lane) : (setLane s l x).fab = s.fab := rfl
@[simp] theorem setLane_srv (l : Nat) (x : Lane) : (setLane s l x).srv = { s.srv with lanes := tset {} s.srv.lanes l x } := rfl
@[simp] theorem setLane_ctxs (l : Nat) (x : Lane) : (setLane s l x).ctxs = s.ctxs := rfl
@[simp] theorem setLane_ctxSel (l : Nat) (x : Lane) : (setLane s l x).ctxSel = s.ctxSel := rfl
@[simp] theorem setLane_ctxStatus (l : Nat) (x : Lane) : (setLane s l x).ctxStatus = s.ctxStatus := rfl
@[simp] theorem setLane_fns (l : Nat) (x : Lane) : (setLane s l x).fns = s.fns := rfl
@[simp] theorem setLane_cmds (l : Nat) (x : Lane) : (setLane s l x).cmds = s.cmds := rfl
@[simp] theorem setLane_nextCmd (l : Nat) (x : Lane) : (setLane s l x).nextCmd = s.nextCmd := rfl
@[simp] theorem setLane_hostA (l : Nat) (x : Lane) : (setLane s l x).hostA = s.hostA := rfl
@[simp] theorem setLane_hostB (l : Nat) (x : Lane) : (setLane s l x).hostB = s.hostB := rfl
@[simp] theorem setLane_saf (l : Nat) (x : Lane) : (setLane s l x).saf = s.saf := rfl
@[simp] theorem setLane_bsc (l : Nat) (x : Lane) : (setLane s l x).bsc = s.bsc := rfl
@[simp] theorem setLane_pwr (l : Nat) (x : Lane) : (setLane s l x).pwr = s.pwr := rfl
@[simp] theorem setLane_svc (l : Nat) (x : Lane) : (setLane s l x).svc = s.svc := rfl
@[simp] theorem setLane_readData (l : Nat) (x : Lane) : (setLane s l x).readData = s.readData := rfl
@[simp] theorem setLane_wire (l : Nat) (x : Lane) : (setLane s l x).wire = s.wire := rfl
@[simp] theorem setLane_freeCtr (l : Nat) (x : Lane) : (setLane s l x).freeCtr = s.freeCtr := rfl

@[simp] theorem updLane_pending (l : Nat) (f : Lane → Lane) : (updLane s l f).pending = s.pending := rfl
@[simp] theorem updLane_now (l : Nat) (f : Lane → Lane) : (updLane s l f).now = s.now := rfl
@[simp] theorem updLane_card (l : Nat) (f : Lane → Lane) : (updLane s l f).card = s.card := rfl
@[simp] theorem updLane_eeprom (l : Nat) (f : Lane → Lane) : (updLane s l f).eeprom = s.eeprom := rfl
@[simp] theorem updLane_glb (l : Nat) (f : Lane → Lane) : (updLane s l f).glb = s.glb := rfl
@[simp] theorem updLane_tmp (l : Nat) (f : Lane → Lane) : (updLane s l f).tmp = s.tmp := rfl
@[simp] theorem updLane_lock (l : Nat) (f : Lane → Lane) : (updLane s l f).lock = s.lock := rfl
@[simp] theorem updLane_hubs (l : Nat) (f : Lane → Lane) : (updLane s l f).hubs = s.hubs := rfl
@[simp] theorem updLane_cores (l : Nat) (f : Lane → Lane) : (updLane s l f).cores = s.cores := rfl
@[simp] theorem updLane_tiers (l : Nat) (f : Lane → Lane) : (updLane s l f).tiers = s.tiers := rfl
@[simp] theorem updLane_routers (l : Nat) (f : Lane → Lane) : (updLane s l f).routers = s.routers := rfl
@[simp] theorem updLane_later (l : Nat) (f : Lane → Lane) : (updLane s l f).later = s.later := rfl
@[simp] theorem updLane_fab (l : Nat) (f : Lane → Lane) : (updLane s l f).fab = s.fab := rfl
@[simp] theorem updLane_srv (l : Nat) (f : Lane → Lane) : (updLane s l f).srv = { s.srv with lanes := tset {} s.srv.lanes l (f (laneAt s l)) } := rfl
@[simp] theorem updLane_ctxs (l : Nat) (f : Lane → Lane) : (updLane s l f).ctxs = s.ctxs := rfl
@[simp] theorem updLane_ctxSel (l : Nat) (f : Lane → Lane) : (updLane s l f).ctxSel = s.ctxSel := rfl
@[simp] theorem updLane_ctxStatus (l : Nat) (f : Lane → Lane) : (updLane s l f).ctxStatus = s.ctxStatus := rfl
@[simp] theorem updLane_fns (l : Nat) (f : Lane → Lane) : (updLane s l f).fns = s.fns := rfl
@[simp] theorem updLane_cmds (l : Nat) (f : Lane → Lane) : (updLane s l f).cmds = s.cmds := rfl
@[simp] theorem updLane_nextCmd (l : Nat) (f : Lane → Lane) : (updLane s l f).nextCmd = s.nextCmd := rfl
@[simp] theorem updLane_hostA (l : Nat) (f : Lane → Lane) : (updLane s l f).hostA = s.hostA := rfl
@[simp] theorem updLane_hostB (l : Nat) (f : Lane → Lane) : (updLane s l f).hostB = s.hostB := rfl
@[simp] theorem updLane_saf (l : Nat) (f : Lane → Lane) : (updLane s l f).saf = s.saf := rfl
@[simp] theorem updLane_bsc (l : Nat) (f : Lane → Lane) : (updLane s l f).bsc = s.bsc := rfl
@[simp] theorem updLane_pwr (l : Nat) (f : Lane → Lane) : (updLane s l f).pwr = s.pwr := rfl
@[simp] theorem updLane_svc (l : Nat) (f : Lane → Lane) : (updLane s l f).svc = s.svc := rfl
@[simp] theorem updLane_readData (l : Nat) (f : Lane → Lane) : (updLane s l f).readData = s.readData := rfl
@[simp] theorem updLane_wire (l : Nat) (f : Lane → Lane) : (updLane s l f).wire = s.wire := rfl
@[simp] theorem updLane_freeCtr (l : Nat) (f : Lane → Lane) : (updLane s l f).freeCtr = s.freeCtr := rfl

@[simp] theorem updSrvCtx_pending (k : Nat) (f : SrvCtx → SrvCtx) : (updSrvCtx s k f).pending = s.pending := rfl
@[simp] theorem updSrvCtx_now (k : Nat) (f : SrvCtx → SrvCtx) : (updSrvCtx s k f).now = s.now := rfl
@[simp] theorem updSrvCtx_card (k : Nat) (f : SrvCtx → SrvCtx) : (updSrvCtx s k f).card = s.card := rfl
@[simp] theorem updSrvCtx_eeprom (k : Nat) (f : SrvCtx → SrvCtx) : (updSrvCtx s k f).eeprom = s.eeprom := rfl
@[simp] theorem updSrvCtx_glb (k : Nat) (f : SrvCtx → SrvCtx) : (updSrvCtx s k f).glb = s.glb := rfl
@[simp] theorem updSrvCtx_tmp (k : Nat) (f : SrvCtx → SrvCtx) : (updSrvCtx s k f).tmp = s.tmp := rfl
@[simp] theorem updSrvCtx_lock (k : Nat) (f : SrvCtx → SrvCtx) : (updSrvCtx s k f).lock = s.lock := rfl
@[simp] theorem updSrvCtx_hubs (k : Nat) (f : SrvCtx → SrvCtx) : (updSrvCtx s k f).hubs = s.hubs := rfl
@[simp] theorem updSrvCtx_cores (k : Nat) (f : SrvCtx → SrvCtx) : (updSrvCtx s k f).cores = s.cores := rfl
@[simp] theorem updSrvCtx_tiers (k : Nat) (f : SrvCtx → SrvCtx) : (updSrvCtx s k f).tiers = s.tiers := rfl
@[simp] theorem updSrvCtx_routers (k : Nat) (f : SrvCtx → SrvCtx) : (updSrvCtx s k f).routers = s.routers := rfl
@[simp] theorem updSrvCtx_later (k : Nat) (f : SrvCtx → SrvCtx) : (updSrvCtx s k f).later = s.later := rfl
@[simp] theorem updSrvCtx_fab (k : Nat) (f : SrvCtx → SrvCtx) : (updSrvCtx s k f).fab = s.fab := rfl
@[simp] theorem updSrvCtx_srv (k : Nat) (f : SrvCtx → SrvCtx) : (updSrvCtx s k f).srv = { s.srv with perCtx := tupd {} s.srv.perCtx k f } := rfl
@[simp] theorem updSrvCtx_ctxs (k : Nat) (f : SrvCtx → SrvCtx) : (updSrvCtx s k f).ctxs = s.ctxs := rfl
@[simp] theorem updSrvCtx_ctxSel (k : Nat) (f : SrvCtx → SrvCtx) : (updSrvCtx s k f).ctxSel = s.ctxSel := rfl
@[simp] theorem updSrvCtx_ctxStatus (k : Nat) (f : SrvCtx → SrvCtx) : (updSrvCtx s k f).ctxStatus = s.ctxStatus := rfl
@[simp] theorem updSrvCtx_fns (k : Nat) (f : SrvCtx → SrvCtx) : (updSrvCtx s k f).fns = s.fns := rfl
@[simp] theorem updSrvCtx_cmds (k : Nat) (f : SrvCtx → SrvCtx) : (updSrvCtx s k f).cmds = s.cmds := rfl
@[simp] theorem updSrvCtx_nextCmd (k : Nat) (f : SrvCtx → SrvCtx) : (updSrvCtx s k f).nextCmd = s.nextCmd := rfl
@[simp] theorem updSrvCtx_hostA (k : Nat) (f : SrvCtx → SrvCtx) : (updSrvCtx s k f).hostA = s.hostA := rfl
@[simp] theorem updSrvCtx_hostB (k : Nat) (f : SrvCtx → SrvCtx) : (updSrvCtx s k f).hostB = s.hostB := rfl
@[simp] theorem updSrvCtx_saf (k : Nat) (f : SrvCtx → SrvCtx) : (updSrvCtx s k f).saf = s.saf := rfl
@[simp] theorem updSrvCtx_bsc (k : Nat) (f : SrvCtx → SrvCtx) : (updSrvCtx s k f).bsc = s.bsc := rfl
@[simp] theorem updSrvCtx_pwr (k : Nat) (f : SrvCtx → SrvCtx) : (updSrvCtx s k f).pwr = s.pwr := rfl
@[simp] theorem updSrvCtx_svc (k : Nat) (f : SrvCtx → SrvCtx) : (updSrvCtx s k f).svc = s.svc := rfl
@[simp] theorem updSrvCtx_readData (k : Nat) (f : SrvCtx → SrvCtx) : (updSrvCtx s k f).readData = s.readData := rfl
@[simp] theorem updSrvCtx_wire (k : Nat) (f : SrvCtx → SrvCtx) : (updSrvCtx s k f).wire = s.wire := rfl
@[simp] theorem updSrvCtx_freeCtr (k : Nat) (f : SrvCtx → SrvCtx) : (updSrvCtx s k f).freeCtr = s.freeCtr := rfl

@[simp] theorem drive_pending : (drive s).pending = s.pending := rfl
@[simp] theorem drive_now : (drive s).now = s.now := rfl
@[simp] theorem drive_card : (drive s).card = s.card := rfl
@[simp] theorem drive_eeprom : (drive s).eeprom = s.eeprom := rfl
@[simp] theorem drive_glb : (drive s).glb = s.glb := rfl
@[simp] theorem drive_tmp : (drive s).tmp = s.tmp := rfl
@[simp] theorem drive_lock : (drive s).lock = s.lock := rfl
@[simp] theorem drive_hubs : (drive s).hubs = s.hubs := rfl
@[simp] theorem drive_cores : (drive s).cores = s.cores := rfl
@[simp] theorem drive_tiers : (drive s).tiers = s.tiers := rfl
@[simp] theorem drive_routers : (drive s).routers = s.routers := rfl
@[simp] theorem drive_later : (drive s).later = s.later := rfl
@[simp] theorem drive_fab : (drive s).fab = s.fab := rfl
@[simp] theorem drive_srv : (drive s).srv = s.srv := rfl
@[simp] theorem drive_ctxs : (drive s).ctxs = s.ctxs := rfl
@[simp] theorem drive_ctxSel : (drive s).ctxSel = s.ctxSel := rfl
@[simp] theorem drive_ctxStatus : (drive s).ctxStatus = s.ctxStatus := rfl
@[simp] theorem drive_fns : (drive s).fns = s.fns := rfl
@[simp] theorem drive_cmds : (drive s).cmds = s.cmds := rfl
@[simp] theorem drive_nextCmd : (drive s).nextCmd = s.nextCmd := rfl
@[simp] theorem drive_hostA : (drive s).hostA = s.hostA := rfl
@[simp] theorem drive_hostB : (drive s).hostB = s.hostB := rfl
@[simp] theorem drive_saf : (drive s).saf = s.saf := rfl
@[simp] theorem drive_bsc : (drive s).bsc = s.bsc := rfl
@[simp] theorem drive_svc : (drive s).svc = s.svc := rfl
@[simp] theorem drive_readData : (drive s).readData = s.readData := rfl
@[simp] theorem drive_wire : (drive s).wire = s.wire := rfl
@[simp] theorem drive_freeCtr : (drive s).freeCtr = s.freeCtr := rfl
@[simp] theorem drive_pwr : (drive s).pwr = { s.pwr with powerGood := goodLevel s, faultN := faultLevel s, thermAlertN := alertLevel s } := rfl

@[simp] theorem answer_pending (t : State) : (answer s t).pending = s.pending := rfl
@[simp] theorem answer_now (t : State) : (answer s t).now = max s.now t.now := rfl
@[simp] theorem answer_card (t : State) : (answer s t).card = t.card := rfl
@[simp] theorem answer_eeprom (t : State) : (answer s t).eeprom = t.eeprom := rfl
@[simp] theorem answer_glb (t : State) : (answer s t).glb = t.glb := rfl
@[simp] theorem answer_tmp (t : State) : (answer s t).tmp = t.tmp := rfl
@[simp] theorem answer_lock (t : State) : (answer s t).lock = t.lock := rfl
@[simp] theorem answer_hubs (t : State) : (answer s t).hubs = t.hubs := rfl
@[simp] theorem answer_cores (t : State) : (answer s t).cores = t.cores := rfl
@[simp] theorem answer_tiers (t : State) : (answer s t).tiers = t.tiers := rfl
@[simp] theorem answer_routers (t : State) : (answer s t).routers = t.routers := rfl
@[simp] theorem answer_later (t : State) : (answer s t).later = t.later := rfl
@[simp] theorem answer_fab (t : State) : (answer s t).fab = t.fab := rfl
@[simp] theorem answer_srv (t : State) : (answer s t).srv = t.srv := rfl
@[simp] theorem answer_ctxs (t : State) : (answer s t).ctxs = t.ctxs := rfl
@[simp] theorem answer_ctxSel (t : State) : (answer s t).ctxSel = t.ctxSel := rfl
@[simp] theorem answer_ctxStatus (t : State) : (answer s t).ctxStatus = t.ctxStatus := rfl
@[simp] theorem answer_fns (t : State) : (answer s t).fns = t.fns := rfl
@[simp] theorem answer_cmds (t : State) : (answer s t).cmds = t.cmds := rfl
@[simp] theorem answer_nextCmd (t : State) : (answer s t).nextCmd = t.nextCmd := rfl
@[simp] theorem answer_hostA (t : State) : (answer s t).hostA = t.hostA := rfl
@[simp] theorem answer_hostB (t : State) : (answer s t).hostB = t.hostB := rfl
@[simp] theorem answer_saf (t : State) : (answer s t).saf = t.saf := rfl
@[simp] theorem answer_bsc (t : State) : (answer s t).bsc = t.bsc := rfl
@[simp] theorem answer_svc (t : State) : (answer s t).svc = t.svc := rfl
@[simp] theorem answer_readData (t : State) : (answer s t).readData = t.readData := rfl
@[simp] theorem answer_wire (t : State) : (answer s t).wire = t.wire := rfl
@[simp] theorem answer_freeCtr (t : State) : (answer s t).freeCtr = t.freeCtr := rfl
@[simp] theorem answer_pwr (t : State) :
    (answer s t).pwr = { t.pwr with powerGood := goodLevel t, faultN := faultLevel t, thermAlertN := alertLevel t } := rfl

end Sys2Proof.Machine
end

