-- ==== Sys2Proof/Laws/Answer.lean ====
section
/-! SUPPORT. What a command's answer is: `done` and `plain` in the phases of the module, and that nothing is settled where nothing is left
to settle. -/

namespace Sys2Proof.Machine

theorem startMsgs_quiet {s : State} (h : ∀ m ∈ s.fab.msgs, m.started = true) (n src : Nat) (edge : Bool) : startMsgs n s src edge = s := by
  cases n with
  | zero => rfl
  | succ n =>
    have e : s.fab.msgs.find? (fun m => decide (m.src = src) && !m.started) = none := by
      rw [List.find?_eq_none]
      intro m hm
      simp [h m hm]
    simp [startMsgs, e]

theorem forAll_same {α : Type} (l : List α) (s : State) (f : State → α → State) (h : ∀ a ∈ l, f s a = s) : forAll l s f = s := by
  unfold forAll
  induction l with
  | nil => rfl
  | cons a l ih =>
    rw [List.foldl_cons, h a (by simp)]
    exact ih (fun b hb => h b (by simp [hb]))

theorem startAll_quiet {s : State} (h : ∀ m ∈ s.fab.msgs, m.started = true) (edge : Bool) : startAll s edge = s :=
  forAll_same _ _ _ (fun _ _ => startMsgs_quiet h _ _ _)

/-- Nothing is settled where nothing is left to settle. -/
theorem settle_quiet {s : State} (h : Quiet s) : settle s = s := by
  obtain ⟨h1, h2, h3⟩ := h
  have e1 : settleReplies s = s := by
    unfold settleReplies
    rw [h1]
    simp only [List.foldl_nil, updFab]
    rw [← h1]
  unfold settle
  rw [e1, startAll_quiet h3]
  simp [settleEnded, h2]

theorem plain_live {s : State} (h : live s = true) (f : State → State) : plain s f = .next (answer s (f s)) := by
  simp [plain, whenLive, h]

theorem plain_dead {s : State} (h : live s = false) (f : State → State) : plain s f = .next s := by simp [plain, whenLive, h]

theorem done_live {s : State} (h : live s = true) (f : State → State) : done s f = .next (answer s (settle (f s))) := by
  simp [done, whenLive, h]

theorem done_dead {s : State} (h : live s = false) (f : State → State) : done s f = .next s := by simp [done, whenLive, h]

/-- A command whose effect leaves nothing to settle answers just its effect. -/
theorem done_quiet {s : State} (h : live s = true) {f : State → State} (q : Quiet (f s)) : done s f = .next (answer s (f s)) := by
  rw [done_live h, settle_quiet q]

/-- After an answer the pins are driven. -/
theorem answer_driven (s t : State) : Driven (answer s t) := ⟨rfl, rfl, rfl⟩

/-- A command whose effect is known: what it answers, with what is left to settle or without. -/
theorem done_settle {s t : State} {f : State → State} (h : live s = true) (e : f s = t) : done s f = .next (answer s (settle t)) := by
  rw [done_live h, e]
theorem done_eq {s t : State} {f : State → State} (h : live s = true) (e : f s = t) (q : Quiet t) : done s f = .next (answer s t) := by
  rw [done_live h, e, settle_quiet q]
theorem plain_eq {s t : State} {f : State → State} (h : live s = true) (e : f s = t) : plain s f = .next (answer s t) := by
  rw [plain_live h, e]

end Sys2Proof.Machine
end

