-- ==== Sys2Proof/Laws/Faults.lean ====
section
/-! SUPPORT. What raising a fault, posting an event, tracing and queueing a control frame leave alone. -/

namespace Sys2Proof.Machine

/-- A property that `f` keeps for each of a list is kept by all of them. -/
theorem forAll_keeps {α : Type} (P : State → Prop) (l : List α) (s : State) (f : State → α → State) (h : P s)
    (hf : ∀ s a, a ∈ l → P s → P (f s a)) : P (forAll l s f) := by
  unfold forAll
  induction l generalizing s with
  | nil => exact h
  | cons a l ih =>
    rw [List.foldl_cons]
    exact ih (f s a) (hf s a (by simp) h) (fun s b hb => hf s b (by simp [hb]))

/-- What `g` reads is the same after `f` for each of a list. -/
theorem forAll_eq {α β : Type} (g : State → β) (l : List α) (s : State) (f : State → α → State) (hf : ∀ s a, g (f s a) = g s) :
    g (forAll l s f) = g s :=
  forAll_keeps (fun t => g t = g s) l s f rfl (fun t a _ h => (hf t a).trans h)

/-- The parts of the machine that a fault, an event or a trace record does not reach. -/
structure Calm (s t : State) : Prop where
  pending : t.pending = s.pending
  now : t.now = s.now
  card : t.card = s.card
  tmp : t.tmp = s.tmp
  lock : t.lock = s.lock
  hubs : t.hubs = s.hubs
  cores : t.cores = s.cores
  tiers : t.tiers = s.tiers
  routers : t.routers = s.routers
  srv : t.srv = s.srv
  cmds : t.cmds = s.cmds
  bsc : t.bsc = s.bsc
  pwr : t.pwr = s.pwr
  svc : t.svc = s.svc
  msgs : t.fab.msgs = s.fab.msgs
  due : t.fab.due = s.fab.due
  ended : t.fab.ended = s.fab.ended
  unconfigured : t.glb.unconfigured = s.glb.unconfigured
  epochDue : t.fab.epochDue = s.fab.epochDue
  epochKept : t.fab.epochKept = s.fab.epochKept
  snapStop : t.fab.snapStop = s.fab.snapStop

theorem Calm.refl (s : State) : Calm s s := by constructor <;> rfl

theorem Calm.trans {s t u : State} (h : Calm s t) (k : Calm t u) : Calm s u := by
  constructor <;> first
    | exact k.pending.trans h.pending | exact k.now.trans h.now | exact k.card.trans h.card | exact k.tmp.trans h.tmp
    | exact k.lock.trans h.lock | exact k.hubs.trans h.hubs | exact k.cores.trans h.cores | exact k.tiers.trans h.tiers
    | exact k.routers.trans h.routers | exact k.srv.trans h.srv | exact k.cmds.trans h.cmds | exact k.bsc.trans h.bsc
    | exact k.pwr.trans h.pwr | exact k.svc.trans h.svc | exact k.msgs.trans h.msgs | exact k.due.trans h.due
    | exact k.ended.trans h.ended | exact k.unconfigured.trans h.unconfigured
    | exact k.epochDue.trans h.epochDue | exact k.epochKept.trans h.epochKept | exact k.snapStop.trans h.snapStop

theorem forAll_calm {α : Type} (l : List α) (s : State) (f : State → α → State) (hf : ∀ s a, Calm s (f s a)) : Calm s (forAll l s f) :=
  forAll_keeps (Calm s) l s f (Calm.refl s) (fun t a _ h => h.trans (hf t a))

theorem updFn_calm (s : State) (f : Nat) (g : Fn → Fn) : Calm s (updFn s f g) := by constructor <;> rfl
theorem updCtx_calm (s : State) (k : Nat) (g : Ctx → Ctx) : Calm s (updCtx s k g) := by constructor <;> rfl
theorem updPort_calm (s : State) (p : Nat) (g : Port → Port) : Calm s (updPort s p g) := by constructor <;> rfl
theorem updSaf_calm (s : State) (g : Saf → Saf) : Calm s (updSaf s g) := by constructor <;> rfl

theorem setHostMem_calm (s : State) (f : Nat) (m : Mem) : Calm s (setHostMem s f m) := by
  unfold setHostMem; split <;> constructor <;> rfl

theorem evtWrite_calm (s : State) (f : Nat) (r : BitVec 256) : Calm s (evtWrite s f r) := by
  unfold evtWrite
  exact ((setHostMem_calm s f _).trans (updFn_calm _ f _)).trans (updFn_calm _ f _)

theorem postTo_calm (s : State) (f : Nat) (r : BitVec 256) : Calm s (postTo s f r) := by
  unfold postTo
  simp only
  split
  · exact evtWrite_calm s f r
  · split <;> exact updFn_calm s f _

theorem postSteward_calm (s : State) (kind ctx tag arg0 : Nat) (arg1 : W64) : Calm s (postSteward s kind ctx tag arg0 arg1) := by
  unfold postSteward
  split
  · exact postTo_calm s _ _
  · exact Calm.refl s

theorem trace_calm (s : State) (kind src a : Nat) (b : W64) : Calm s (trace s kind src a b) := by
  unfold trace
  split
  · have h : Calm s (updGlb s (fun g => { g with traceSeq := g.traceSeq + 1 })) := by constructor <;> rfl
    simp only
    split
    · exact h.trans (evtWrite_calm _ 9 _)
    · exact h.trans (by constructor <;> rfl)
  · exact Calm.refl s

theorem sendControlAll_calm (s : State) (ps : List Nat) (typ payload : Nat) : Calm s (sendControlAll s ps typ payload) :=
  forAll_calm ps s _ (fun s p => updPort_calm s p _)

theorem sendVerdict_calm (s : State) (tag : Nat) (count : W64) : Calm s (sendVerdict s tag count) := by
  have h : Calm s (updFab s (fun f => { f with verdicts := (BitVec.ofNat 16 tag, count) :: f.verdicts })) := by constructor <;> rfl
  exact h.trans (sendControlAll_calm _ _ _ _)

theorem setSafStatus_calm (s : State) (i : Nat) : Calm s (setSafStatus s i) := updSaf_calm s _

theorem markCtx_calm (s : State) (k : Nat) (counts : List W64) (src code : Nat) : Calm s (markCtx s k counts src code) := updCtx_calm s k _

/-- Raising a fault reaches the SAF block, the contexts' marks, the trace, and the ports' control queues, and nothing else (R367, R370,
R373). -/
theorem raiseAt_calm (s : State) (code : Nat) (scope : List Nat) (counts : List W64) (srcKind srcIdx ctx low : Nat) :
    Calm s (raiseAt s code scope counts srcKind srcIdx ctx low) := by
  unfold raiseAt
  extract_lets detail s1 s2 s3 s4 s5
  have h1 : Calm s s1 := updSaf_calm s _
  have h2 : Calm s s2 := h1.trans (setSafStatus_calm _ 0)
  have h3 : Calm s s3 := by
    unfold s3
    split
    · exact h2.trans (setSafStatus_calm _ _)
    · exact h2
  have h4 : Calm s s4 := h3.trans (forAll_calm _ _ _ (fun s k => markCtx_calm s k _ _ _))
  have h5 : Calm s s5 := h4.trans (trace_calm _ _ _ _ _)
  split
  · refine h5.trans (forAll_calm _ _ _ (fun s k => ?_))
    split
    · exact forAll_calm _ _ _ (fun s t => sendVerdict_calm s _ t)
    · exact Calm.refl s
  · exact h5

theorem raise_calm (s : State) (code : Nat) (scope : List Nat) (srcKind srcIdx ctx low : Nat) :
    Calm s (raise s code scope srcKind srcIdx ctx low) := raiseAt_calm s code scope _ srcKind srcIdx ctx low

theorem raiseCore_calm (s : State) (c code low : Nat) : Calm s (raiseCore s c code low) := raise_calm s code _ _ _ _ _

theorem Calm.quiet {s t : State} (h : Calm s t) (q : Quiet s) : Quiet t := by
  obtain ⟨q1, q2, q3⟩ := q
  exact ⟨h.due.trans q1, h.ended.trans q2, h.msgs ▸ q3⟩

theorem Calm.live {s t : State} (h : Calm s t) : live t = live s := by unfold Machine.live; rw [h.pwr]

end Sys2Proof.Machine
end

