-- ==== Sys2Proof/Laws/Lost.lean ====
section
/-! SUPPORT. Entering tempo lost by a fault, said once: `lostFault` gives `TempoLost`. -/

namespace Sys2Proof.Machine

theorem orBit_same {n : Nat} (w : BitVec n) (i : Nat) (h : i < n) : bit (orBit w i) i = true := by
  unfold bit orBit
  rw [BitVec.getLsbD_or, BitVec.getLsbD_ofNat]
  simp only [h, decide_true, Nat.testBit_two_pow_self, Bool.and_self, Bool.or_true]

theorem orBit_mono {n : Nat} (w : BitVec n) (i j : Nat) (h : bit w j = true) : bit (orBit w i) j = true := by
  unfold bit orBit at *
  rw [BitVec.getLsbD_or, h]; simp

/-- Setting a bit outside a field leaves the field. -/
theorem bits_orBit {n : Nat} (w : BitVec n) (i lo len : Nat) (h : i < lo ∨ lo + len ≤ i) : bits (orBit w i) lo len = bits w lo len := by
  unfold bits orBit
  apply Nat.eq_of_testBit_eq
  intro j
  simp only [Nat.testBit_mod_two_pow, Nat.testBit_div_two_pow, BitVec.toNat_or, Nat.testBit_or, BitVec.toNat_ofNat, Nat.testBit_two_pow]
  by_cases hj : j < len
  · have : ¬ (i = j + lo) := by omega
    simp [this]
  · simp [hj]

/-! ### Tables, without the canonical form: an entry that is not the default reads back -/

theorem tget_tset_ne {α : Type} [DecidableEq α] (d : α) (t : Tbl α) (i j : Nat) (v : α) (hv : v ≠ d) :
    tget d (tset d t i v) j = if j = i then v else tget d t j := by
  induction t with
  | nil => simp only [tset, hv, if_false, tget]; split <;> simp_all
  | cons p t ih =>
    obtain ⟨k, w⟩ := p
    simp only [tset, hv, if_false]
    rcases Nat.lt_trichotomy i k with l | l | l
    · simp only [l, if_true, tget]
      by_cases h : j = i
      · simp [h]
      · simp only [h, if_false]
        by_cases h2 : j < i
        · have : j ≠ k := by omega
          have h3 : j < k := by omega
          simp [h2, this, h3]
        · simp [h2]
    · subst l
      simp only [Nat.lt_irrefl, if_false, if_true, tget]
      by_cases h : j = i <;> simp [h]
    · have h1 : ¬ i < k := by omega
      have h2 : i ≠ k := by omega
      simp only [h1, h2, if_false, tget, ih]
      by_cases h : j = k
      · subst h; have : j ≠ i := by omega
        simp [this]
      · simp only [h, if_false]
        by_cases h3 : j < k
        · have : j ≠ i := by omega
          simp [h3, this]
        · simp [h3]

theorem tset_tset {α : Type} [DecidableEq α] (d : α) (t : Tbl α) (i : Nat) (v w : α) (hv : v ≠ d) : tset d (tset d t i v) i w = tset d t i w := by
  induction t with
  | nil => simp only [tset, hv, if_false, Nat.lt_irrefl, if_true]
  | cons p t ih =>
    obtain ⟨k, u⟩ := p
    rcases Nat.lt_trichotomy i k with l | l | l
    · simp only [tset, hv, if_false, l, if_true, Nat.lt_irrefl]
    · subst l
      simp only [tset, hv, if_false, Nat.lt_irrefl, if_true]
    · simp only [tset, Nat.lt_asymm l, if_false, Nat.ne_of_gt l, ih]

/-- A core that works is not a core at reset: what it is set to reads back, and a second setting replaces the first. -/
theorem coreAt_setCore {s : State} {c : Nat} {x : Core} (h : x.maint = false) : coreAt (setCore s c x) c = x := by
  have hx : x ≠ {} := fun e => by rw [e] at h; cases h
  exact (tget_tset_ne _ _ _ _ _ hx).trans (if_pos rfl)
theorem setCore_setCore {s : State} {c : Nat} {x y : Core} (h : x.maint = false) : setCore (setCore s c x) c y = setCore s c y := by
  have hx : x ≠ {} := fun e => by rw [e] at h; cases h
  unfold setCore
  simp only [tset_tset _ _ _ _ _ hx]

/-- A context that runs or ran a worked tempo: it is not an unused one. -/
def Used (s : State) (k : Nat) : Prop := ctxAt s k ≠ {}

theorem moduleScope_used {s : State} {k : Nat} (h : k ∈ moduleScope s) : Used s k := by
  intro e
  unfold moduleScope at h
  rw [List.mem_filter, e] at h
  simp at h

theorem ctxAt_updCtx {s : State} {k : Nat} (f : Ctx → Ctx) (h : f (ctxAt s k) ≠ {}) (j : Nat) :
    ctxAt (updCtx s k f) j = if j = k then f (ctxAt s k) else ctxAt s j := tget_tset_ne _ _ _ _ _ h

/-- What marking does to the contexts of a list: marks are added, and nothing else of any context changes. -/
structure Marked (s t : State) : Prop where
  ran : ∀ k, (ctxAt t k).ranEnded = (ctxAt s k).ranEnded
  used : ∀ k, Used s k → Used t k
  more : ∀ k, ∀ m ∈ (ctxAt s k).marks, m ∈ (ctxAt t k).marks

theorem Marked.refl (s : State) : Marked s s := ⟨fun _ => rfl, fun _ h => h, fun _ _ h => h⟩
theorem Marked.trans {s t u : State} (h : Marked s t) (k : Marked t u) : Marked s u :=
  ⟨fun i => (k.ran i).trans (h.ran i), fun i hi => k.used i (h.used i hi), fun i m hm => k.more i m (h.more i m hm)⟩
theorem marked_of_ctxs {s t : State} (h : t.ctxs = s.ctxs) : Marked s t := by
  have e : ∀ k, ctxAt t k = ctxAt s k := fun k => by unfold ctxAt; rw [h]
  exact ⟨fun k => by rw [e], fun k hk => by unfold Used; rw [e]; exact hk, fun k m hm => by rw [e]; exact hm⟩

theorem markCtx_marked {s : State} {k : Nat} (hk : Used s k) (counts : List W64) (src code : Nat) : Marked s (markCtx s k counts src code) := by
  have hne : ({ ctxAt s k with marks := (ctxAt s k).marks ++ (ctxCounts s k counts).map (fun t => (t, src, BitVec.ofNat 8 code)) } : Ctx) ≠ {} := by
    intro e
    have h : ctxAt s k = {} := by
      have hm : (ctxAt s k).marks = [] := by
        have := congrArg Ctx.marks e; exact (List.append_eq_nil_iff.1 this).1
      have e2 := congrArg (fun c : Ctx => ({ c with marks := (ctxAt s k).marks } : Ctx)) e
      calc ctxAt s k = _ := e2
        _ = {} := by rw [hm]
    exact hk h
  have e := fun j => ctxAt_updCtx (s := s) (k := k)
    (fun c => { c with marks := c.marks ++ (ctxCounts s k counts).map (fun t => (t, src, BitVec.ofNat 8 code)) }) hne j
  refine ⟨fun j => ?_, fun j hj => ?_, fun j m hm => ?_⟩
  · unfold markCtx; rw [e]; split
    · rename_i h; subst h; rfl
    · rfl
  · unfold Used markCtx; rw [e]; split
    · exact hne
    · exact hj
  · unfold markCtx; rw [e]; split
    · rename_i h; subst h; exact List.mem_append_left _ hm
    · exact hm

theorem markCtx_mem {s : State} {k : Nat} (counts : List W64) (src code : Nat) (n : W64) (hn : n ∈ ctxCounts s k counts) :
    ∃ m ∈ (ctxAt (markCtx s k counts src code) k).marks, m.1 = n := by
  have hmem : (n, src, BitVec.ofNat 8 code) ∈ (ctxAt s k).marks ++ (ctxCounts s k counts).map (fun t => (t, src, BitVec.ofNat 8 code)) :=
    List.mem_append_right _ (List.mem_map.2 ⟨n, hn, rfl⟩)
  have hne : ({ ctxAt s k with marks := (ctxAt s k).marks ++ (ctxCounts s k counts).map (fun t => (t, src, BitVec.ofNat 8 code)) } : Ctx) ≠ {} := by
    intro e
    have := congrArg Ctx.marks e
    exact List.ne_nil_of_mem hmem this
  refine ⟨(n, src, BitVec.ofNat 8 code), ?_, rfl⟩
  unfold markCtx
  rw [ctxAt_updCtx _ hne, if_pos rfl]
  exact hmem

theorem ctxCounts_congr {s t : State} (ht : t.tmp = s.tmp) {k : Nat} (hr : (ctxAt t k).ranEnded = (ctxAt s k).ranEnded) (l : List W64) :
    ctxCounts t k l = ctxCounts s k l := by unfold ctxCounts; rw [ht, hr]

/-- Marking every context of a list of used ones. -/
theorem markAll {s : State} (l : List Nat) (hl : ∀ k ∈ l, Used s k) (counts : List W64) (src code : Nat) :
    Marked s (forAll l s (fun s k => markCtx s k counts src code)) ∧
    ∀ k ∈ l, ∀ n ∈ ctxCounts s k counts, ∃ m ∈ (ctxAt (forAll l s (fun s k => markCtx s k counts src code)) k).marks, m.1 = n := by
  induction l generalizing s with
  | nil => exact ⟨Marked.refl s, fun k hk => by cases hk⟩
  | cons a l ih =>
    have h1 := markCtx_marked (hl a (by simp)) counts src code
    have h2 := ih (s := markCtx s a counts src code) (fun k hk => h1.used k (hl k (by simp [hk])))
    refine ⟨h1.trans h2.1, fun k hk n hn => ?_⟩
    rcases List.mem_cons.1 hk with rfl | hk
    · obtain ⟨m, hm, e⟩ := markCtx_mem counts src code n hn
      exact ⟨m, h2.1.more k m hm, e⟩
    · exact h2.2 k hk n (by rw [ctxCounts_congr (s := s) (t := markCtx s a counts src code) rfl (h1.ran k)]; exact hn)

/-! ### What raising a fault does to contexts and reports -/

theorem postTo_ctxs (s : State) (f : Nat) (r : BitVec 256) : (postTo s f r).ctxs = s.ctxs ∧ (postTo s f r).saf = s.saf := by
  have h (u : State) (m : Mem) : (setHostMem u f m).ctxs = u.ctxs ∧ (setHostMem u f m).saf = u.saf := by
    unfold setHostMem; split <;> exact ⟨rfl, rfl⟩
  unfold postTo; simp only; split
  · exact h s _
  · split <;> exact ⟨rfl, rfl⟩

theorem postSteward_ctxs (s : State) (a b c d : Nat) (e : W64) :
    (postSteward s a b c d e).ctxs = s.ctxs ∧ (postSteward s a b c d e).saf = s.saf := by
  unfold postSteward; split
  · exact postTo_ctxs _ _ _
  · exact ⟨rfl, rfl⟩

theorem evtWrite_ctxs (s : State) (f : Nat) (r : BitVec 256) : (evtWrite s f r).ctxs = s.ctxs ∧ (evtWrite s f r).saf = s.saf := by
  unfold evtWrite setHostMem; simp only; split <;> exact ⟨rfl, rfl⟩

theorem trace_ctxs (s : State) (a b c : Nat) (d : W64) : (trace s a b c d).ctxs = s.ctxs ∧ (trace s a b c d).saf = s.saf := by
  unfold trace; split
  · simp only; split
    · exact evtWrite_ctxs _ _ _
    · exact ⟨rfl, rfl⟩
  · exact ⟨rfl, rfl⟩

theorem sendControlAll_ctxs (s : State) (ps : List Nat) (a b : Nat) :
    (sendControlAll s ps a b).ctxs = s.ctxs ∧ (sendControlAll s ps a b).saf = s.saf :=
  forAll_keeps (fun t => t.ctxs = s.ctxs ∧ t.saf = s.saf) ps s _ ⟨rfl, rfl⟩ (fun _ _ _ h => h)

theorem setSafStatus_reports (s : State) (i : Nat) : (setSafStatus s i).saf.reports = s.saf.reports := rfl

/-- Raising a fault in a scope of used contexts: its report is appended and its worked tempos are marked. -/
theorem raiseAt_marks (s : State) (code : Nat) (scope : List Nat) (hs : ∀ k ∈ scope, Used s k) (counts : List W64) (sk si cx low : Nat) :
    Marked s (raiseAt s code scope counts sk si cx low) ∧
    (∀ k ∈ scope, ∀ n ∈ ctxCounts s k counts, ∃ m ∈ (ctxAt (raiseAt s code scope counts sk si cx low) k).marks, m.1 = n) ∧
    ∃ e : FlogEnt, (raiseAt s code scope counts sk si cx low).saf.reports = s.saf.reports ++ [e] ∧ e.code = BitVec.ofNat 8 code ∧ e.valid = true := by
  unfold raiseAt
  extract_lets detail s1 s2 s3 s4 s5
  have r3 : ∃ e : FlogEnt, s3.saf.reports = s.saf.reports ++ [e] ∧ e.code = BitVec.ofNat 8 code ∧ e.valid = true := by
    exact ⟨⟨true, BitVec.ofNat 8 code, ctxMask scope, detail, countNow s, sinceEdge s⟩, by unfold s3; split <;> rfl, rfl, rfl⟩
  have c3 : s3.ctxs = s.ctxs := by unfold s3; split <;> rfl
  have t3 : s3.tmp = s.tmp := by unfold s3; split <;> rfl
  have m3 := marked_of_ctxs c3
  obtain ⟨m4, w4⟩ := markAll (s := s3) scope (fun k hk => m3.used k (hs k hk)) counts (sk * 256 + si) code
  have sf4 : s4.saf = s3.saf := forAll_eq (fun t : State => t.saf) _ _ _ (fun _ _ => rfl)
  have h5 := trace_ctxs s4 2 (if sk = 0 then si else 0xFF) code detail
  have m5 : Marked s s5 := (m3.trans m4).trans (marked_of_ctxs h5.1)
  have w5 : ∀ k ∈ scope, ∀ n ∈ ctxCounts s k counts, ∃ m ∈ (ctxAt s5 k).marks, m.1 = n := fun k hk n hn => by
    obtain ⟨m, hm, e⟩ := w4 k hk n (by rw [ctxCounts_congr t3 (m3.ran k)]; exact hn)
    exact ⟨m, (marked_of_ctxs h5.1).more k m hm, e⟩
  have r5 : s5.saf.reports = s3.saf.reports := by rw [h5.2, sf4]
  split
  · rename_i hc
    have k6 := forAll_keeps (fun t => t.ctxs = s5.ctxs ∧ t.saf = s5.saf) scope s5
      (fun s k => match jobTag s k with | some tag => forAll (ctxCounts s k counts) s (fun s t => sendVerdict s tag t) | none => s) ⟨rfl, rfl⟩
      (fun u k _ hu => by
        split
        · refine forAll_keeps (fun t => t.ctxs = s5.ctxs ∧ t.saf = s5.saf) _ u _ hu (fun v n _ hv => ?_)
          unfold sendVerdict
          have := sendControlAll_ctxs (updFab v (fun f => { f with verdicts := (BitVec.ofNat 16 ‹Nat›, n) :: f.verdicts }))
            (hl3UpPorts (updFab v (fun f => { f with verdicts := (BitVec.ofNat 16 ‹Nat›, n) :: f.verdicts }))) 0xA
          exact ⟨(this _).1.trans hv.1, (this _).2.trans hv.2⟩
        · exact hu)
    refine ⟨m5.trans (marked_of_ctxs k6.1), fun k hk n hn => ?_, ?_⟩
    · obtain ⟨m, hm, e⟩ := w5 k hk n hn
      exact ⟨m, (marked_of_ctxs k6.1).more k m hm, e⟩
    · obtain ⟨e, h1, h2⟩ := r3
      exact ⟨e, (congrArg Saf.reports k6.2).trans (r5.trans h1), h2⟩
  · refine ⟨m5, w5, ?_⟩
    obtain ⟨e, h1, h2⟩ := r3
    exact ⟨e, r5.trans h1, h2⟩

/-! ### Entering tempo lost -/

theorem setTmpStatus_bit (s : State) (i j : Nat) (h : bit s.tmp.status j = true) : bit (setTmpStatus s i).tmp.status j = true := orBit_mono _ _ _ h

/-- Entering tempo lost with one cause: the tempo unit's part, and everything else spared. -/
theorem enterLost_spec (s : State) (cause : Nat) :
    Marked s (enterLost s [cause]) ∧ (enterLost s [cause]).saf = s.saf ∧ (enterLost s [cause]).fab = s.fab ∧
    Spared s (enterLost s [cause]) ∧ (enterLost s [cause]).now = s.now ∧ (enterLost s [cause]).pwr = s.pwr ∧
    (enterLost s [cause]).tmp = { s.tmp with status := orBit (orBit s.tmp.status 11) cause, lost := true, resumeAt := none } := by
  unfold enterLost
  extract_lets s1 s2 s3
  have h1 : s1 = setTmpStatus (setTmpStatus s 11) cause := rfl
  have keep2 : s2.tmp = s1.tmp ∧ Spared s1 s2 ∧ s2.saf = s1.saf ∧ s2.fab = s1.fab ∧ s2.now = s1.now ∧ s2.pwr = s1.pwr ∧ Marked s1 s2 := by
    unfold s2
    split
    · have hk := forAll_keeps (fun t : State => t.tmp = s1.tmp ∧ Spared s1 t ∧ t.saf = s1.saf ∧ t.fab = s1.fab ∧ t.now = s1.now ∧ t.pwr = s1.pwr)
        (moduleScope s1) s1 (fun s k => markCtx s k [s.tmp.t] 768 0) ⟨rfl, by constructor <;> rfl, rfl, rfl, rfl, rfl⟩ (fun u k _ h =>
          ⟨h.1, ⟨h.2.1.pending, h.2.1.card, h.2.1.lock, h.2.1.hubs, h.2.1.cores, h.2.1.tiers, h.2.1.routers, h.2.1.srv, h.2.1.cmds, h.2.1.bsc, h.2.1.svc,
            h.2.1.msgs⟩, h.2.2.1, h.2.2.2.1, h.2.2.2.2.1, h.2.2.2.2.2⟩)
      have hm : Marked s1 (forAll (moduleScope s1) s1 (fun s k => markCtx s k [s.tmp.t] 768 0)) := by
        refine forAll_keeps (fun t => Marked s1 t) _ _ _ (Marked.refl _) (fun u k hk h => h.trans ?_)
        exact markCtx_marked (h.used k (moduleScope_used hk)) _ _ _
      exact ⟨hk.1, hk.2.1, hk.2.2.1, hk.2.2.2.1, hk.2.2.2.2.1, hk.2.2.2.2.2, hm⟩
    · exact ⟨rfl, by constructor <;> rfl, rfl, rfl, rfl, rfl, Marked.refl _⟩
  obtain ⟨e1, e2, e3, e4, e5, e6, e7⟩ := keep2
  have t3 : s3.tmp = { s.tmp with status := orBit (orBit s.tmp.status 11) cause, lost := true, resumeAt := none } := by
    show ({ s2.tmp with lost := true, resumeAt := none } : Tmp) = _
    rw [e1]; rfl
  have sp3 : Spared s s3 := ⟨e2.pending, e2.card, e2.lock, e2.hubs, e2.cores, e2.tiers, e2.routers, e2.srv, e2.cmds, e2.bsc, e2.svc, e2.msgs⟩
  have m1 : Marked s s1 := marked_of_ctxs rfl
  have m3 : Marked s s3 := (m1.trans e7).trans (marked_of_ctxs rfl)
  split
  · exact ⟨m3, e3, e4, sp3, e5, e6, t3⟩
  · have hp := postSteward_calm s3 3 0 0 0 0
    have hc := postSteward_ctxs s3 3 0 0 0 0
    have hf : (postSteward s3 3 0 0 0 0).fab = s3.fab := by
      unfold postSteward; split
      · unfold postTo; simp only; split
        · unfold evtWrite setHostMem; simp only; split <;> rfl
        · split <;> rfl
      · rfl
    refine ⟨m3.trans (marked_of_ctxs hc.1), hc.2.trans e3, hf.trans e4, ?_, hp.now.trans e5, hp.pwr.trans e6, hp.tmp.trans t3⟩
    exact ⟨hp.pending.trans sp3.pending, hp.card.trans sp3.card, hp.lock.trans sp3.lock, hp.hubs.trans sp3.hubs, hp.cores.trans sp3.cores,
      hp.tiers.trans sp3.tiers, hp.routers.trans sp3.routers, hp.srv.trans sp3.srv, hp.cmds.trans sp3.cmds, hp.bsc.trans sp3.bsc,
      hp.svc.trans sp3.svc, hp.msgs.trans sp3.msgs⟩

theorem Calm.spared {s t : State} (h : Calm s t) : Spared s t :=
  ⟨h.pending, h.card, h.lock, h.hubs, h.cores, h.tiers, h.routers, h.srv, h.cmds, h.bsc, h.svc, h.msgs⟩
theorem Spared.trans {s t u : State} (h : Spared s t) (k : Spared t u) : Spared s u :=
  ⟨k.pending.trans h.pending, k.card.trans h.card, k.lock.trans h.lock, k.hubs.trans h.hubs, k.cores.trans h.cores, k.tiers.trans h.tiers,
    k.routers.trans h.routers, k.srv.trans h.srv, k.cmds.trans h.cmds, k.bsc.trans h.bsc, k.svc.trans h.svc, k.msgs.trans h.msgs⟩

/-- A fault of scope module that leads to tempo lost does what R45 and R367 state. -/
theorem lostFault_spec (s : State) (cause code sk si low : Nat) (hc : cause < 32) :
    TempoLost s (lostFault s cause code sk si low) cause code ∧
    (lostFault s cause code sk si low).tmp = { s.tmp with status := orBit (orBit s.tmp.status 11) cause, lost := true, resumeAt := none } ∧
    (lostFault s cause code sk si low).now = s.now ∧ (lostFault s cause code sk si low).pwr = s.pwr ∧
    (lostFault s cause code sk si low).fab.due = s.fab.due ∧ (lostFault s cause code sk si low).fab.ended = s.fab.ended ∧
    (lostFault s cause code sk si low).fab.epochDue = s.fab.epochDue ∧ (lostFault s cause code sk si low).fab.epochKept = s.fab.epochKept := by
  unfold lostFault
  have hr := raise_calm s code (moduleScope s) sk si 0 low
  obtain ⟨m, w, r⟩ := raiseAt_marks s code (moduleScope s) (fun k hk => moduleScope_used hk) (attributed s) sk si 0 low
  obtain ⟨m2, f2, fb2, sp2, n2, p2, t2⟩ := enterLost_spec (raise s code (moduleScope s) sk si 0 low) cause
  have ht : (enterLost (raise s code (moduleScope s) sk si 0 low) [cause]).tmp =
      { s.tmp with status := orBit (orBit s.tmp.status 11) cause, lost := true, resumeAt := none } := by rw [t2, hr.tmp]
  refine ⟨⟨?_, ?_, ?_, ?_, ?_⟩, ht, n2.trans hr.now, p2.trans hr.pwr, ?_, ?_, ?_, ?_⟩
  · rw [ht]; exact ⟨rfl, rfl⟩
  · rw [ht]; exact ⟨orBit_mono _ _ _ (orBit_same _ 11 (by decide)), orBit_same _ _ hc⟩
  · obtain ⟨e, h1, h2⟩ := r
    exact ⟨e, by rw [f2]; exact h1, h2⟩
  · intro k hk n hn
    obtain ⟨q, hq, e⟩ := w k hk n hn
    exact ⟨q, m2.more k q hq, e⟩
  · exact hr.spared.trans sp2
  · rw [fb2]; exact hr.due
  · rw [fb2]; exact hr.ended
  · rw [fb2]; exact hr.epochDue
  · rw [fb2]; exact hr.epochKept

/-! ### Choice records, and states that differ in little -/

theorem setHostMem_ctxs (u : State) (f : Nat) (m : Mem) : (setHostMem u f m).ctxs = u.ctxs ∧ (setHostMem u f m).saf = u.saf := by
  unfold setHostMem; split <;> exact ⟨rfl, rfl⟩

/-- A choice record: the choice is counted, and nothing else of the machine moves but the ring in host memory. -/
theorem choice_spec (s : State) (a b c d : Nat) (e : W64) :
    Calm s (choice s a b c d e) ∧ (choice s a b c d e).ctxs = s.ctxs ∧ (choice s a b c d e).saf.choiceTotal = s.saf.choiceTotal + 1 := by
  suffices h : ∀ v, v = choice s a b c d e → Calm s v ∧ v.ctxs = s.ctxs ∧ v.saf.choiceTotal = s.saf.choiceTotal + 1 from h _ rfl
  intro v hv
  unfold choice at hv
  extract_lets u at hv
  have hu : Calm s u ∧ u.ctxs = s.ctxs ∧ u.saf.choiceTotal = s.saf.choiceTotal + 1 := ⟨updSaf_calm s _, rfl, rfl⟩
  split at hv
  · rename_i f _ _
    extract_lets u2 u3 at hv
    have h2 : u2.ctxs = u.ctxs ∧ u2.saf = u.saf := setHostMem_ctxs _ _ _
    have h3 : Calm s u3 ∧ u3.ctxs = s.ctxs ∧ u3.saf.choiceTotal = s.saf.choiceTotal + 1 :=
      ⟨(hu.1.trans (setHostMem_calm _ _ _)).trans (updSaf_calm _ _), h2.1.trans hu.2.1, (congrArg Saf.choiceTotal h2.2).trans hu.2.2⟩
    split at hv
    · rw [hv]; exact ⟨h3.1.trans (setSafStatus_calm _ _), h3.2⟩
    · rw [hv]; exact h3
  · rw [hv]; exact hu

theorem Quiet.of_eq {s t : State} (q : Quiet s) (h1 : t.fab.due = s.fab.due) (h2 : t.fab.ended = s.fab.ended) (h3 : t.fab.msgs = s.fab.msgs) :
    Quiet t := by unfold Quiet; rw [h1, h2, h3]; exact q

theorem Spared.answer {s t : State} (p : Spared s t) : Spared s (answer s t) :=
  ⟨rfl, p.2, p.3, p.4, p.5, p.6, p.7, p.8, p.9, p.10, p.11, p.12⟩

theorem TempoLost.answer {s t : State} {c code : Nat} (h : TempoLost s t c code) : TempoLost s (answer s t) c code :=
  ⟨h.1, h.2, h.3, h.4, h.5.answer⟩

/-- What follows a fault and leaves its marks, report and causes as they are. -/
theorem TempoLost.then_ {s t u : State} {c code : Nat} (h : TempoLost s t c code) (hu : Spared t u)
    (h1 : u.tmp.lost = t.tmp.lost ∧ u.tmp.resumeAt = t.tmp.resumeAt ∧ u.tmp.status = t.tmp.status) (h2 : u.saf = t.saf) (h3 : u.ctxs = t.ctxs) :
    TempoLost s u c code := by
  refine ⟨by rw [h1.1, h1.2.1]; exact h.1, by rw [h1.2.2]; exact h.2, by rw [h2]; exact h.3, fun k hk n hn => ?_, h.5.trans hu⟩
  have e : ctxAt u k = ctxAt t k := by unfold ctxAt; rw [h3]
  rw [e]; exact h.4 k hk n hn

/-- What a fault reads of the machine to find the worked tempos it withholds. -/
theorem TempoLost.after {s u t : State} {c code : Nat} (h : TempoLost u t c code) (hs : Spared s u) (h2 : u.saf.reports = s.saf.reports)
    (h3 : u.ctxs = s.ctxs) (h4 : u.tmp.commitDue = s.tmp.commitDue ∧ u.tmp.lastT = s.tmp.lastT ∧ u.tmp.working = s.tmp.working ∧ u.tmp.t = s.tmp.t) :
    TempoLost s t c code := by
  have e : ∀ k, ctxAt u k = ctxAt s k := fun k => by unfold ctxAt; rw [h3]
  obtain ⟨h4, h5, h6, h7⟩ := h4
  refine ⟨h.1, h.2, by rw [← h2]; exact h.3, fun k hk n hn => h.4 k ?_ n ?_, hs.trans h.5⟩
  · unfold moduleScope; simp only [e, h4]; exact hk
  · unfold ctxCounts attributed; simp only [e, h4, h5, h6, h7]; exact hn

theorem ctxOfCore_used {s : State} {c k : Nat} (h : ctxOfCore s c = some k) : Used s k := by
  unfold ctxOfCore at h
  have := List.find?_some h
  intro e
  rw [e] at this
  simp at this

/-- A fault of a core: its report, and the marks of its context. -/
theorem raiseCore_marks (s : State) (c code low : Nat) :
    Marked s (raiseCore s c code low) ∧
    (∀ k, ctxOfCore s c = some k → ∀ n ∈ ctxCounts s k (attributed s), ∃ m ∈ (ctxAt (raiseCore s c code low) k).marks, m.1 = n) ∧
    ∃ e : FlogEnt, (raiseCore s c code low).saf.reports = s.saf.reports ++ [e] ∧ e.code = BitVec.ofNat 8 code ∧ e.valid = true := by
  have h := raiseAt_marks s code (ctxOfCore s c).toList (fun k hk => ctxOfCore_used (by simpa using hk)) (attributed s) 0 (logicalOf s c)
    ((ctxOfCore s c).getD 0) low
  exact ⟨h.1, fun k hk => h.2.1 k (by simp [hk]), h.2.2⟩

/-- The report of a fault, whatever its scope. -/
theorem raiseAt_report (s : State) (code : Nat) (scope : List Nat) (counts : List W64) (sk si cx low : Nat) :
    ∃ e : FlogEnt, (raiseAt s code scope counts sk si cx low).saf.reports = s.saf.reports ++ [e] ∧ e.code = BitVec.ofNat 8 code ∧ e.valid = true := by
  suffices h : ∀ v, v = raiseAt s code scope counts sk si cx low → ∃ e : FlogEnt, v.saf.reports = s.saf.reports ++ [e] ∧
      e.code = BitVec.ofNat 8 code ∧ e.valid = true from h _ rfl
  intro v hv
  unfold raiseAt at hv
  extract_lets detail s1 s2 s3 s4 s5 at hv
  have r3 : s3.saf.reports = s.saf.reports ++ [⟨true, BitVec.ofNat 8 code, ctxMask scope, detail, countNow s, sinceEdge s⟩] := by
    unfold s3; split <;> rfl
  have sf4 : s4.saf = s3.saf := forAll_eq (fun t : State => t.saf) _ _ _ (fun _ _ => rfl)
  have sf5 : s5.saf = s3.saf := (trace_ctxs s4 2 (if sk = 0 then si else 0xFF) code detail).2.trans sf4
  refine ⟨⟨true, BitVec.ofNat 8 code, ctxMask scope, detail, countNow s, sinceEdge s⟩, ?_, rfl, rfl⟩
  split at hv
  · have k6 := forAll_keeps (fun t => t.saf = s5.saf) scope s5
      (fun s k => match jobTag s k with | some tag => forAll (ctxCounts s k counts) s (fun s t => sendVerdict s tag t) | none => s) rfl
      (fun u k _ hu => by
        split
        · refine forAll_keeps (fun t => t.saf = s5.saf) _ u _ hu (fun v n _ hv => ?_)
          unfold sendVerdict
          exact (sendControlAll_ctxs _ _ _ _).2.trans hv
        · exact hu)
    rw [hv]
    exact (congrArg Saf.reports k6).trans ((congrArg Saf.reports sf5).trans r3)
  · rw [hv, sf5]; exact r3

/-- A fault touches nothing of the SAF block but its log, its counter of faults, its status and the reports. -/
theorem raiseAt_saf (s : State) (code : Nat) (scope : List Nat) (counts : List W64) (sk si cx low : Nat) :
    ∃ w l n b c r, (raiseAt s code scope counts sk si cx low).saf =
      { s.saf with status := w, flog := l, flogNext := n, flogWrapped := b, faults := c, reports := r } := by
  suffices h : ∀ v, v = raiseAt s code scope counts sk si cx low → ∃ w l n b c r, v.saf =
      { s.saf with status := w, flog := l, flogNext := n, flogWrapped := b, faults := c, reports := r } from h _ rfl
  intro v hv
  unfold raiseAt at hv
  extract_lets detail s1 s2 s3 s4 s5 at hv
  have r3 : ∃ w l n b c r, s3.saf = { s.saf with status := w, flog := l, flogNext := n, flogWrapped := b, faults := c, reports := r } := by
    unfold s3; split
    · exact ⟨_, _, _, _, _, _, rfl⟩
    · exact ⟨_, _, _, _, _, _, rfl⟩
  have sf4 : s4.saf = s3.saf := forAll_eq (fun t : State => t.saf) _ _ _ (fun _ _ => rfl)
  have sf5 : s5.saf = s3.saf := (trace_ctxs s4 2 (if sk = 0 then si else 0xFF) code detail).2.trans sf4
  split at hv
  · have k6 := forAll_keeps (fun t => t.saf = s5.saf) scope s5
      (fun s k => match jobTag s k with | some tag => forAll (ctxCounts s k counts) s (fun s t => sendVerdict s tag t) | none => s) rfl
      (fun u k _ hu => by
        split
        · refine forAll_keeps (fun t => t.saf = s5.saf) _ u _ hu (fun v n _ hv => ?_)
          unfold sendVerdict
          exact (sendControlAll_ctxs _ _ _ _).2.trans hv
        · exact hu)
    obtain ⟨w, l, n, b, c, r, e⟩ := r3
    exact ⟨w, l, n, b, c, r, (congrArg State.saf hv).trans (k6.trans (sf5.trans e))⟩
  · obtain ⟨w, l, n, b, c, r, e⟩ := r3
    exact ⟨w, l, n, b, c, r, (congrArg State.saf hv).trans (sf5.trans e)⟩

end Sys2Proof.Machine
end

