-- ==== Sys2Proof/Laws/Shape.lean ====
section
/-! SUPPORT. The two shapes of a command's answer: what it does while the module works, and nothing otherwise; or, for the pins, an answer in
every phase. -/

namespace Sys2Proof.Machine

/-- The command acts while the module works and does nothing otherwise. -/
def Works (c : Instr) : Prop := ∀ s, ∃ f, exec c s = .next (whenLive s f)

theorem works_tempoPulse (rclk : Nat) : Works (.tempoPulse rclk) := fun _ => ⟨_, rfl⟩
theorem works_tempoPulseMissing : Works (.tempoPulseMissing) := fun _ => ⟨_, rfl⟩
theorem works_tempoHighTooLong : Works (.tempoHighTooLong) := fun _ => ⟨_, rfl⟩
theorem works_tempoEdge : Works (.tempoEdge) := fun _ => ⟨_, rfl⟩
theorem works_commitPoint : Works (.commitPoint) := fun _ => ⟨_, rfl⟩
theorem works_periodicMarkerSend : Works (.periodicMarkerSend) := fun _ => ⟨_, rfl⟩
theorem works_overrun : Works (.overrun) := fun _ => ⟨_, rfl⟩
theorem works_markerReceive (p : PortId) (copy : Fin 3) (crcOk : Bool) (payload : BitVec 256) : Works (.markerReceive p copy crcOk payload) := fun _ => ⟨_, rfl⟩
theorem works_stalemateTimeout (c : CoreId) : Works (.stalemateTimeout c) := fun _ => ⟨_, rfl⟩
theorem works_stretchSpacingExpiry : Works (.stretchSpacingExpiry) := fun _ => ⟨_, rfl⟩
theorem works_tempoResume (fn : FnId) (val : W32) : Works (.tempoResume fn val) := fun _ => ⟨_, rfl⟩
theorem works_tempoEnable (fn : FnId) (val : W32) : Works (.tempoEnable fn val) := fun _ => ⟨_, rfl⟩
theorem works_variantAnnounce (fn : FnId) (val : W32) : Works (.variantAnnounce fn val) := fun _ => ⟨_, rfl⟩
theorem works_tmpCountLoRead (fn : FnId) : Works (.tmpCountLoRead fn) := fun _ => ⟨_, rfl⟩
theorem works_tmpSwitchCountLoRead (fn : FnId) : Works (.tmpSwitchCountLoRead fn) := fun _ => ⟨_, rfl⟩
theorem works_tmpClear (fn : FnId) (val : W32) : Works (.tmpClear fn val) := fun _ => ⟨_, rfl⟩
theorem works_nop (c : CoreId) (st : Stream) (w : W128) : Works (.nop c st w) := fun _ => ⟨_, rfl⟩
theorem works_time (c : CoreId) (st : Stream) (w : W128) : Works (.time c st w) := fun _ => ⟨_, rfl⟩
theorem works_boundary (c : CoreId) (st : Stream) (w : W128) (silent : Option (Fin 7 × Byte)) : Works (.boundary c st w silent) := fun _ => ⟨_, rfl⟩
theorem works_firstTempoPrefetch (c : CoreId) : Works (.firstTempoPrefetch c) := fun _ => ⟨_, rfl⟩
theorem works_sync (c : CoreId) (st : Stream) (w : W128) : Works (.sync c st w) := fun _ => ⟨_, rfl⟩
theorem works_refill (c : CoreId) (st : Stream) (w : W128) : Works (.refill c st w) := fun _ => ⟨_, rfl⟩
theorem works_trd (c : CoreId) (st : Stream) (w : W128) : Works (.trd c st w) := fun _ => ⟨_, rfl⟩
theorem works_twr (c : CoreId) (st : Stream) (w : W128) : Works (.twr c st w) := fun _ => ⟨_, rfl⟩
theorem works_ldq (c : CoreId) (st : Stream) (w : W128) : Works (.ldq c st w) := fun _ => ⟨_, rfl⟩
theorem works_stq (c : CoreId) (st : Stream) (w : W128) : Works (.stq c st w) := fun _ => ⟨_, rfl⟩
theorem works_copy (c : CoreId) (st : Stream) (w : W128) : Works (.copy c st w) := fun _ => ⟨_, rfl⟩
theorem works_put (c : CoreId) (st : Stream) (w : W128) : Works (.put c st w) := fun _ => ⟨_, rfl⟩
theorem works_get (c : CoreId) (st : Stream) (w : W128) : Works (.get c st w) := fun _ => ⟨_, rfl⟩
theorem works_ladd (c : CoreId) (st : Stream) (w : W128) : Works (.ladd c st w) := fun _ => ⟨_, rfl⟩
theorem works_sput (c : CoreId) (st : Stream) (w : W128) : Works (.sput c st w) := fun _ => ⟨_, rfl⟩
theorem works_bar (c : CoreId) (st : Stream) (w : W128) : Works (.bar c st w) := fun _ => ⟨_, rfl⟩
theorem works_win (c : CoreId) (st : Stream) (w : W128) : Works (.win c st w) := fun _ => ⟨_, rfl⟩
theorem works_pass (c : CoreId) (st : Stream) (w : W128) : Works (.pass c st w) := fun _ => ⟨_, rfl⟩
theorem works_passRowResult (c : CoreId) (e : EngineId) (checkDelta : Int) : Works (.passRowResult c e checkDelta) := fun _ => ⟨_, rfl⟩
theorem works_rampOutStep (c : CoreId) (e : EngineId) : Works (.rampOutStep c e) := fun _ => ⟨_, rfl⟩
theorem works_drain (c : CoreId) (st : Stream) (w : W128) : Works (.drain c st w) := fun _ => ⟨_, rfl⟩
theorem works_tcfg (c : CoreId) (st : Stream) (w : W128) : Works (.tcfg c st w) := fun _ => ⟨_, rfl⟩
theorem works_tile (c : CoreId) (st : Stream) (w : W128) : Works (.tile c st w) := fun _ => ⟨_, rfl⟩
theorem works_ew (c : CoreId) (st : Stream) (w : W128) : Works (.ew c st w) := fun _ => ⟨_, rfl⟩
theorem works_unitSignal (c : CoreId) (u : UnitId) : Works (.unitSignal c u) := fun _ => ⟨_, rfl⟩
theorem works_mrdl (c : CoreId) (w : W128) : Works (.mrdl c w) := fun _ => ⟨_, rfl⟩
theorem works_mwrl (c : CoreId) (w : W128) : Works (.mwrl c w) := fun _ => ⟨_, rfl⟩
theorem works_mclr (c : CoreId) (w : W128) : Works (.mclr c w) := fun _ => ⟨_, rfl⟩
theorem works_mcrc (c : CoreId) (w : W128) : Works (.mcrc c w) := fun _ => ⟨_, rfl⟩
theorem works_mtrb (c : CoreId) (w : W128) : Works (.mtrb c w) := fun _ => ⟨_, rfl⟩
theorem works_mtwb (c : CoreId) (w : W128) : Works (.mtwb c w) := fun _ => ⟨_, rfl⟩
theorem works_mmap (c : CoreId) (w : W128) : Works (.mmap c w) := fun _ => ⟨_, rfl⟩
theorem works_msig (c : CoreId) (w : W128) : Works (.msig c w) := fun _ => ⟨_, rfl⟩
theorem works_msyn (c : CoreId) (w : W128) : Works (.msyn c w) := fun _ => ⟨_, rfl⟩
theorem works_maintInsnComplete (c : CoreId) : Works (.maintInsnComplete c) := fun _ => ⟨_, rfl⟩
theorem works_storeReread (c : CoreId) (line : Nat) (secondMatches scheduled : Bool) : Works (.storeReread c line secondMatches scheduled) := fun _ => ⟨_, rfl⟩
theorem works_tierReread (c : CoreId) (blk : Nat) (secondMatches scheduled : Bool) : Works (.tierReread c blk secondMatches scheduled) := fun _ => ⟨_, rfl⟩
theorem works_arrival (c : CoreId) : Works (.arrival c) := fun _ => ⟨_, rfl⟩
theorem works_syncObjectWrite (rq : Requester) (c : CoreId) (off : Nat) (val : W32) : Works (.syncObjectWrite rq c off val) := fun _ => ⟨_, rfl⟩
theorem works_coreCntClear (rq : Requester) (c : CoreId) (val : W32) : Works (.coreCntClear rq c val) := fun _ => ⟨_, rfl⟩
theorem works_gatherFlush (c : CoreId) (e : Fin 16) : Works (.gatherFlush c e) := fun _ => ⟨_, rfl⟩
theorem works_gatherIdleTimeout (c : CoreId) (e : Fin 16) : Works (.gatherIdleTimeout c e) := fun _ => ⟨_, rfl⟩
theorem works_gatherFenceRequest (c : CoreId) : Works (.gatherFenceRequest c) := fun _ => ⟨_, rfl⟩
theorem works_ringWriteResume (c : CoreId) (r : Fin 16) : Works (.ringWriteResume c r) := fun _ => ⟨_, rfl⟩
theorem works_storeClearDone (c : CoreId) : Works (.storeClearDone c) := fun _ => ⟨_, rfl⟩
theorem works_boundaryQueueOp (c : CoreId) : Works (.boundaryQueueOp c) := fun _ => ⟨_, rfl⟩
theorem works_weakEntryExpiry (loc : BlockLoc) : Works (.weakEntryExpiry loc) := fun _ => ⟨_, rfl⟩
theorem works_scrubRead (loc : BlockLoc) (res : ReadResult) : Works (.scrubRead loc res) := fun _ => ⟨_, rfl⟩
theorem works_sliceSubstitutionAdd (native : CoreId) (nativeTier : TierId) (sub : CoreId) (subTier : TierId) : Works (.sliceSubstitutionAdd native nativeTier sub subTier) := fun _ => ⟨_, rfl⟩
theorem works_tirClear (fn : FnId) (val : W32) : Works (.tirClear fn val) := fun _ => ⟨_, rfl⟩
theorem works_flitReceive (r : RouterId) (inp : RPort) (f : MeshFlit) : Works (.flitReceive r inp f) := fun _ => ⟨_, rfl⟩
theorem works_seamResult (r : RouterId) (seam : Fin 64) : Works (.seamResult r seam) := fun _ => ⟨_, rfl⟩
theorem works_routerOutputSend (r : RouterId) (out : RPort) : Works (.routerOutputSend r out) := fun _ => ⟨_, rfl⟩
theorem works_rtrCommit (r : RouterId) (val : W32) : Works (.rtrCommit r val) := fun _ => ⟨_, rfl⟩
theorem works_rtrClear (r : RouterId) (val : W32) : Works (.rtrClear r val) := fun _ => ⟨_, rfl⟩
theorem works_paritySweep (hits : List ParityHit) : Works (.paritySweep hits) := fun _ => ⟨_, rfl⟩
theorem works_portTrainingDone (p : PortId) (farGen laneGen : BitVec 2) : Works (.portTrainingDone p farGen laneGen) := fun _ => ⟨_, rfl⟩
theorem works_portGenMaxSet (fn : FnId) (val : W32) : Works (.portGenMaxSet fn val) := fun _ => ⟨_, rfl⟩
theorem works_portEnableSet (fn : FnId) (val : W32) : Works (.portEnableSet fn val) := fun _ => ⟨_, rfl⟩
theorem works_portOppositionSet (fn : FnId) (val : W32) : Works (.portOppositionSet fn val) := fun _ => ⟨_, rfl⟩
theorem works_messageReceive (p : PortId) (flits : List FabFlit) : Works (.messageReceive p flits) := fun _ => ⟨_, rfl⟩
theorem works_ackReceive (p : PortId) (upTo : BitVec 12) (naks : List (BitVec 12)) (credits : Nat) : Works (.ackReceive p upTo naks credits) := fun _ => ⟨_, rfl⟩
theorem works_ackSendTimer (p : PortId) : Works (.ackSendTimer p) := fun _ => ⟨_, rfl⟩
theorem works_idleSendTimer (p : PortId) : Works (.idleSendTimer p) := fun _ => ⟨_, rfl⟩
theorem works_idleFlitReceive (p : PortId) : Works (.idleFlitReceive p) := fun _ => ⟨_, rfl⟩
theorem works_portSilenceTimeout (p : PortId) : Works (.portSilenceTimeout p) := fun _ => ⟨_, rfl⟩
theorem works_laneLockLoss (p : PortId) : Works (.laneLockLoss p) := fun _ => ⟨_, rfl⟩
theorem works_openingStart (fn : FnId) (val : W32) : Works (.openingStart fn val) := fun _ => ⟨_, rfl⟩
theorem works_identResendTimer (p : PortId) : Works (.identResendTimer p) := fun _ => ⟨_, rfl⟩
theorem works_identReceive (p : PortId) (f : Ident) : Works (.identReceive p f) := fun _ => ⟨_, rfl⟩
theorem works_epochCommand (fn : FnId) (val : W32) : Works (.epochCommand fn val) := fun _ => ⟨_, rfl⟩
theorem works_epochReceive (p : PortId) (rx : LinkRx) (count : W64) (phaseSc : W32) : Works (.epochReceive p rx count phaseSc) := fun _ => ⟨_, rfl⟩
theorem works_snapshotArm (fn : FnId) (val : W32) : Works (.snapshotArm fn val) := fun _ => ⟨_, rfl⟩
theorem works_snapReceive (p : PortId) (rx : LinkRx) (count : W64) : Works (.snapReceive p rx count) := fun _ => ⟨_, rfl⟩
theorem works_barrierReceive (p : PortId) (rx : LinkRx) (ctx : CtxId) (release : Bool) : Works (.barrierReceive p rx ctx release) := fun _ => ⟨_, rfl⟩
theorem works_domainResetFlood (fn : FnId) (val : W32) : Works (.domainResetFlood fn val) := fun _ => ⟨_, rfl⟩
theorem works_dresetReceive (p : PortId) (rx : LinkRx) : Works (.dresetReceive p rx) := fun _ => ⟨_, rfl⟩
theorem works_domainResetEntry : Works (.domainResetEntry) := fun _ => ⟨_, rfl⟩
theorem works_replyReceive (p : PortId) (rx : LinkRx) (reply : ReplyRx) (data : List Byte) : Works (.replyReceive p rx reply data) := fun _ => ⟨_, rfl⟩
theorem works_messageTimeout (src : Nat) (msgid : W32) : Works (.messageTimeout src msgid) := fun _ => ⟨_, rfl⟩
theorem works_portEgressSend (p : PortId) : Works (.portEgressSend p) := fun _ => ⟨_, rfl⟩
theorem works_legacyRequestReceive (p : PortId) (op : Fin 3) (addr : Nat) (len : Nat) (data : List Byte) : Works (.legacyRequestReceive p op addr len data) := fun _ => ⟨_, rfl⟩
theorem works_fabRouteCommit (fn : FnId) (val : W32) : Works (.fabRouteCommit fn val) := fun _ => ⟨_, rfl⟩
theorem works_fabClear (fn : FnId) (val : W32) : Works (.fabClear fn val) := fun _ => ⟨_, rfl⟩
theorem works_opposeSigReceive (p : PortId) (flit : OpposeRx) : Works (.opposeSigReceive p flit) := fun _ => ⟨_, rfl⟩
theorem works_opposeLogReceive (p : PortId) (flit : OpposeRx) : Works (.opposeLogReceive p flit) := fun _ => ⟨_, rfl⟩
theorem works_mirrorReceive (p : PortId) (flit : OpposeRx) : Works (.mirrorReceive p flit) := fun _ => ⟨_, rfl⟩
theorem works_verdictReceive (p : PortId) (flit : OpposeRx) : Works (.verdictReceive p flit) := fun _ => ⟨_, rfl⟩
theorem works_admission (fn : FnId) (q : Fin 4) (hdr : BitVec 512) (body : BitVec 1536) : Works (.admission fn q hdr body) := fun _ => ⟨_, rfl⟩
theorem works_cancel (fn : FnId) (q : Fin 4) (hdr : BitVec 512) (body : BitVec 1536) : Works (.cancel fn q hdr body) := fun _ => ⟨_, rfl⟩
theorem works_patchLoad (fn : FnId) (q : Fin 4) (hdr : BitVec 512) (body : BitVec 1536) : Works (.patchLoad fn q hdr body) := fun _ => ⟨_, rfl⟩
theorem works_patchDrop (fn : FnId) (q : Fin 4) (hdr : BitVec 512) (body : BitVec 1536) : Works (.patchDrop fn q hdr body) := fun _ => ⟨_, rfl⟩
theorem works_patchImageVerified (slot : Fin 64) (dmaOk : Bool) : Works (.patchImageVerified slot dmaOk) := fun _ => ⟨_, rfl⟩
theorem works_promptReadComplete (l : LaneId) (dmaOk : Bool) : Works (.promptReadComplete l dmaOk) := fun _ => ⟨_, rfl⟩
theorem works_selectionLaneStart (ctx : CtxId) (entry : Nat) : Works (.selectionLaneStart ctx entry) := fun _ => ⟨_, rfl⟩
theorem works_selectionLaneDone (ctx : CtxId) (entry : Nat) : Works (.selectionLaneDone ctx entry) := fun _ => ⟨_, rfl⟩
theorem works_groupDecision (g : GroupId) (twinDiffers : Option (Fin 4)) : Works (.groupDecision g twinDiffers) := fun _ => ⟨_, rfl⟩
theorem works_tokenDoorbell (fn : FnId) (off size : Nat) (val : W64) : Works (.tokenDoorbell fn off size val) := fun _ => ⟨_, rfl⟩
theorem works_shuttleOfferReceive (chip : BitVec 12) (job : W16) (ident : W64) (kvfmt : W64) (kvlen : BitVec 24) : Works (.shuttleOfferReceive chip job ident kvfmt kvlen) := fun _ => ⟨_, rfl⟩
theorem works_shuttleGrantReceive (chip : BitVec 12) (job : W16) (ident : W64) (addrs : List W64) : Works (.shuttleGrantReceive chip job ident addrs) := fun _ => ⟨_, rfl⟩
theorem works_shuttleStateRecordReceive (chip : BitVec 12) (job : W16) (ident : W64) (record : BitVec 1024) (puts : Nat) : Works (.shuttleStateRecordReceive chip job ident record puts) := fun _ => ⟨_, rfl⟩
theorem works_shuttleAckReceive (chip : BitVec 12) (job : W16) (ident : W64) (status : Byte) : Works (.shuttleAckReceive chip job ident status) := fun _ => ⟨_, rfl⟩
theorem works_shuttleTimeout (l : LaneId) : Works (.shuttleTimeout l) := fun _ => ⟨_, rfl⟩
theorem works_srvGroupsWrite (fn : FnId) (val : W32) : Works (.srvGroupsWrite fn val) := fun _ => ⟨_, rfl⟩
theorem works_srvClear (fn : FnId) (val : W32) : Works (.srvClear fn val) := fun _ => ⟨_, rfl⟩
theorem works_hostNop (fn : FnId) (q : Fin 4) (hdr : BitVec 512) (body : BitVec 1536) : Works (.hostNop fn q hdr body) := fun _ => ⟨_, rfl⟩
theorem works_wload (fn : FnId) (q : Fin 4) (hdr : BitVec 512) (body : BitVec 1536) : Works (.wload fn q hdr body) := fun _ => ⟨_, rfl⟩
theorem works_wloadStart (id : Nat) : Works (.wloadStart id) := fun _ => ⟨_, rfl⟩
theorem works_loadVerifyComplete (id : Nat) (dmaOk : Bool) : Works (.loadVerifyComplete id dmaOk) := fun _ => ⟨_, rfl⟩
theorem works_rdout (fn : FnId) (q : Fin 4) (hdr : BitVec 512) (body : BitVec 1536) : Works (.rdout fn q hdr body) := fun _ => ⟨_, rfl⟩
theorem works_hostcopy (fn : FnId) (q : Fin 4) (hdr : BitVec 512) (body : BitVec 1536) : Works (.hostcopy fn q hdr body) := fun _ => ⟨_, rfl⟩
theorem works_hostCopyExpiry (tag : W16) : Works (.hostCopyExpiry tag) := fun _ => ⟨_, rfl⟩
theorem works_boltLoad (fn : FnId) (q : Fin 4) (hdr : BitVec 512) (body : BitVec 1536) : Works (.boltLoad fn q hdr body) := fun _ => ⟨_, rfl⟩
theorem works_run (fn : FnId) (q : Fin 4) (hdr : BitVec 512) (body : BitVec 1536) : Works (.run fn q hdr body) := fun _ => ⟨_, rfl⟩
theorem works_stop (fn : FnId) (q : Fin 4) (hdr : BitVec 512) (body : BitVec 1536) : Works (.stop fn q hdr body) := fun _ => ⟨_, rfl⟩
theorem works_sqTailDoorbell (fn : FnId) (q : Fin 4) (off size : Nat) (val : W64) : Works (.sqTailDoorbell fn q off size val) := fun _ => ⟨_, rfl⟩
theorem works_cqHeadDoorbell (fn : FnId) (q : Fin 4) (off size : Nat) (val : W64) : Works (.cqHeadDoorbell fn q off size val) := fun _ => ⟨_, rfl⟩
theorem works_eventHeadDoorbell (fn : FnId) (off size : Nat) (val : W64) : Works (.eventHeadDoorbell fn off size val) := fun _ => ⟨_, rfl⟩
theorem works_msixSend (fn : FnId) (vec : Fin 64) : Works (.msixSend fn vec) := fun _ => ⟨_, rfl⟩
theorem works_contextBind (fn : FnId) (val : W32) : Works (.contextBind fn val) := fun _ => ⟨_, rfl⟩
theorem works_partitionWrite (fn : FnId) (val : W32) : Works (.partitionWrite fn val) := fun _ => ⟨_, rfl⟩
theorem works_forceStop (fn : FnId) (val : W32) : Works (.forceStop fn val) := fun _ => ⟨_, rfl⟩
theorem works_queueEnable (fn : FnId) (q : Fin 4) (val : W32) : Works (.queueEnable fn q val) := fun _ => ⟨_, rfl⟩
theorem works_hqClear (fn : FnId) (val : W32) : Works (.hqClear fn val) := fun _ => ⟨_, rfl⟩
theorem works_traceModeRequest (fn : FnId) (val : W32) : Works (.traceModeRequest fn val) := fun _ => ⟨_, rfl⟩
theorem works_functionLevelReset (fn : FnId) : Works (.functionLevelReset fn) := fun _ => ⟨_, rfl⟩
theorem works_pcieLinkDown (p : PciePort) : Works (.pcieLinkDown p) := fun _ => ⟨_, rfl⟩
theorem works_pcieHotReset (p : PciePort) : Works (.pcieHotReset p) := fun _ => ⟨_, rfl⟩
theorem works_serviceLoad (k : SvcId) (addr size : Nat) (ecc : Ecc) : Works (.serviceLoad k addr size ecc) := fun _ => ⟨_, rfl⟩
theorem works_serviceStore (k : SvcId) (addr size : Nat) (data : BitVec 512) (ecc : Ecc) : Works (.serviceStore k addr size data ecc) := fun _ => ⟨_, rfl⟩
theorem works_serviceMessageSubmit (slot : Fin 64) : Works (.serviceMessageSubmit slot) := fun _ => ⟨_, rfl⟩
theorem works_faultReportHandling : Works (.faultReportHandling) := fun _ => ⟨_, rfl⟩
theorem works_selfTestVisit (c : CoreId) (latentFault : Bool) : Works (.selfTestVisit c latentFault) := fun _ => ⟨_, rfl⟩
theorem works_oppositionEnable (fn : FnId) (val : W32) (peer : OppPeer) : Works (.oppositionEnable fn val peer) := fun _ => ⟨_, rfl⟩
theorem works_safOppFirstRead (fn : FnId) : Works (.safOppFirstRead fn) := fun _ => ⟨_, rfl⟩
theorem works_choiceRingEnable (fn : FnId) (val : W32) : Works (.choiceRingEnable fn val) := fun _ => ⟨_, rfl⟩
theorem works_safClear (fn : FnId) (val : W32) : Works (.safClear fn val) := fun _ => ⟨_, rfl⟩
theorem works_fwDeliver (fn : FnId) (cmd : W32) : Works (.fwDeliver fn cmd) := fun _ => ⟨_, rfl⟩
theorem works_fwVerifyComplete (dmaOk : Bool) : Works (.fwVerifyComplete dmaOk) := fun _ => ⟨_, rfl⟩
theorem works_keySet (fn : FnId) (cmd : W32) (dmaOk : Bool) : Works (.keySet fn cmd dmaOk) := fun _ => ⟨_, rfl⟩
theorem works_keyClear (fn : FnId) (cmd : W32) : Works (.keyClear fn cmd) := fun _ => ⟨_, rfl⟩
theorem works_keyLock (fn : FnId) (cmd : W32) : Works (.keyLock fn cmd) := fun _ => ⟨_, rfl⟩
theorem works_cardRead (fn : FnId) (cmd : W32) (dmaOk : Bool) : Works (.cardRead fn cmd dmaOk) := fun _ => ⟨_, rfl⟩
theorem works_fwFloorWrite (fn : FnId) (val : W32) : Works (.fwFloorWrite fn val) := fun _ => ⟨_, rfl⟩
theorem works_getVersion (p : PciePort) (req : List Byte) : Works (.getVersion p req) := fun _ => ⟨_, rfl⟩
theorem works_getCapabilities (p : PciePort) (req : List Byte) : Works (.getCapabilities p req) := fun _ => ⟨_, rfl⟩
theorem works_negotiateAlgorithms (p : PciePort) (req : List Byte) : Works (.negotiateAlgorithms p req) := fun _ => ⟨_, rfl⟩
theorem works_getDigests (p : PciePort) (req : List Byte) : Works (.getDigests p req) := fun _ => ⟨_, rfl⟩
theorem works_getCertificate (p : PciePort) (req : List Byte) : Works (.getCertificate p req) := fun _ => ⟨_, rfl⟩
theorem works_challenge (p : PciePort) (req : List Byte) : Works (.challenge p req) := fun _ => ⟨_, rfl⟩
theorem works_getMeasurements (p : PciePort) (req : List Byte) : Works (.getMeasurements p req) := fun _ => ⟨_, rfl⟩
theorem works_clusterClearStart (k : ClusterId) : Works (.clusterClearStart k) := fun _ => ⟨_, rfl⟩
theorem works_clusterClearDone (k : ClusterId) : Works (.clusterClearDone k) := fun _ => ⟨_, rfl⟩
theorem works_clearWriteTimeout (k : ClusterId) : Works (.clearWriteTimeout k) := fun _ => ⟨_, rfl⟩
theorem works_stewardReset (fn : FnId) (val : W32) : Works (.stewardReset fn val) := fun _ => ⟨_, rfl⟩
theorem works_clusterWakeStart (k : ClusterId) : Works (.clusterWakeStart k) := fun _ => ⟨_, rfl⟩
theorem works_clusterWakeReady (k : ClusterId) : Works (.clusterWakeReady k) := fun _ => ⟨_, rfl⟩
theorem works_wakeTimerArm (fn : FnId) (val : W32) : Works (.wakeTimerArm fn val) := fun _ => ⟨_, rfl⟩
theorem works_wakeTimerFire (ctx : CtxId) : Works (.wakeTimerFire ctx) := fun _ => ⟨_, rfl⟩
theorem works_portIdleTimeout (p : PortId) : Works (.portIdleTimeout p) := fun _ => ⟨_, rfl⟩
theorem works_portWake (p : PortId) : Works (.portWake p) := fun _ => ⟨_, rfl⟩
theorem works_pwrClear (fn : FnId) (val : W32) : Works (.pwrClear fn val) := fun _ => ⟨_, rfl⟩
theorem works_registerWrite (rq : Requester) (sp : RegSpace) (val : W64) : Works (.registerWrite rq sp val) := fun _ => ⟨_, rfl⟩
theorem works_latentLate : Works (.latentLate) := fun _ => ⟨_, rfl⟩
theorem works_pcieLinkUp (p : PciePort) (speed : BitVec 4) (flit : Bool) (width : BitVec 6) : Works (.pcieLinkUp p speed flit width) := fun _ => ⟨_, rfl⟩
theorem works_vinWarning (mv : W16) : Works (.vinWarning mv) := fun _ => ⟨_, rfl⟩

theorem exec_works (c : Instr) (h : actsInReset c = false) : Works c :=
  match c with
  | .tempoPulse rclk => works_tempoPulse rclk
  | .tempoPulseMissing => works_tempoPulseMissing
  | .tempoHighTooLong => works_tempoHighTooLong
  | .tempoEdge => works_tempoEdge
  | .commitPoint => works_commitPoint
  | .periodicMarkerSend => works_periodicMarkerSend
  | .overrun => works_overrun
  | .markerReceive p copy crcOk payload => works_markerReceive p copy crcOk payload
  | .stalemateTimeout c => works_stalemateTimeout c
  | .stretchSpacingExpiry => works_stretchSpacingExpiry
  | .tempoResume fn val => works_tempoResume fn val
  | .tempoEnable fn val => works_tempoEnable fn val
  | .variantAnnounce fn val => works_variantAnnounce fn val
  | .tmpCountLoRead fn => works_tmpCountLoRead fn
  | .tmpSwitchCountLoRead fn => works_tmpSwitchCountLoRead fn
  | .tmpClear fn val => works_tmpClear fn val
  | .nop c st w => works_nop c st w
  | .time c st w => works_time c st w
  | .boundary c st w silent => works_boundary c st w silent
  | .firstTempoPrefetch c => works_firstTempoPrefetch c
  | .sync c st w => works_sync c st w
  | .refill c st w => works_refill c st w
  | .trd c st w => works_trd c st w
  | .twr c st w => works_twr c st w
  | .ldq c st w => works_ldq c st w
  | .stq c st w => works_stq c st w
  | .copy c st w => works_copy c st w
  | .put c st w => works_put c st w
  | .get c st w => works_get c st w
  | .ladd c st w => works_ladd c st w
  | .sput c st w => works_sput c st w
  | .bar c st w => works_bar c st w
  | .win c st w => works_win c st w
  | .pass c st w => works_pass c st w
  | .passRowResult c e checkDelta => works_passRowResult c e checkDelta
  | .rampOutStep c e => works_rampOutStep c e
  | .drain c st w => works_drain c st w
  | .tcfg c st w => works_tcfg c st w
  | .tile c st w => works_tile c st w
  | .ew c st w => works_ew c st w
  | .unitSignal c u => works_unitSignal c u
  | .mrdl c w => works_mrdl c w
  | .mwrl c w => works_mwrl c w
  | .mclr c w => works_mclr c w
  | .mcrc c w => works_mcrc c w
  | .mtrb c w => works_mtrb c w
  | .mtwb c w => works_mtwb c w
  | .mmap c w => works_mmap c w
  | .msig c w => works_msig c w
  | .msyn c w => works_msyn c w
  | .maintInsnComplete c => works_maintInsnComplete c
  | .storeReread c line secondMatches scheduled => works_storeReread c line secondMatches scheduled
  | .tierReread c blk secondMatches scheduled => works_tierReread c blk secondMatches scheduled
  | .arrival c => works_arrival c
  | .syncObjectWrite rq c off val => works_syncObjectWrite rq c off val
  | .coreCntClear rq c val => works_coreCntClear rq c val
  | .gatherFlush c e => works_gatherFlush c e
  | .gatherIdleTimeout c e => works_gatherIdleTimeout c e
  | .gatherFenceRequest c => works_gatherFenceRequest c
  | .ringWriteResume c r => works_ringWriteResume c r
  | .storeClearDone c => works_storeClearDone c
  | .boundaryQueueOp c => works_boundaryQueueOp c
  | .weakEntryExpiry loc => works_weakEntryExpiry loc
  | .scrubRead loc res => works_scrubRead loc res
  | .sliceSubstitutionAdd native nativeTier sub subTier => works_sliceSubstitutionAdd native nativeTier sub subTier
  | .tirClear fn val => works_tirClear fn val
  | .flitReceive r inp f => works_flitReceive r inp f
  | .seamResult r seam => works_seamResult r seam
  | .routerOutputSend r out => works_routerOutputSend r out
  | .rtrCommit r val => works_rtrCommit r val
  | .rtrClear r val => works_rtrClear r val
  | .paritySweep hits => works_paritySweep hits
  | .portTrainingDone p farGen laneGen => works_portTrainingDone p farGen laneGen
  | .portGenMaxSet fn val => works_portGenMaxSet fn val
  | .portEnableSet fn val => works_portEnableSet fn val
  | .portOppositionSet fn val => works_portOppositionSet fn val
  | .messageReceive p flits => works_messageReceive p flits
  | .ackReceive p upTo naks credits => works_ackReceive p upTo naks credits
  | .ackSendTimer p => works_ackSendTimer p
  | .idleSendTimer p => works_idleSendTimer p
  | .idleFlitReceive p => works_idleFlitReceive p
  | .portSilenceTimeout p => works_portSilenceTimeout p
  | .laneLockLoss p => works_laneLockLoss p
  | .openingStart fn val => works_openingStart fn val
  | .identResendTimer p => works_identResendTimer p
  | .identReceive p f => works_identReceive p f
  | .epochCommand fn val => works_epochCommand fn val
  | .epochReceive p rx count phaseSc => works_epochReceive p rx count phaseSc
  | .snapshotArm fn val => works_snapshotArm fn val
  | .snapReceive p rx count => works_snapReceive p rx count
  | .barrierReceive p rx ctx release => works_barrierReceive p rx ctx release
  | .domainResetFlood fn val => works_domainResetFlood fn val
  | .dresetReceive p rx => works_dresetReceive p rx
  | .domainResetEntry => works_domainResetEntry
  | .replyReceive p rx reply data => works_replyReceive p rx reply data
  | .messageTimeout src msgid => works_messageTimeout src msgid
  | .portEgressSend p => works_portEgressSend p
  | .legacyRequestReceive p op addr len data => works_legacyRequestReceive p op addr len data
  | .fabRouteCommit fn val => works_fabRouteCommit fn val
  | .fabClear fn val => works_fabClear fn val
  | .opposeSigReceive p flit => works_opposeSigReceive p flit
  | .opposeLogReceive p flit => works_opposeLogReceive p flit
  | .mirrorReceive p flit => works_mirrorReceive p flit
  | .verdictReceive p flit => works_verdictReceive p flit
  | .admission fn q hdr body => works_admission fn q hdr body
  | .cancel fn q hdr body => works_cancel fn q hdr body
  | .patchLoad fn q hdr body => works_patchLoad fn q hdr body
  | .patchDrop fn q hdr body => works_patchDrop fn q hdr body
  | .patchImageVerified slot dmaOk => works_patchImageVerified slot dmaOk
  | .promptReadComplete l dmaOk => works_promptReadComplete l dmaOk
  | .selectionLaneStart ctx entry => works_selectionLaneStart ctx entry
  | .selectionLaneDone ctx entry => works_selectionLaneDone ctx entry
  | .groupDecision g twinDiffers => works_groupDecision g twinDiffers
  | .tokenDoorbell fn off size val => works_tokenDoorbell fn off size val
  | .shuttleOfferReceive chip job ident kvfmt kvlen => works_shuttleOfferReceive chip job ident kvfmt kvlen
  | .shuttleGrantReceive chip job ident addrs => works_shuttleGrantReceive chip job ident addrs
  | .shuttleStateRecordReceive chip job ident record puts => works_shuttleStateRecordReceive chip job ident record puts
  | .shuttleAckReceive chip job ident status => works_shuttleAckReceive chip job ident status
  | .shuttleTimeout l => works_shuttleTimeout l
  | .srvGroupsWrite fn val => works_srvGroupsWrite fn val
  | .srvClear fn val => works_srvClear fn val
  | .hostNop fn q hdr body => works_hostNop fn q hdr body
  | .wload fn q hdr body => works_wload fn q hdr body
  | .wloadStart id => works_wloadStart id
  | .loadVerifyComplete id dmaOk => works_loadVerifyComplete id dmaOk
  | .rdout fn q hdr body => works_rdout fn q hdr body
  | .hostcopy fn q hdr body => works_hostcopy fn q hdr body
  | .hostCopyExpiry tag => works_hostCopyExpiry tag
  | .boltLoad fn q hdr body => works_boltLoad fn q hdr body
  | .run fn q hdr body => works_run fn q hdr body
  | .stop fn q hdr body => works_stop fn q hdr body
  | .sqTailDoorbell fn q off size val => works_sqTailDoorbell fn q off size val
  | .cqHeadDoorbell fn q off size val => works_cqHeadDoorbell fn q off size val
  | .eventHeadDoorbell fn off size val => works_eventHeadDoorbell fn off size val
  | .msixSend fn vec => works_msixSend fn vec
  | .contextBind fn val => works_contextBind fn val
  | .partitionWrite fn val => works_partitionWrite fn val
  | .forceStop fn val => works_forceStop fn val
  | .queueEnable fn q val => works_queueEnable fn q val
  | .hqClear fn val => works_hqClear fn val
  | .traceModeRequest fn val => works_traceModeRequest fn val
  | .functionLevelReset fn => works_functionLevelReset fn
  | .pcieLinkDown p => works_pcieLinkDown p
  | .pcieHotReset p => works_pcieHotReset p
  | .perstAssert _ => nomatch h
  | .perstDeassert _ => nomatch h
  | .serviceLoad k addr size ecc => works_serviceLoad k addr size ecc
  | .serviceStore k addr size data ecc => works_serviceStore k addr size data ecc
  | .serviceMessageSubmit slot => works_serviceMessageSubmit slot
  | .faultReportHandling => works_faultReportHandling
  | .selfTestVisit c latentFault => works_selfTestVisit c latentFault
  | .oppositionEnable fn val peer => works_oppositionEnable fn val peer
  | .safOppFirstRead fn => works_safOppFirstRead fn
  | .choiceRingEnable fn val => works_choiceRingEnable fn val
  | .safClear fn val => works_safClear fn val
  | .fwDeliver fn cmd => works_fwDeliver fn cmd
  | .fwVerifyComplete dmaOk => works_fwVerifyComplete dmaOk
  | .keySet fn cmd dmaOk => works_keySet fn cmd dmaOk
  | .keyClear fn cmd => works_keyClear fn cmd
  | .keyLock fn cmd => works_keyLock fn cmd
  | .cardRead fn cmd dmaOk => works_cardRead fn cmd dmaOk
  | .fwFloorWrite fn val => works_fwFloorWrite fn val
  | .getVersion p req => works_getVersion p req
  | .getCapabilities p req => works_getCapabilities p req
  | .negotiateAlgorithms p req => works_negotiateAlgorithms p req
  | .getDigests p req => works_getDigests p req
  | .getCertificate p req => works_getCertificate p req
  | .challenge p req => works_challenge p req
  | .getMeasurements p req => works_getMeasurements p req
  | .clusterClearStart k => works_clusterClearStart k
  | .clusterClearDone k => works_clusterClearDone k
  | .clearWriteTimeout k => works_clearWriteTimeout k
  | .powerUp => nomatch h
  | .powerDown => nomatch h
  | .resetRelease _ => nomatch h
  | .vinUndervoltage => nomatch h
  | .vinOvervoltage => nomatch h
  | .rclkLoss => nomatch h
  | .modRstAssert => nomatch h
  | .modRstDeassert => nomatch h
  | .stewardReset fn val => works_stewardReset fn val
  | .sensorSample _ _ _ => nomatch h
  | .clusterWakeStart k => works_clusterWakeStart k
  | .clusterWakeReady k => works_clusterWakeReady k
  | .wakeTimerArm fn val => works_wakeTimerArm fn val
  | .wakeTimerFire ctx => works_wakeTimerFire ctx
  | .portIdleTimeout p => works_portIdleTimeout p
  | .portWake p => works_portWake p
  | .pwrClear fn val => works_pwrClear fn val
  | .registerWrite rq sp val => works_registerWrite rq sp val
  | .latentLate => works_latentLate
  | .pcieLinkUp p speed flit width => works_pcieLinkUp p speed flit width
  | .vinWarning mv => works_vinWarning mv

/-- The answer of every command: the machine as it was, or an answer that keeps the waiting commands, does not run time back, and drives the
pins. -/
theorem exec_shape (c : Instr) (s : State) : ∃ t, exec c s = .next t ∧ (t = s ∨ ∃ u, t = answer s u) := by
  have ha (u : State) : ∃ t, (.next (answer s u) : Host.Outcome State Fault Refusal) = .next t ∧ (t = s ∨ ∃ u, t = answer s u) :=
    ⟨_, rfl, .inr ⟨_, rfl⟩⟩
  by_cases h : actsInReset c = false
  · obtain ⟨f, e⟩ := exec_works c h s
    refine ⟨_, e, ?_⟩
    unfold whenLive
    split
    · exact .inr ⟨_, rfl⟩
    · exact .inl rfl
  · cases c with
    | rclkLoss => exact ha _
    | modRstAssert => exact ha _
    | modRstDeassert => exact ha _
    | powerUp => exact ha _
    | powerDown => exact ha _
    | vinUndervoltage => exact ha _
    | vinOvervoltage => exact ha _
    | resetRelease b => exact ha _
    | perstAssert p => exact ha _
    | perstDeassert p => exact ha _
    | sensorSample k a b =>
      show ∃ t, execSensorSample k a b s = .next t ∧ _
      unfold execSensorSample
      split
      · refine ⟨_, rfl, ?_⟩
        unfold whenLive
        split
        · exact .inr ⟨_, rfl⟩
        · exact .inl rfl
      · exact ha _
      · exact ⟨s, rfl, .inl rfl⟩
    | _ => exact absurd rfl h

end Sys2Proof.Machine
end

