-- ==== Sys2Proof/Laws/Table.lean ====
section
/-! SUPPORT. The laws of sparse tables and byte memories: what a write changes, what it leaves, and that every operation keeps the
canonical form. -/

namespace Sys2Proof.Machine

section Tables

variable {α : Type} [DecidableEq α] (d : α)

/-- Keys strictly rise. -/
abbrev Rising {β : Type} (t : Tbl β) : Prop := t.Pairwise (fun a b => a.1 < b.1)

omit [DecidableEq α] in
theorem tget_below {t : Tbl α} {i : Nat} (h : ∀ p ∈ t, i < p.1) : tget d t i = d := by
  cases t with
  | nil => rfl
  | cons p t =>
    have h1 : i < p.1 := h p (by simp)
    simp [tget, Nat.ne_of_lt h1, h1]

/-- A write gives its key the value. -/
theorem tget_tset_same {t : Tbl α} (h : Rising t) (i : Nat) (v : α) : tget d (tset d t i v) i = v := by
  induction t with
  | nil => by_cases hv : v = d <;> simp [tset, tget, hv]
  | cons p t ih =>
    obtain ⟨hp, ht⟩ := List.pairwise_cons.mp h
    simp only [tset]
    by_cases h1 : i < p.1
    · by_cases hv : v = d <;> simp [tget, h1, hv, Nat.ne_of_lt h1]
    · by_cases h2 : i = p.1
      · by_cases hv : v = d
        · simp only [h2, Nat.lt_irrefl, if_false, if_true, hv]
          exact tget_below d hp
        · simp [h2, hv, tget]
      · simp [h1, h2, tget, ih ht]

/-- A write leaves every other key alone. -/
theorem tget_tset_other {t : Tbl α} (h : Rising t) {i j : Nat} (hij : j ≠ i) (v : α) : tget d (tset d t i v) j = tget d t j := by
  induction t with
  | nil => by_cases hv : v = d <;> simp [tset, tget, hv, hij]
  | cons p t ih =>
    obtain ⟨hp, ht⟩ := List.pairwise_cons.mp h
    simp only [tset]
    by_cases h1 : i < p.1
    · by_cases hv : v = d
      · simp [h1, hv]
      · simp only [h1, if_true, hv, if_false, tget, hij]
        by_cases h2 : j < i
        · have h3 : j < p.1 := by omega
          simp [h2, h3, Nat.ne_of_lt h3]
        · simp [h2]
    · by_cases h2 : i = p.1
      · subst h2
        by_cases hv : v = d
        · simp only [h1, if_false, if_true, hv, tget, hij]
          by_cases h3 : j < p.1
          · simp only [h3, if_true]
            exact tget_below d (fun q hq => Nat.lt_trans h3 (hp q hq))
          · simp [h3]
        · simp [hv, tget, hij]
      · simp [h1, h2, tget, ih ht]

theorem mem_tset {t : Tbl α} {i : Nat} {v : α} {p : Nat × α} (h : p ∈ tset d t i v) : p ∈ t ∨ (p = (i, v) ∧ v ≠ d) := by
  induction t with
  | nil => by_cases hv : v = d <;> simp_all [tset]
  | cons q t ih =>
    simp only [tset] at h
    split at h
    · split at h <;> simp_all
      rcases h with h | h | h <;> simp_all
    · split at h
      · split at h <;> simp_all
        rcases h with h | h <;> simp_all
      · rcases List.mem_cons.mp h with h | h
        · simp [h]
        · rcases ih h with h | h <;> simp_all

/-- A write keeps the canonical form. -/
theorem tset_wf {t : Tbl α} (h : twf d t) (i : Nat) (v : α) : twf d (tset d t i v) := by
  refine ⟨?_, fun p hp => ?_⟩
  · obtain ⟨h, -⟩ := h
    induction t with
    | nil => by_cases hv : v = d <;> simp [tset, hv]
    | cons p t ih =>
      obtain ⟨hp, ht⟩ := List.pairwise_cons.mp h
      simp only [tset]
      split
      · rename_i h1
        split
        · exact h
        · refine List.pairwise_cons.mpr ⟨fun q hq => ?_, h⟩
          rcases List.mem_cons.mp hq with rfl | hq
          · exact h1
          · exact Nat.lt_trans h1 (hp q hq)
      · rename_i h1
        split
        · rename_i h2
          split
          · exact ht
          · exact List.pairwise_cons.mpr ⟨fun q hq => h2 ▸ hp q hq, ht⟩
        · rename_i h2
          refine List.pairwise_cons.mpr ⟨fun q hq => ?_, ih ht⟩
          rcases mem_tset d hq with hq | ⟨rfl, -⟩
          · exact hp q hq
          · exact Nat.lt_of_le_of_ne (Nat.le_of_not_lt h1) (fun e => h2 e.symm)
  · rcases mem_tset d hp with hp | ⟨rfl, hv⟩
    · exact h.2 p hp
    · exact hv

theorem tupd_wf {t : Tbl α} (h : twf d t) (i : Nat) (f : α → α) : twf d (tupd d t i f) := tset_wf d h i _

omit [DecidableEq α] in
theorem tclear_wf {t : Tbl α} (h : twf d t) (lo hi : Nat) : twf d (tclear t lo hi) :=
  ⟨h.1.filter _, fun p hp => h.2 p (List.mem_of_mem_filter hp)⟩

end Tables

/-! ### Bytes -/

theorem readByte_writeByte_same {m : Mem} (h : Mem.wf m) (a : Nat) (b : Byte) : readByte (writeByte m a b) a = b :=
  tget_tset_same 0 h.1 a b

theorem readByte_writeByte_other {m : Mem} (h : Mem.wf m) {a i : Nat} (hi : i ≠ a) (b : Byte) :
    readByte (writeByte m a b) i = readByte m i := tget_tset_other 0 h.1 hi b

theorem writeByte_wf {m : Mem} (h : Mem.wf m) (a : Nat) (b : Byte) : Mem.wf (writeByte m a b) := tset_wf 0 h a b

theorem writeBytes_wf {m : Mem} (h : Mem.wf m) (a : Nat) (bs : List Byte) : Mem.wf (writeBytes m a bs) := by
  induction bs generalizing m a with
  | nil => exact h
  | cons b bs ih => exact ih (writeByte_wf h a b) (a + 1)

theorem writeLe_wf {m : Mem} (h : Mem.wf m) (a n v : Nat) : Mem.wf (writeLe m a n v) := writeBytes_wf h a _

theorem zeroBytes_wf {m : Mem} (h : Mem.wf m) (lo hi : Nat) : Mem.wf (zeroBytes m lo hi) := tclear_wf 0 h lo hi

/-- A byte outside a written range reads as before. -/
theorem readByte_writeBytes_outside {m : Mem} (h : Mem.wf m) {a i : Nat} (bs : List Byte) (hi : i < a ∨ a + bs.length ≤ i) :
    readByte (writeBytes m a bs) i = readByte m i := by
  induction bs generalizing m a with
  | nil => rfl
  | cons b bs ih =>
    simp only [List.length_cons] at hi
    have h1 : i ≠ a := by omega
    have h2 : i < a + 1 ∨ a + 1 + bs.length ≤ i := by omega
    exact (ih (writeByte_wf h a b) h2).trans (readByte_writeByte_other h h1 b)

/-- A byte of a written range reads as written. -/
theorem readByte_writeBytes_inside {m : Mem} (h : Mem.wf m) (a i : Nat) (bs : List Byte) (hi : i < bs.length) :
    readByte (writeBytes m a bs) (a + i) = bs[i] := by
  induction bs generalizing m a i with
  | nil => simp at hi
  | cons b bs ih =>
    cases i with
    | zero =>
      exact (readByte_writeBytes_outside (writeByte_wf h a b) bs (Or.inl (by omega))).trans (readByte_writeByte_same h a b)
    | succ i =>
      have e : a + (i + 1) = a + 1 + i := by omega
      rw [e]
      exact ih (writeByte_wf h a b) (a + 1) i (by simpa using hi)

theorem readBytes_writeBytes {m : Mem} (h : Mem.wf m) (a : Nat) (bs : List Byte) : readBytes (writeBytes m a bs) a bs.length = bs := by
  apply List.ext_getElem
  · simp [readBytes]
  · intro i h1 h2
    simp only [readBytes, List.getElem_map, List.getElem_range]
    exact readByte_writeBytes_inside h a i bs h2

@[simp] theorem leBytes_length (n v : Nat) : (leBytes n v).length = n := by
  induction n generalizing v with
  | zero => rfl
  | succ n ih => simp [leBytes, ih]

theorem leNat_leBytes (n v : Nat) : leNat (leBytes n v) = v % 256 ^ n := by
  induction n generalizing v with
  | zero => simp [leBytes, leNat, Nat.mod_one]
  | succ n ih =>
    have e : (BitVec.ofNat 8 v).toNat = v % 256 := by simp
    rw [leBytes, leNat, ih, e, Nat.pow_succ, Nat.mul_comm (256 ^ n) 256, Nat.mod_mul]

/-- A number written reads back, modulo its bytes. -/
theorem readLe_writeLe {m : Mem} (h : Mem.wf m) (a n v : Nat) : readLe (writeLe m a n v) a n = v % 256 ^ n := by
  have e := readBytes_writeBytes h a (leBytes n v)
  rw [leBytes_length] at e
  unfold readLe writeLe
  rw [e, leNat_leBytes]

/-! ### Parts of the machine -/

theorem coreAt_setCore_same {s : State} (h : Rising s.cores) (c : Nat) (x : Core) : coreAt (setCore s c x) c = x := tget_tset_same _ h c x
theorem coreAt_setCore_other {s : State} (h : Rising s.cores) {c e : Nat} (he : e ≠ c) (x : Core) :
    coreAt (setCore s c x) e = coreAt s e := tget_tset_other _ h he x
theorem ctxAt_setCtx_same {s : State} (h : Rising s.ctxs) (k : Nat) (x : Ctx) : ctxAt (setCtx s k x) k = x := tget_tset_same _ h k x
theorem ctxAt_setCtx_other {s : State} (h : Rising s.ctxs) {k j : Nat} (hj : j ≠ k) (x : Ctx) :
    ctxAt (setCtx s k x) j = ctxAt s j := tget_tset_other _ h hj x
theorem fnAt_setFn_same {s : State} (h : Rising s.fns) (f : Nat) (x : Fn) : fnAt (setFn s f x) f = x := tget_tset_same _ h f x
theorem fnAt_setFn_other {s : State} (h : Rising s.fns) {f j : Nat} (hj : j ≠ f) (x : Fn) :
    fnAt (setFn s f x) j = fnAt s j := tget_tset_other _ h hj x
theorem portAt_setPort_same {s : State} (h : Rising s.fab.ports) (p : Nat) (x : Port) : portAt (setPort s p x) p = x :=
  tget_tset_same _ h p x
theorem portAt_setPort_other {s : State} (h : Rising s.fab.ports) {p j : Nat} (hj : j ≠ p) (x : Port) :
    portAt (setPort s p x) j = portAt s j := tget_tset_other _ h hj x
theorem laneAt_setLane_same {s : State} (h : Rising s.srv.lanes) (l : Nat) (x : Lane) : laneAt (setLane s l x) l = x :=
  tget_tset_same _ h l x

end Sys2Proof.Machine
end

