-- ==== Sys2Proof/Laws/Edges.lean ====
section
/-! SUPPORT. Lemmas on what the parts of a tempo edge and of a commit point leave as it was. -/

namespace Sys2Proof.Machine

/-- The tempo registers and the gating stay (a step of an edge that touches neither). -/
def Kept (s t : State) : Prop := t.tmp = s.tmp ∧ t.lock.gated = s.lock.gated

theorem Kept.refl (s : State) : Kept s s := ⟨rfl, rfl⟩

theorem Kept.trans {s t u : State} (h : Kept s t) (k : Kept t u) : Kept s u := ⟨k.1.trans h.1, k.2.trans h.2⟩

theorem Calm.kept {s t : State} (h : Calm s t) : Kept s t := ⟨h.tmp, by rw [h.lock]⟩

theorem forAll_kept {α : Type} (l : List α) (s : State) (f : State → α → State) (hf : ∀ s a, Kept s (f s a)) : Kept s (forAll l s f) :=
  forAll_keeps (Kept s) l s f (Kept.refl s) (fun t a _ h => h.trans (hf t a))

theorem slipAc_kept (s : State) (c n : Nat) : Kept s (slipAc s c n) := ⟨rfl, rfl⟩

theorem updCore_kept (s : State) (c : Nat) (f) : Kept s (updCore s c f) := ⟨rfl, rfl⟩

theorem tryRetire_kept (s : State) (c b pb : Nat) : Kept s (tryRetire s c b pb) := by
  unfold tryRetire; repeat' split
  all_goals exact ⟨rfl, rfl⟩

theorem weakHit_kept (s : State) (o) (pb : Nat) : Kept s (weakHit s o pb) := by
  unfold weakHit; extract_lets
  split
  · split
    · exact Kept.trans ⟨rfl, rfl⟩ (tryRetire_kept _ _ _ _)
    · exact ⟨rfl, rfl⟩
  · exact ⟨rfl, rfl⟩

theorem tirs_kept (s : State) (t : Tiers) (i : Nat) : Kept s (setTirStatus { s with tiers := t } i) := ⟨rfl, rfl⟩

theorem setCore_kept (s : State) (c : Nat) (x : Core) : Kept s (setCore s c x) := ⟨rfl, rfl⟩

theorem fenceBlock_kept (s : State) (c b : Nat) : Kept s (fenceBlock s c b) := by
  unfold fenceBlock; extract_lets
  split
  · exact tirs_kept s _ 1
  · exact (tirs_kept s _ 5).trans (raiseCore_calm _ _ _ _).kept

theorem blockReread_kept (s : State) (c b : Nat) (m sch : Bool) : Kept s (blockReread s c b m sch) := by
  unfold blockReread; extract_lets s1 s2
  have h1 : Kept s s1 := by unfold s1; split; exact slipAc_kept _ _ _; exact Kept.refl _
  have h2 : Kept s s2 := h1.trans (updCore_kept _ _ _)
  split
  · exact h2.trans (weakHit_kept _ _ _)
  · exact (h2.trans (fenceBlock_kept _ _ _)).trans (raiseCore_calm _ _ _ _).kept

theorem readBlock_kept (s : State) (c b : Nat) (sch : Bool) : Kept s (readBlock s c b sch).2.2 := by
  unfold readBlock; extract_lets
  repeat' split
  · exact (raise_calm _ _ _ _ _ _ _).kept
  · exact (raiseCore_calm _ _ _ _).kept
  · exact blockReread_kept _ _ _ _ _
  · exact Kept.refl s

theorem readBlocks_kept (bs : List Nat) (s : State) (c : Nat) (sch : Bool) : Kept s (readBlocks s c sch bs).2.2 := by
  induction bs generalizing s with
  | nil => exact Kept.refl s
  | cons b bs ih =>
    unfold readBlocks
    exact (readBlock_kept s c b sch).trans (ih _)

theorem readChunk_kept (s : State) (c k : Nat) (sch : Bool) : Kept s (readChunk s c k sch).2 := by
  unfold readChunk
  exact readBlocks_kept [_, _] s c sch

theorem fetchChunks_kept (ks : List Nat) (s : State) (c f : Nat) (sch : Bool) : Kept s (fetchChunks s c f ks sch).2 := by
  unfold fetchChunks
  suffices ∀ (ks : List Nat) (acc : List (Nat × BitVec 8192)) (u : State), Kept s u → Kept s (ks.foldl (fun (r : List (Nat × BitVec 8192) × State) k =>
    let (d, s) := readChunk r.2 c (f + k) sch
    (r.1 ++ [(k, d)], s)) (acc, u)).2 from this ks [] s (Kept.refl s)
  intro ks
  induction ks with
  | nil => intro acc u h; exact h
  | cons k ks ih => intro acc u h; exact ih _ _ (h.trans (readChunk_kept u c _ sch))

theorem fetchSet_kept (s : State) (c v : Nat) : Kept s (fetchSet s c v) := by
  unfold fetchSet
  exact (((readChunk_kept s c _ true).trans (fetchChunks_kept _ _ c _ true)).trans (fetchChunks_kept _ _ c _ true)).trans (updCore_kept _ _ _)

theorem refetch_kept (s : State) (c v : Nat) : Kept s (refetch s c v) := by
  unfold refetch; extract_lets; split
  · exact Kept.refl s
  · exact fetchSet_kept s c v

theorem beginCore_kept (s : State) (k c : Nat) : Kept s (beginCore s k c) := by
  unfold beginCore; extract_lets v n s1 x
  have h1 : Kept s s1 := refetch_kept s c v
  split
  · exact h1
  · split
    · exact h1.trans ((setCore_kept _ _ _).trans (raise_calm _ _ _ _ _ _ _).kept)
    · exact h1.trans (setCore_kept _ _ _)

/-- What a stretch request at an edge may change. -/
def Beg (n : W64) (t : State) : Prop :=
  (t.tmp.working = true ∧ t.tmp.t = n ∧ t.tmp.count = n) ∧ (t.tmp.pulses = 0 ∧ t.tmp.held = false ∧ t.tmp.overrunSent = false ∧ t.tmp.devs = []) ∧
  t.lock.gated = false

theorem Beg.kept {n} {s t : State} (h : Beg n s) (k : Kept s t) : Beg n t := by
  unfold Beg; rw [k.1, k.2]; exact h

theorem switchVariant_tmp (s : State) (n : Nat) : ∃ v l, (switchVariant s n).tmp = { s.tmp with variant := v, switches := l } ∧
    (switchVariant s n).lock = s.lock := by
  unfold switchVariant; extract_lets v was s1
  split
  · exact ⟨_, _, rfl, rfl⟩
  · have h := (trace_calm s1 4 0xFF v.toNat 0).trans (choice_spec (trace s1 4 0xFF v.toNat 0) 9 0 0 v.toNat 0).1
    exact ⟨_, _, h.tmp, h.lock⟩

theorem sendThrottle_beg {n} (s : State) (v) (h : Beg n s) : Beg n (sendThrottle s v) := by
  unfold sendThrottle; split
  · exact h
  · unfold raiseMarker sendMarker
    refine Beg.kept (s := updTmp (updTmp s (fun t => { t with throttles := t.throttles ++ [(t.t.toNat, v)] })) (fun t => { t with forwarded := (s.tmp.t.toNat, 2) :: t.forwarded })) ?_ ?_
    · exact h
    · exact (forAll_calm _ _ _ (fun u _ => sendControlAll_calm _ _ _ _)).kept

theorem throttleRequest_beg {n} (s : State) (h : Beg n s) : Beg n (throttleRequest s) := by
  unfold throttleRequest; extract_lets
  split
  · exact h
  · split
    · exact sendThrottle_beg _ _ h
    · exact h

theorem changeLevel_beg {n} (s : State) (l : Nat) (h : Beg n s) : Beg n (changeLevel s l) := by
  unfold changeLevel; extract_lets; split <;> exact h

theorem updSrv_kept (s : State) (f : Srv → Srv) : Kept s (updSrv s f) := ⟨rfl, rfl⟩

theorem updSaf_kept (s : State) (f : Saf → Saf) : Kept s (updSaf s f) := ⟨rfl, rfl⟩

theorem updLane_kept (s : State) (l : Nat) (f : Lane → Lane) : Kept s (updLane s l f) := ⟨rfl, rfl⟩

theorem beginServing_kept (s : State) : Kept s (beginServing s) := by
  unfold beginServing; extract_lets a ks b c d
  have ha : Kept s a := updSrv_kept s _
  have hb : Kept s b := ha.trans (forAll_kept _ _ _ (fun u g => updSrv_kept u _))
  have hc : Kept s c := hb.trans (forAll_kept _ _ _ (fun u l => updLane_kept u l _))
  have hd : Kept s d := hc.trans (updSrv_kept c _)
  exact hd.trans (updSaf_kept d _)

/-- What the end of a worked tempo leaves. -/
def Same (s t : State) : Prop := t.tmp.t = s.tmp.t ∧ t.tmp.count = s.tmp.count ∧ t.tmp.lost = s.tmp.lost

theorem Same.refl (s : State) : Same s s := ⟨rfl, rfl, rfl⟩

theorem Same.trans {s t u : State} (h : Same s t) (k : Same t u) : Same s u := ⟨k.1.trans h.1, k.2.1.trans h.2.1, k.2.2.trans h.2.2⟩

theorem Calm.same {s t : State} (h : Calm s t) : Same s t := by unfold Same; rw [h.tmp]; exact ⟨rfl, rfl, rfl⟩

theorem forAll_same' {α : Type} (l : List α) (s : State) (f : State → α → State) (hf : ∀ s a, Same s (f s a)) : Same s (forAll l s f) :=
  forAll_keeps (Same s) l s f (Same.refl s) (fun t a _ h => h.trans (hf t a))

theorem deviate_same (s : State) (c k : Nat) : Same s (deviate s c k) := ⟨rfl, rfl, rfl⟩

theorem updCore_same (s : State) (c : Nat) (f : Core → Core) : Same s (updCore s c f) := ⟨rfl, rfl, rfl⟩

theorem updLane_same (s : State) (c : Nat) (f : Lane → Lane) : Same s (updLane s c f) := ⟨rfl, rfl, rfl⟩

theorem updCtx_same (s : State) (c : Nat) (f : Ctx → Ctx) : Same s (updCtx s c f) := ⟨rfl, rfl, rfl⟩

theorem updSaf_same (s : State) (f : Saf → Saf) : Same s (updSaf s f) := ⟨rfl, rfl, rfl⟩

theorem hubFault_same (s : State) : Same s (hubFault s) := by
  unfold hubFault
  split
  · exact Same.refl s
  · extract_lets; split
    · exact Same.refl s
    · exact (raiseAt_calm _ _ _ _ _ _ _ _).same

theorem hubDeviation_same (s : State) : Same s (hubDeviation s) := by
  unfold hubDeviation
  split
  · exact Same.refl s
  · split
    · exact deviate_same _ _ _
    · exact Same.refl s

theorem hemRecord_tmp (s : State) : ∃ a b c, (hemRecord s).tmp = { s.tmp with hemLast := a, hemMax := b, stretchLast := c } := ⟨_, _, _, rfl⟩

theorem hemRecord_same (s : State) : Same s (hemRecord s) := by
  obtain ⟨a, b, c, h⟩ := hemRecord_tmp s
  unfold Same; rw [h]; exact ⟨rfl, rfl, rfl⟩

theorem reportDev_same (s : State) (d) : Same s (reportDev s d) := by
  unfold reportDev; extract_lets n k x
  exact Same.trans (t := x) ⟨rfl, rfl, rfl⟩ (raiseAt_calm _ _ _ _ _ _ _ _).same

theorem endChecks_same (s : State) : Same s (endChecks s) := by
  unfold endChecks; extract_lets a b c d e
  have ha : Same s a := (hubFault_same s).trans (hubDeviation_same _)
  have hb : Same s b := ha.trans (forAll_same' _ _ _ (fun u c => updCore_same u c _))
  have hc : Same s c := hb.trans (forAll_same' _ _ _ (fun u c => by
    unfold conflictDeviation; split
    · exact Same.refl u
    · exact deviate_same _ _ _))
  have hd : Same s d := hc.trans (hemRecord_same c)
  have he : Same s e := hd.trans (forAll_same' _ _ _ (fun u x => reportDev_same u x))
  exact he.trans (trace_calm _ _ _ _ _).same

theorem addSwitch_same (s : State) (n : Nat) (v) : Same s (addSwitch s n v) := by
  unfold addSwitch; split <;> exact ⟨rfl, rfl, rfl⟩

theorem takeThrottle_same (s : State) : Same s (takeThrottle s) := by
  unfold takeThrottle
  split
  · extract_lets; split
    · exact addSwitch_same _ _ _
    · exact Same.refl s
  · exact Same.refl s

theorem raiseCore_kept (s : State) (c k l : Nat) : Kept s (raiseCore s c k l) := (raiseCore_calm s c k l).kept

theorem applyEffs_keeps (s : State) (c o : Nat) (es) : (applyEffs s c o es).tmp = s.tmp ∧ (applyEffs s c o es).card = s.card := by
  unfold applyEffs; extract_lets x v ok u
  split
  · exact ⟨(raiseCore_calm _ _ _ _).tmp, (raiseCore_calm _ _ _ _).card⟩
  · split
    · exact ⟨rfl, rfl⟩
    · exact ⟨(raiseCore_calm _ _ _ _).tmp, (raiseCore_calm _ _ _ _).card⟩

theorem effectsEnd_keeps (n : Nat) (s : State) (c : Nat) : (effectsEnd n s c).tmp = s.tmp ∧ (effectsEnd n s c).card = s.card := by
  unfold effectsEnd; extract_lets x due came u w
  split
  · exact ⟨rfl, rfl⟩
  · have hw : w.tmp = s.tmp ∧ w.card = s.card :=
      forAll_keeps (fun t => t.tmp = s.tmp ∧ t.card = s.card) _ _ _ ⟨rfl, rfl⟩ (fun t o _ h => ⟨(applyEffs_keeps _ _ _ _).1.trans h.1, (applyEffs_keeps _ _ _ _).2.trans h.2⟩)
    refine forAll_keeps (fun t => t.tmp = s.tmp ∧ t.card = s.card) _ _ _ hw (fun t o _ h => ?_)
    unfold oweStatus; split <;> exact h

theorem effectsAll_keeps (s : State) : (effectsAll s).tmp = s.tmp ∧ (effectsAll s).card = s.card :=
  forAll_keeps (fun t => t.tmp = s.tmp ∧ t.card = s.card) _ _ _ ⟨rfl, rfl⟩ (fun _ _ _ h => ⟨(effectsEnd_keeps _ _ _).1.trans h.1, (effectsEnd_keeps _ _ _).2.trans h.2⟩)

theorem commitCtx_at (s : State) (k j : Nat) : (ctxAt (commitCtx s k) j).commits = if j = k then s.tmp.lastT :: (ctxAt s k).commits else (ctxAt s j).commits := by
  have hne : ({ ctxAt s k with commits := s.tmp.lastT :: (ctxAt s k).commits, streak := [] } : Ctx) ≠ {} := by
    intro h; have := congrArg Ctx.commits h; simp at this
  have e := tget_tset_ne _ s.ctxs k j _ hne
  show (tget {} (tset {} s.ctxs k _) j).commits = _
  rw [e]
  split <;> rfl

/-- What a withheld worked tempo leaves of the counts of fault detection. -/
def Counts (s t : State) : Prop := t.saf.withheld = s.saf.withheld ∧ t.saf.lastWh = s.saf.lastWh ∧ t.saf.committed = s.saf.committed ∧
  ∀ i, bit s.saf.status i = true → bit t.saf.status i = true

theorem Counts.refl (s : State) : Counts s s := ⟨rfl, rfl, rfl, fun _ h => h⟩

theorem Counts.trans {s t u : State} (h : Counts s t) (k : Counts t u) : Counts s u :=
  ⟨k.1.trans h.1, k.2.1.trans h.2.1, k.2.2.1.trans h.2.2.1, fun i x => k.2.2.2 i (h.2.2.2 i x)⟩

theorem Counts.of_saf {s t : State} (h : t.saf = s.saf) : Counts s t := by unfold Counts; rw [h]; exact ⟨rfl, rfl, rfl, fun _ h => h⟩

theorem forAll_counts {α : Type} (l : List α) (s : State) (f : State → α → State) (hf : ∀ s a, Counts s (f s a)) : Counts s (forAll l s f) :=
  forAll_keeps (Counts s) l s f (Counts.refl s) (fun t a _ h => h.trans (hf t a))

theorem sendVerdict_saf (s : State) (t n) : (sendVerdict s t n).saf = s.saf := by
  unfold sendVerdict; exact (sendControlAll_ctxs _ _ _ _).2.trans rfl

theorem raiseAt_counts (s : State) (code : Nat) (scope : List Nat) (counts : List W64) (a b c d : Nat) : Counts s (raiseAt s code scope counts a b c d) := by
  unfold raiseAt
  extract_lets detail s1 s2 s3 s4 s5
  have h1 : Counts s s1 := ⟨rfl, rfl, rfl, fun i h => h⟩
  have h2 : Counts s s2 := h1.trans ⟨rfl, rfl, rfl, fun i h => orBit_mono _ _ _ h⟩
  have h3 : Counts s s3 := by
    unfold s3; split
    · exact h2.trans ⟨rfl, rfl, rfl, fun i h => orBit_mono _ _ _ h⟩
    · exact h2
  have h4 : Counts s s4 := h3.trans (forAll_counts _ _ _ (fun s k => Counts.of_saf rfl))
  have h5 : Counts s s5 := h4.trans (Counts.of_saf (trace_ctxs _ _ _ _ _).2)
  split
  · refine h5.trans (forAll_counts _ _ _ (fun s k => ?_))
    split
    · exact forAll_counts _ _ _ (fun s t => Counts.of_saf (sendVerdict_saf s _ t))
    · exact Counts.refl s
  · exact h5

theorem raiseAt_ctrl (s : State) (code : Nat) (scope : List Nat) (counts : List W64) (a b c d : Nat) : (raiseAt s code scope counts a b c d).saf.ctrl = s.saf.ctrl := by
  obtain ⟨w, l, n, b', c', r, e⟩ := raiseAt_saf s code scope counts a b c d
  rw [e]

theorem postBoth_saf (s : State) (k kd a : Nat) (b : W64) : (postBoth s k kd a b).saf = s.saf ∧ (postBoth s k kd a b).tmp = s.tmp := by
  unfold postBoth; extract_lets r s1
  have h : s1.saf = s.saf ∧ s1.tmp = s.tmp := by
    unfold s1; split
    · exact ⟨(postTo_ctxs _ _ _).2, (postTo_calm _ _ _).tmp⟩
    · exact ⟨rfl, rfl⟩
  split
  · split
    · exact h
    · exact ⟨(postTo_ctxs _ _ _).2.trans h.1, (postTo_calm _ _ _).tmp.trans h.2⟩
  · exact h

end Sys2Proof.Machine
end

