-- ==== Sys2Proof/Laws/Keeps.lean ====
section
/-! SUPPORT. Lemmas on what shared operations leave as it was: power, card, markers, mesh faults, opposition logs, verdicts, ticks and answers. -/

namespace Sys2Proof.Machine

theorem tick_driven {s : State} (h : Driven s) : Driven (tick s) := by
  unfold tick whenLive; split
  · exact answer_driven _ _
  · exact h

theorem tick_pending (s : State) : (tick s).pending = s.pending := by
  unfold tick whenLive; split <;> rfl

theorem tick_now (s : State) : s.now ≤ (tick s).now := by
  unfold tick whenLive; split
  · exact Nat.le_max_left _ _
  · exact Nat.le_refl _

theorem done_id {s : State} (q : Quiet s) (f : State → State) (hf : f s = s) : done s f = .next (if live s then answer s s else s) := by
  unfold done whenLive; split
  · simp only [hf, settle_quiet q]
  · rfl

theorem plain_id {s : State} (f : State → State) (hf : f s = s) : plain s f = .next (if live s then answer s s else s) := by
  unfold plain whenLive; split
  · simp only [hf]
  · rfl

theorem tget_ext : ∀ (m m' : Mem), Mem.wf m → Mem.wf m' → (∀ i, readByte m' i = readByte m i) → m' = m := by
  intro m
  induction m with
  | nil =>
    intro m' _ h' e
    cases m' with
    | nil => rfl
    | cons p t => exact absurd (by simpa [readByte, tget] using e p.1) (h'.2 p (by simp))
  | cons p t ih =>
    intro m' h h' e
    have below : ∀ (q : Nat × Byte) (t : Mem), Mem.wf (q :: t) → ∀ r ∈ t, q.1 < r.1 := fun q t h r hr => (List.pairwise_cons.1 h.1).1 r hr
    have tl : ∀ (q : Nat × Byte) (t : Mem), Mem.wf (q :: t) → Mem.wf t := fun q t h => ⟨(List.pairwise_cons.1 h.1).2, fun r hr => h.2 r (by simp [hr])⟩
    cases m' with
    | nil => exact absurd (by simpa [readByte, tget] using (e p.1).symm) (h.2 p (by simp))
    | cons q u =>
      have hk : q.1 = p.1 := by
        rcases Nat.lt_trichotomy q.1 p.1 with l | l | l
        · have := e q.1
          have n : q.1 ≠ p.1 := by omega
          simp [readByte, tget, n, l] at this
          exact absurd this (h'.2 q (by simp))
        · exact l
        · have := e p.1
          have n : p.1 ≠ q.1 := by omega
          simp [readByte, tget, n, l] at this
          exact absurd this.symm (h.2 p (by simp))
      have hv : q.2 = p.2 := by have := e p.1; simpa [readByte, tget, hk] using this
      have hqp : q = p := Prod.ext hk hv
      subst hqp
      congr 1
      refine ih u (tl _ _ h) (tl _ _ h') (fun i => ?_)
      have := e i
      by_cases hi : i = q.1
      · subst hi
        show tget 0 u q.1 = tget 0 t q.1
        rw [tget_below _ (below _ _ h'), tget_below _ (below _ _ h)]
      · by_cases hl : i < q.1
        · show tget 0 u i = tget 0 t i
          rw [tget_below _ (fun r hr => Nat.lt_trans hl (below _ _ h' r hr)), tget_below _ (fun r hr => Nat.lt_trans hl (below _ _ h r hr))]
        · simpa [readByte, tget, hi, hl] using this

theorem quiet_fab {s : State} (h : s.fab = {}) : Quiet s := by rw [Quiet, h]; exact ⟨rfl, rfl, by simp⟩

/-- A module reset leaves what R421 states. -/
theorem mr_after {s u : State} (n : Nat) (he : u = moduleReset s n) : AfterModuleReset s (answer s u) n := by
  subst he
  constructor <;> first
    | exact answer_driven _ _
    | rfl
    | (refine ⟨?_, ?_, ?_, ?_, ?_, ?_⟩ <;> first | rfl | exact Nat.max_self _)
    | (refine ⟨?_, ?_, ?_, ?_, ?_, ?_, ?_, ?_, ?_⟩ <;> rfl)

theorem live_phase {s : State} (h : live s = true) : s.pwr.phase = .running := by unfold live at h; simpa using h

theorem forAll_updCore (P : State → Prop) (hP : ∀ s c f, P s → P (updCore s c f)) {α : Type} (l : List α) (g : α → Nat) (f : α → Core → Core) (s : State) (h : P s) :
    P (forAll l s (fun s a => updCore s (g a) (f a))) := forAll_keeps P l s _ h (fun s _ _ h => hP s _ _ h)

theorem foldl_keeps {α β γ : Type} (p : β → γ) (f : β → α → β) (hf : ∀ b a, p (f b a) = p b) (l : List α) (b : β) : p (l.foldl f b) = p b := by
  induction l generalizing b with
  | nil => rfl
  | cons a l ih => rw [List.foldl_cons, ih, hf]

theorem setSpare_mem (t : Tiers) (a b c : Nat) : (setSpare t a b c).mem = t.mem := rfl

theorem remapTo_mem (t : Tiers) (a b c d : Nat) : (remapTo t a b c d).mem = t.mem := by
  unfold remapTo
  show (if _ then t else markPb t _ 2).mem = t.mem
  split
  · rfl
  · unfold markPb; split <;> rfl

theorem cardRemap_mem (t : Tiers) (w : W64) : (cardRemap t w).mem = t.mem := by
  unfold cardRemap; simp only; split
  · exact remapTo_mem _ _ _ _ _
  · rfl

theorem cardTables_spec (s : State) : ∃ t : Tiers, cardTables s = { s with tiers := t } ∧ t.mem = s.tiers.mem := by
  let P (u : State) : Prop := ∃ t : Tiers, u = { s with tiers := t } ∧ t.mem = s.tiers.mem
  have add : ∀ u a b c d, P u → P (addSub u a b c d) := by
    rintro u a b c d ⟨t, rfl, hm⟩
    unfold addSub
    split
    · split
      · exact ⟨_, rfl, hm⟩
      · exact ⟨t, rfl, hm⟩
    · exact ⟨t, rfl, hm⟩
  unfold cardTables
  extract_lets m v
  have hv : P v := forAll_keeps P _ _ _ ⟨s.tiers, rfl, rfl⟩ (fun u w _ h => by
    split
    · exact add _ _ _ _ _ h
    · exact h)
  obtain ⟨t, e, hm⟩ := hv
  rw [e]
  exact ⟨_, rfl, (foldl_keeps (fun t : Tiers => t.mem) _ (fun b a => cardRemap_mem _ _) _ _).trans hm⟩

theorem sendMarker_calm (s : State) (ps : List Nat) (a b c d : Nat) : Calm s (sendMarker s ps a b c d) :=
  forAll_calm _ _ _ (fun s _ => sendControlAll_calm s _ _ _)

theorem raiseMarker_pwr (s : State) (a b c d : Nat) : (raiseMarker s a b c d).pwr = s.pwr := by
  unfold raiseMarker; exact (sendMarker_calm _ _ _ _ _ _).pwr

theorem sendThrottle_pwr (s : State) (v : BitVec 2) : (sendThrottle s v).pwr = s.pwr := by
  unfold sendThrottle; split
  · rfl
  · exact raiseMarker_pwr _ _ _ _ _

theorem throttleRequest_pwr (s : State) : (throttleRequest s).pwr = s.pwr := by
  unfold throttleRequest; simp only; split
  · rfl
  · split
    · exact sendThrottle_pwr _ _
    · rfl

theorem changeLevel_crit (s : State) (n : Nat) (h : bit s.pwr.status 5 = true) : bit (changeLevel s n).pwr.status 5 = true := by
  unfold changeLevel; simp only; split
  · exact h
  · exact orBit_mono _ _ _ h

theorem requestStretch_crit (s : State) (up : Bool) (h : bit s.pwr.status 5 = true) : bit (requestStretch s up).pwr.status 5 = true := by
  unfold requestStretch; split
  · exact h
  · unfold judge; simp only; split
    · split
      · exact changeLevel_crit _ _ h
      · rw [throttleRequest_pwr]; exact h
    · split
      · exact changeLevel_crit _ _ h
      · exact h

theorem ofInt_val (v : W32) : BitVec.ofInt 32 (v.toNat : Int) = v := by simp

theorem syncWrite_val {s : State} {rq : Requester} {c : CoreId} {o : Nat} {v : W32} (hc : enabledCore s c = true) (hw : mayWriteSync s rq c = true) (ho : o < 256)
    (hv : o < 128 → v.toNat ≤ 1) : syncWriteOp s rq c (0x1000 + 8 * o) v = effectAt s c 15 (clk s c) (.value v) o := by
  have e1 : (0x1000 + 8 * o - 0x1000) / 8 = o := by omega
  have e2 : (0x1000 + 8 * o) % 8 = 0 := by omega
  have e3 : (0x1000 + 8 * o) % 4 = 0 := by omega
  have e4 : isSyncWord (0x1000 + 8 * o) = true := by unfold isSyncWord; simp; omega
  have nf : ¬ (isFlag o = true ∧ 1 < v.toNat) := by
    rintro ⟨h1, h2⟩
    have := hv (of_decide_eq_true h1)
    omega
  unfold syncWriteOp
  simp only [hc, hw, e3, e4, decide_true, Bool.and_self, if_true, writeSync, e1, e2]
  rw [if_neg nf]

theorem syncWrite_thr {s : State} {rq : Requester} {c : CoreId} {o : Nat} {v : W32} (hc : enabledCore s c = true) (hw : mayWriteSync s rq c = true) (ho : o < 256)
    (hv : 128 ≤ o) : syncWriteOp s rq c (0x1004 + 8 * o) v = effectAt s c 15 (clk s c) (.threshold v) o := by
  have f1 : (0x1004 + 8 * o - 0x1000) / 8 = o := by omega
  have f2 : (0x1004 + 8 * o) % 8 ≠ 0 := by omega
  have f3 : (0x1004 + 8 * o) % 4 = 0 := by omega
  have f4 : isSyncWord (0x1004 + 8 * o) = true := by unfold isSyncWord; simp; omega
  have e5 : isFlag o = false := by unfold isFlag; simp; omega
  unfold syncWriteOp
  simp only [hc, hw, f3, f4, decide_true, Bool.and_self, if_true, writeSync, f1, f2, if_false, e5, Bool.false_eq_true]

theorem one_value {s : State} {c o : Nat} {v : W32} (hb : (coreAt s c).badSync.contains o = false) :
    applyEffs s c o [.value v] = updCore s c (fun x => setSync x o { syncAt x o with val := v }) := by
  unfold applyEffs
  have g5 : (v.toNat : Int) < 2 ^ 32 := by omega
  have g4 : (0 : Int) ≤ (v.toNat : Int) := by omega
  simp only [hb, Bool.false_eq_true, if_false, List.foldl, effVal, effThr, g4, g5, decide_true, Bool.and_self, if_true, ofInt_val]
  rfl

theorem one_threshold {s : State} {c o : Nat} {v : W32} (hb : (coreAt s c).badSync.contains o = false) :
    applyEffs s c o [.threshold v] = updCore s c (fun x => setSync x o { syncAt x o with thr := v }) := by
  unfold applyEffs
  have g5 : ((syncAt (coreAt s c) o).val.toNat : Int) < 2 ^ 32 := by omega
  have g4 : (0 : Int) ≤ ((syncAt (coreAt s c) o).val.toNat : Int) := by omega
  simp only [hb, Bool.false_eq_true, if_false, List.foldl, effVal, effThr, g4, g5, decide_true, Bool.and_self, if_true, ofInt_val]
  rfl

theorem meshFault_calm (s : State) (r code ctx low stat : Nat) (q : Quiet s) : Quiet (meshFault s r code ctx low stat) := by
  unfold meshFault
  exact (raise_calm _ _ _ _ _ _ _).quiet q

theorem takeLink_keeps (s : State) (r inp : Nat) (f : MeshFlit) :
    ∃ t, takeLink s r inp f = { s with routers := t } := by
  unfold takeLink
  split
  · exact ⟨_, rfl⟩
  · exact ⟨s.routers, rfl⟩

theorem takeLink_card (s : State) (r inp : Nat) (f : MeshFlit) : (takeLink s r inp f).card = s.card := by
  obtain ⟨t, e⟩ := takeLink_keeps s r inp f; rw [e]

theorem takeLink_now (s : State) (r inp : Nat) (f : MeshFlit) : (takeLink s r inp f).now = s.now := by
  obtain ⟨t, e⟩ := takeLink_keeps s r inp f; rw [e]

theorem takeLink_fab (s : State) (r inp : Nat) (f : MeshFlit) : (takeLink s r inp f).fab = s.fab := by
  obtain ⟨t, e⟩ := takeLink_keeps s r inp f; rw [e]

/-- A flit that a router takes goes through its tables. -/
theorem flit_comes {s u t : State} {r : RouterId} {inp : RPort} {f : MeshFlit} (hl : live s = true) (hr : routerExists s r = true)
    (hp : portLeads s r inp = true) (hm : 72 ≤ r.val ∨ meshStopped s = false) (hu : u = takeLink s r inp f)
    (e : routerReceive u r inp f = t) : exec (.flitReceive r inp f) s = .next (answer s (settle t)) := by
  refine done_settle hl (f := fun s => flitComes s r inp f) ?_
  show flitComes s r inp f = t
  unfold flitComes
  rw [if_neg, ← hu, e]
  simp only [hr, hp, Bool.not_true, Bool.false_eq_true, false_or, not_and]
  intro h
  rcases hm with h1 | h1
  · omega
  · simp [h1]

/-- An output that runs decides one nc. -/
theorem out_sends {s u t : State} {r : RouterId} {out : RPort} {k : Nat} (hl : live s = true) (hr : outRuns s r out = true)
    (hk : k = nextNc s r out) (hk2 : k < 2)
    (hu : u = (if s.tmp.working = true then updRouter s r (fun x => { x with decided := tset 0 x.decided out (4 * s.now + k + 1) }) else s))
    (e : (match reservedFor u r out (routerNc u r + k) with
    | none => sendFreeFlit u r out false
    | some (i, st) =>
      match weftReady u r out st k with
      | none => sendFreeFlit u r out true
      | some (f, j) =>
        if badEntry u r (1216 + 4096 * out.val + i) then
          parityFault (setRouter u r { routerAt u r with weft := (if clrBit f.pending out = 0 then (routerAt u r).weft.eraseIdx j
            else (routerAt u r).weft.modify j (fun g => { g with pending := clrBit f.pending out })) }) r (sideCtx f.flit.side) (1216 + 4096 * out.val + i)
        else if outRoom u r out f.flit then flitLeaves (setRouter u r { routerAt u r with weft := (if clrBit f.pending out = 0 then (routerAt u r).weft.eraseIdx j
            else (routerAt u r).weft.modify j (fun g => { g with pending := clrBit f.pending out })) }) r out f.flit
        else sendFreeFlit u r out true) = t) :
    exec (.routerOutputSend r out) s = .next (answer s (settle t)) := by
  refine done_settle hl (f := fun s => if routerExists s r then outputSend s r out else s) ?_
  show (if routerExists s r then outputSend s r out else s) = t
  have hx : routerExists s r = true := by
    unfold outRuns at hr
    simp only [Bool.and_eq_true] at hr
    exact hr.1.1
  rw [if_pos hx]
  unfold outputSend
  rw [if_neg (by simp [hr]; omega)]
  simp only [← hk, ← hu]
  exact e

/-- The conditions of R379, one by one. -/
theorem opp_ok (s : State) (b : Bool) (peer : OppPeer) : oppositionOk s b peer = true ↔
    (peer.sameOrder = true ∧ peer.sameResults = true ∧ peer.peerRoleFollow ≠ b ∧ portOpp (portAt s 15) = true ∧
        (portAt s 15).gen = 3 ∧ 2 ≤ (portAt s 15).st ∧ (portAt s 15).st ≤ 4 ∧ keepsCount s = true ∧
        ∀ k < 16, peer.digests.getD k 0 = ctxDigest s k) := by
  unfold oppositionOk
  simp only [Bool.and_eq_true, decide_eq_true_eq, bne_iff_ne, List.all_eq_true, List.mem_range, and_assoc]

theorem sendLog_spec (s : State) (c : Nat) : (sendLog s c).saf = s.saf ∧ (sendLog s c).ctxs = s.ctxs ∧ Calm s (sendLog s c) := by
  refine forAll_keeps (fun t => t.saf = s.saf ∧ t.ctxs = s.ctxs ∧ Calm s t) _ s _ ⟨rfl, rfl, Calm.refl s⟩ ?_
  intro u i _ h
  refine ⟨h.1, h.2.1, h.2.2.trans ?_⟩
  unfold sendOppose sendControl
  exact updPort_calm u 15 _

theorem ctxAt_of {s t : State} (h : t.ctxs = s.ctxs) (k : Nat) : ctxAt t k = ctxAt s k := by unfold ctxAt; rw [h]

/-- Raising a fault for each of a list of contexts, each alone. -/
theorem raiseEach (l : List Nat) (hl : ∀ k ∈ l, Used s k) (counts : List W64) (code : Nat) (g : Nat → Nat) :
    (Marked s (forAll l s (fun s k => raiseAt s code [k] counts 3 0 k (g k))) ∧
    Calm s (forAll l s (fun s k => raiseAt s code [k] counts 3 0 k (g k)))) ∧
    ∀ k ∈ l, ∀ n ∈ ctxCounts s k counts, ∃ m ∈ (ctxAt (forAll l s (fun s k => raiseAt s code [k] counts 3 0 k (g k))) k).marks, m.1 = n := by
  induction l generalizing s with
  | nil => exact ⟨⟨Marked.refl s, Calm.refl s⟩, fun k hk => by cases hk⟩
  | cons a l ih =>
    have ha : Used s a := hl a (by simp)
    have h1 := raiseAt_marks s code [a] (fun k hk => by rw [List.mem_singleton.1 hk]; exact ha) counts 3 0 a (g a)
    have hc := raiseAt_calm s code [a] counts 3 0 a (g a)
    have h2 := ih (s := raiseAt s code [a] counts 3 0 a (g a)) (fun k hk => h1.1.used k (hl k (by simp [hk])))
    refine ⟨⟨h1.1.trans h2.1.1, hc.trans h2.1.2⟩, fun k hk n hn => ?_⟩
    rcases List.mem_cons.1 hk with rfl | hk
    · obtain ⟨m, hm, e⟩ := h1.2.1 k (by simp) n hn
      exact ⟨m, h2.1.1.more k m hm, e⟩
    · exact h2.2 k hk n (by rw [ctxCounts_congr hc.tmp (h1.1.ran k)]; exact hn)

theorem lost_quiet {s t : State} {c code : Nat} {l : Nat} {h : Nat} (hc : c < 32) (q : Quiet s) : Quiet (lostFault s c code 3 l h) := by
  have L := lostFault_spec s c code 3 l h hc
  exact Quiet.of_eq q L.2.2.2.2.1 L.2.2.2.2.2.1 L.1.spared.msgs

theorem forAll_only {α : Type} [DecidableEq α] {l : List α} {s u : State} {f : State → α → State} {p : α} (hp : p ∈ l) (nd : l.Nodup)
    (h1 : ∀ a ∈ l, a ≠ p → f s a = s) (h2 : f s p = u) (h3 : ∀ a ∈ l, a ≠ p → f u a = u) : forAll l s f = u := by
  induction l with
  | nil => cases hp
  | cons a l ih =>
    show forAll l (f s a) f = u
    by_cases e : a = p
    · subst e
      rw [h2]
      exact forAll_same _ _ _ (fun b hb => h3 b (by simp [hb]) (fun e => (List.nodup_cons.1 nd).1 (e ▸ hb)))
    · rw [h1 a (by simp) e]
      refine ih ?_ (List.nodup_cons.1 nd).2 (fun b hb => h1 b (by simp [hb])) (fun b hb => h3 b (by simp [hb]))
      rcases List.mem_cons.1 hp with h | h
      · exact absurd h.symm e
      · exact h

end Sys2Proof.Machine
end

