-- ==== Sys2Proof/Laws/PerInstr.lean ====
section
/-! SUPPORT. Facts made per command, for the host's case split: `Opcode` says that a well-formed instruction word carries its row's opcode. -/

namespace Sys2Proof.Laws.Opcode

/-- A well-formed instruction word carries its row's opcode (Table 4.7, Table 4.21). -/
def Statement (i : Instr) : Prop := i.wf = true → ∀ w op, i.opcode? = some (w, op) → opcodeOf w = op

theorem of_wf (i : Instr) : Statement i := by
  intro h w op e
  have h1 := (Bool.and_eq_true _ _ ▸ h).1
  rw [e] at h1
  exact of_decide_eq_true h1

theorem tempoPulse x0 : Statement (.tempoPulse x0) := of_wf _
theorem tempoPulseMissing : Statement .tempoPulseMissing := of_wf _
theorem tempoHighTooLong : Statement .tempoHighTooLong := of_wf _
theorem tempoEdge : Statement .tempoEdge := of_wf _
theorem commitPoint : Statement .commitPoint := of_wf _
theorem periodicMarkerSend : Statement .periodicMarkerSend := of_wf _
theorem overrun : Statement .overrun := of_wf _
theorem markerReceive x0 x1 x2 x3 : Statement (.markerReceive x0 x1 x2 x3) := of_wf _
theorem stalemateTimeout x0 : Statement (.stalemateTimeout x0) := of_wf _
theorem stretchSpacingExpiry : Statement .stretchSpacingExpiry := of_wf _
theorem tempoResume x0 x1 : Statement (.tempoResume x0 x1) := of_wf _
theorem tempoEnable x0 x1 : Statement (.tempoEnable x0 x1) := of_wf _
theorem variantAnnounce x0 x1 : Statement (.variantAnnounce x0 x1) := of_wf _
theorem tmpCountLoRead x0 : Statement (.tmpCountLoRead x0) := of_wf _
theorem tmpSwitchCountLoRead x0 : Statement (.tmpSwitchCountLoRead x0) := of_wf _
theorem tmpClear x0 x1 : Statement (.tmpClear x0 x1) := of_wf _
theorem nop x0 x1 x2 : Statement (.nop x0 x1 x2) := of_wf _
theorem time x0 x1 x2 : Statement (.time x0 x1 x2) := of_wf _
theorem boundary x0 x1 x2 x3 : Statement (.boundary x0 x1 x2 x3) := of_wf _
theorem firstTempoPrefetch x0 : Statement (.firstTempoPrefetch x0) := of_wf _
theorem sync x0 x1 x2 : Statement (.sync x0 x1 x2) := of_wf _
theorem refill x0 x1 x2 : Statement (.refill x0 x1 x2) := of_wf _
theorem trd x0 x1 x2 : Statement (.trd x0 x1 x2) := of_wf _
theorem twr x0 x1 x2 : Statement (.twr x0 x1 x2) := of_wf _
theorem ldq x0 x1 x2 : Statement (.ldq x0 x1 x2) := of_wf _
theorem stq x0 x1 x2 : Statement (.stq x0 x1 x2) := of_wf _
theorem copy x0 x1 x2 : Statement (.copy x0 x1 x2) := of_wf _
theorem put x0 x1 x2 : Statement (.put x0 x1 x2) := of_wf _
theorem get x0 x1 x2 : Statement (.get x0 x1 x2) := of_wf _
theorem ladd x0 x1 x2 : Statement (.ladd x0 x1 x2) := of_wf _
theorem sput x0 x1 x2 : Statement (.sput x0 x1 x2) := of_wf _
theorem bar x0 x1 x2 : Statement (.bar x0 x1 x2) := of_wf _
theorem win x0 x1 x2 : Statement (.win x0 x1 x2) := of_wf _
theorem pass x0 x1 x2 : Statement (.pass x0 x1 x2) := of_wf _
theorem passRowResult x0 x1 x2 : Statement (.passRowResult x0 x1 x2) := of_wf _
theorem rampOutStep x0 x1 : Statement (.rampOutStep x0 x1) := of_wf _
theorem drain x0 x1 x2 : Statement (.drain x0 x1 x2) := of_wf _
theorem tcfg x0 x1 x2 : Statement (.tcfg x0 x1 x2) := of_wf _
theorem tile x0 x1 x2 : Statement (.tile x0 x1 x2) := of_wf _
theorem ew x0 x1 x2 : Statement (.ew x0 x1 x2) := of_wf _
theorem unitSignal x0 x1 : Statement (.unitSignal x0 x1) := of_wf _
theorem mrdl x0 x1 : Statement (.mrdl x0 x1) := of_wf _
theorem mwrl x0 x1 : Statement (.mwrl x0 x1) := of_wf _
theorem mclr x0 x1 : Statement (.mclr x0 x1) := of_wf _
theorem mcrc x0 x1 : Statement (.mcrc x0 x1) := of_wf _
theorem mtrb x0 x1 : Statement (.mtrb x0 x1) := of_wf _
theorem mtwb x0 x1 : Statement (.mtwb x0 x1) := of_wf _
theorem mmap x0 x1 : Statement (.mmap x0 x1) := of_wf _
theorem msig x0 x1 : Statement (.msig x0 x1) := of_wf _
theorem msyn x0 x1 : Statement (.msyn x0 x1) := of_wf _
theorem maintInsnComplete x0 : Statement (.maintInsnComplete x0) := of_wf _
theorem storeReread x0 x1 x2 x3 : Statement (.storeReread x0 x1 x2 x3) := of_wf _
theorem tierReread x0 x1 x2 x3 : Statement (.tierReread x0 x1 x2 x3) := of_wf _
theorem arrival x0 : Statement (.arrival x0) := of_wf _
theorem syncObjectWrite x0 x1 x2 x3 : Statement (.syncObjectWrite x0 x1 x2 x3) := of_wf _
theorem coreCntClear x0 x1 x2 : Statement (.coreCntClear x0 x1 x2) := of_wf _
theorem gatherFlush x0 x1 : Statement (.gatherFlush x0 x1) := of_wf _
theorem gatherIdleTimeout x0 x1 : Statement (.gatherIdleTimeout x0 x1) := of_wf _
theorem gatherFenceRequest x0 : Statement (.gatherFenceRequest x0) := of_wf _
theorem ringWriteResume x0 x1 : Statement (.ringWriteResume x0 x1) := of_wf _
theorem storeClearDone x0 : Statement (.storeClearDone x0) := of_wf _
theorem boundaryQueueOp x0 : Statement (.boundaryQueueOp x0) := of_wf _
theorem weakEntryExpiry x0 : Statement (.weakEntryExpiry x0) := of_wf _
theorem scrubRead x0 x1 : Statement (.scrubRead x0 x1) := of_wf _
theorem sliceSubstitutionAdd x0 x1 x2 x3 : Statement (.sliceSubstitutionAdd x0 x1 x2 x3) := of_wf _
theorem tirClear x0 x1 : Statement (.tirClear x0 x1) := of_wf _
theorem flitReceive x0 x1 x2 : Statement (.flitReceive x0 x1 x2) := of_wf _
theorem seamResult x0 x1 : Statement (.seamResult x0 x1) := of_wf _
theorem routerOutputSend x0 x1 : Statement (.routerOutputSend x0 x1) := of_wf _
theorem rtrCommit x0 x1 : Statement (.rtrCommit x0 x1) := of_wf _
theorem rtrClear x0 x1 : Statement (.rtrClear x0 x1) := of_wf _
theorem paritySweep x0 : Statement (.paritySweep x0) := of_wf _
theorem portTrainingDone x0 x1 x2 : Statement (.portTrainingDone x0 x1 x2) := of_wf _
theorem portGenMaxSet x0 x1 : Statement (.portGenMaxSet x0 x1) := of_wf _
theorem portEnableSet x0 x1 : Statement (.portEnableSet x0 x1) := of_wf _
theorem portOppositionSet x0 x1 : Statement (.portOppositionSet x0 x1) := of_wf _
theorem messageReceive x0 x1 : Statement (.messageReceive x0 x1) := of_wf _
theorem ackReceive x0 x1 x2 x3 : Statement (.ackReceive x0 x1 x2 x3) := of_wf _
theorem ackSendTimer x0 : Statement (.ackSendTimer x0) := of_wf _
theorem idleSendTimer x0 : Statement (.idleSendTimer x0) := of_wf _
theorem idleFlitReceive x0 : Statement (.idleFlitReceive x0) := of_wf _
theorem portSilenceTimeout x0 : Statement (.portSilenceTimeout x0) := of_wf _
theorem laneLockLoss x0 : Statement (.laneLockLoss x0) := of_wf _
theorem openingStart x0 x1 : Statement (.openingStart x0 x1) := of_wf _
theorem identResendTimer x0 : Statement (.identResendTimer x0) := of_wf _
theorem identReceive x0 x1 : Statement (.identReceive x0 x1) := of_wf _
theorem epochCommand x0 x1 : Statement (.epochCommand x0 x1) := of_wf _
theorem epochReceive x0 x1 x2 x3 : Statement (.epochReceive x0 x1 x2 x3) := of_wf _
theorem snapshotArm x0 x1 : Statement (.snapshotArm x0 x1) := of_wf _
theorem snapReceive x0 x1 x2 : Statement (.snapReceive x0 x1 x2) := of_wf _
theorem barrierReceive x0 x1 x2 x3 : Statement (.barrierReceive x0 x1 x2 x3) := of_wf _
theorem domainResetFlood x0 x1 : Statement (.domainResetFlood x0 x1) := of_wf _
theorem dresetReceive x0 x1 : Statement (.dresetReceive x0 x1) := of_wf _
theorem domainResetEntry : Statement .domainResetEntry := of_wf _
theorem replyReceive x0 x1 x2 x3 : Statement (.replyReceive x0 x1 x2 x3) := of_wf _
theorem messageTimeout x0 x1 : Statement (.messageTimeout x0 x1) := of_wf _
theorem portEgressSend x0 : Statement (.portEgressSend x0) := of_wf _
theorem legacyRequestReceive x0 x1 x2 x3 x4 : Statement (.legacyRequestReceive x0 x1 x2 x3 x4) := of_wf _
theorem fabRouteCommit x0 x1 : Statement (.fabRouteCommit x0 x1) := of_wf _
theorem fabClear x0 x1 : Statement (.fabClear x0 x1) := of_wf _
theorem opposeSigReceive x0 x1 : Statement (.opposeSigReceive x0 x1) := of_wf _
theorem opposeLogReceive x0 x1 : Statement (.opposeLogReceive x0 x1) := of_wf _
theorem mirrorReceive x0 x1 : Statement (.mirrorReceive x0 x1) := of_wf _
theorem verdictReceive x0 x1 : Statement (.verdictReceive x0 x1) := of_wf _
theorem admission x0 x1 x2 x3 : Statement (.admission x0 x1 x2 x3) := of_wf _
theorem cancel x0 x1 x2 x3 : Statement (.cancel x0 x1 x2 x3) := of_wf _
theorem patchLoad x0 x1 x2 x3 : Statement (.patchLoad x0 x1 x2 x3) := of_wf _
theorem patchDrop x0 x1 x2 x3 : Statement (.patchDrop x0 x1 x2 x3) := of_wf _
theorem patchImageVerified x0 x1 : Statement (.patchImageVerified x0 x1) := of_wf _
theorem promptReadComplete x0 x1 : Statement (.promptReadComplete x0 x1) := of_wf _
theorem selectionLaneStart x0 x1 : Statement (.selectionLaneStart x0 x1) := of_wf _
theorem selectionLaneDone x0 x1 : Statement (.selectionLaneDone x0 x1) := of_wf _
theorem groupDecision x0 x1 : Statement (.groupDecision x0 x1) := of_wf _
theorem tokenDoorbell x0 x1 x2 x3 : Statement (.tokenDoorbell x0 x1 x2 x3) := of_wf _
theorem shuttleOfferReceive x0 x1 x2 x3 x4 : Statement (.shuttleOfferReceive x0 x1 x2 x3 x4) := of_wf _
theorem shuttleGrantReceive x0 x1 x2 x3 : Statement (.shuttleGrantReceive x0 x1 x2 x3) := of_wf _
theorem shuttleStateRecordReceive x0 x1 x2 x3 x4 : Statement (.shuttleStateRecordReceive x0 x1 x2 x3 x4) := of_wf _
theorem shuttleAckReceive x0 x1 x2 x3 : Statement (.shuttleAckReceive x0 x1 x2 x3) := of_wf _
theorem shuttleTimeout x0 : Statement (.shuttleTimeout x0) := of_wf _
theorem srvGroupsWrite x0 x1 : Statement (.srvGroupsWrite x0 x1) := of_wf _
theorem srvClear x0 x1 : Statement (.srvClear x0 x1) := of_wf _
theorem hostNop x0 x1 x2 x3 : Statement (.hostNop x0 x1 x2 x3) := of_wf _
theorem wload x0 x1 x2 x3 : Statement (.wload x0 x1 x2 x3) := of_wf _
theorem wloadStart x0 : Statement (.wloadStart x0) := of_wf _
theorem loadVerifyComplete x0 x1 : Statement (.loadVerifyComplete x0 x1) := of_wf _
theorem rdout x0 x1 x2 x3 : Statement (.rdout x0 x1 x2 x3) := of_wf _
theorem hostcopy x0 x1 x2 x3 : Statement (.hostcopy x0 x1 x2 x3) := of_wf _
theorem hostCopyExpiry x0 : Statement (.hostCopyExpiry x0) := of_wf _
theorem boltLoad x0 x1 x2 x3 : Statement (.boltLoad x0 x1 x2 x3) := of_wf _
theorem run x0 x1 x2 x3 : Statement (.run x0 x1 x2 x3) := of_wf _
theorem stop x0 x1 x2 x3 : Statement (.stop x0 x1 x2 x3) := of_wf _
theorem sqTailDoorbell x0 x1 x2 x3 x4 : Statement (.sqTailDoorbell x0 x1 x2 x3 x4) := of_wf _
theorem cqHeadDoorbell x0 x1 x2 x3 x4 : Statement (.cqHeadDoorbell x0 x1 x2 x3 x4) := of_wf _
theorem eventHeadDoorbell x0 x1 x2 x3 : Statement (.eventHeadDoorbell x0 x1 x2 x3) := of_wf _
theorem msixSend x0 x1 : Statement (.msixSend x0 x1) := of_wf _
theorem contextBind x0 x1 : Statement (.contextBind x0 x1) := of_wf _
theorem partitionWrite x0 x1 : Statement (.partitionWrite x0 x1) := of_wf _
theorem forceStop x0 x1 : Statement (.forceStop x0 x1) := of_wf _
theorem queueEnable x0 x1 x2 : Statement (.queueEnable x0 x1 x2) := of_wf _
theorem hqClear x0 x1 : Statement (.hqClear x0 x1) := of_wf _
theorem traceModeRequest x0 x1 : Statement (.traceModeRequest x0 x1) := of_wf _
theorem functionLevelReset x0 : Statement (.functionLevelReset x0) := of_wf _
theorem pcieLinkDown x0 : Statement (.pcieLinkDown x0) := of_wf _
theorem pcieHotReset x0 : Statement (.pcieHotReset x0) := of_wf _
theorem perstAssert x0 : Statement (.perstAssert x0) := of_wf _
theorem perstDeassert x0 : Statement (.perstDeassert x0) := of_wf _
theorem serviceLoad x0 x1 x2 x3 : Statement (.serviceLoad x0 x1 x2 x3) := of_wf _
theorem serviceStore x0 x1 x2 x3 x4 : Statement (.serviceStore x0 x1 x2 x3 x4) := of_wf _
theorem serviceMessageSubmit x0 : Statement (.serviceMessageSubmit x0) := of_wf _
theorem faultReportHandling : Statement .faultReportHandling := of_wf _
theorem selfTestVisit x0 x1 : Statement (.selfTestVisit x0 x1) := of_wf _
theorem oppositionEnable x0 x1 x2 : Statement (.oppositionEnable x0 x1 x2) := of_wf _
theorem safOppFirstRead x0 : Statement (.safOppFirstRead x0) := of_wf _
theorem choiceRingEnable x0 x1 : Statement (.choiceRingEnable x0 x1) := of_wf _
theorem safClear x0 x1 : Statement (.safClear x0 x1) := of_wf _
theorem fwDeliver x0 x1 : Statement (.fwDeliver x0 x1) := of_wf _
theorem fwVerifyComplete x0 : Statement (.fwVerifyComplete x0) := of_wf _
theorem keySet x0 x1 x2 : Statement (.keySet x0 x1 x2) := of_wf _
theorem keyClear x0 x1 : Statement (.keyClear x0 x1) := of_wf _
theorem keyLock x0 x1 : Statement (.keyLock x0 x1) := of_wf _
theorem cardRead x0 x1 x2 : Statement (.cardRead x0 x1 x2) := of_wf _
theorem fwFloorWrite x0 x1 : Statement (.fwFloorWrite x0 x1) := of_wf _
theorem getVersion x0 x1 : Statement (.getVersion x0 x1) := of_wf _
theorem getCapabilities x0 x1 : Statement (.getCapabilities x0 x1) := of_wf _
theorem negotiateAlgorithms x0 x1 : Statement (.negotiateAlgorithms x0 x1) := of_wf _
theorem getDigests x0 x1 : Statement (.getDigests x0 x1) := of_wf _
theorem getCertificate x0 x1 : Statement (.getCertificate x0 x1) := of_wf _
theorem challenge x0 x1 : Statement (.challenge x0 x1) := of_wf _
theorem getMeasurements x0 x1 : Statement (.getMeasurements x0 x1) := of_wf _
theorem clusterClearStart x0 : Statement (.clusterClearStart x0) := of_wf _
theorem clusterClearDone x0 : Statement (.clusterClearDone x0) := of_wf _
theorem clearWriteTimeout x0 : Statement (.clearWriteTimeout x0) := of_wf _
theorem powerUp : Statement .powerUp := of_wf _
theorem powerDown : Statement .powerDown := of_wf _
theorem resetRelease x0 : Statement (.resetRelease x0) := of_wf _
theorem vinUndervoltage : Statement .vinUndervoltage := of_wf _
theorem vinOvervoltage : Statement .vinOvervoltage := of_wf _
theorem rclkLoss : Statement .rclkLoss := of_wf _
theorem modRstAssert : Statement .modRstAssert := of_wf _
theorem modRstDeassert : Statement .modRstDeassert := of_wf _
theorem stewardReset x0 x1 : Statement (.stewardReset x0 x1) := of_wf _
theorem sensorSample x0 x1 x2 : Statement (.sensorSample x0 x1 x2) := of_wf _
theorem clusterWakeStart x0 : Statement (.clusterWakeStart x0) := of_wf _
theorem clusterWakeReady x0 : Statement (.clusterWakeReady x0) := of_wf _
theorem wakeTimerArm x0 x1 : Statement (.wakeTimerArm x0 x1) := of_wf _
theorem wakeTimerFire x0 : Statement (.wakeTimerFire x0) := of_wf _
theorem portIdleTimeout x0 : Statement (.portIdleTimeout x0) := of_wf _
theorem portWake x0 : Statement (.portWake x0) := of_wf _
theorem pwrClear x0 x1 : Statement (.pwrClear x0 x1) := of_wf _
theorem registerWrite x0 x1 x2 : Statement (.registerWrite x0 x1 x2) := of_wf _
theorem latentLate : Statement .latentLate := of_wf _
theorem pcieLinkUp x0 x1 x2 x3 : Statement (.pcieLinkUp x0 x1 x2 x3) := of_wf _
theorem vinWarning x0 : Statement (.vinWarning x0) := of_wf _

end Sys2Proof.Laws.Opcode
end

