-- ==== Sys2Proof/Laws/Pulse.lean ====
section
/-! SUPPORT. Lemmas on pulses, markers and the choice of the best candidate. -/

namespace Sys2Proof.Machine

theorem counts_cases {s : State} (h : countsPulses s = true) :
    live s = true ∧ bit s.tmp.ctrl 0 = true ∧ s.tmp.haveCount = true ∧ s.fab.epochDue = false ∧ s.fab.epochKept = none ∧
    s.tmp.keptMarker = none := by
  simp [countsPulses] at h; obtain ⟨⟨⟨⟨⟨a, b⟩, c⟩, d⟩, e⟩, f⟩ := h; exact ⟨a, b, c, d, e, f⟩

theorem startDeferred_none {s : State} (h : s.pwr.deferred = 0) : startDeferred s = s := by
  unfold startDeferred
  rw [List.filter_eq_nil_iff.2]
  · rfl
  · intro a _; rw [h]; simp [bit]

theorem window_bad {s : State} {r : Nat} (h : inWindow s r = true) :
    (s.tmp.expect && (decide (r + 1 < periodRclk s) || decide (periodRclk s + 1 < r))) = false := by
  cases he : s.tmp.expect <;> simp [inWindow, he] at h ⊢
  omega

theorem window_bad' {s : State} {r : Nat} (h : inWindow s r = false) :
    (s.tmp.expect && (decide (r + 1 < periodRclk s) || decide (periodRclk s + 1 < r))) = true := by
  cases he : s.tmp.expect <;> simp [inWindow, he] at h ⊢
  omega

theorem pulse_good {s : State} {r : Nat} (hc : countsPulses s = true) (hw : inWindow s r = true) :
    pulse s r = takePulse { s with
      now := max s.now (pulseTime s r)
      tmp := { s.tmp with pulseSeen := true, expect := true, pulseAt := pulseTime s r, count := s.tmp.count + 1 } } := by
  obtain ⟨_, h1, h2, h3, h4, h5⟩ := counts_cases hc
  unfold pulse
  simp only [h1, window_bad hw, countPulse, updTmp, h2, h3, h4, h5, Bool.not_true, if_true, Bool.false_eq_true, if_false, pulseTime]

theorem sendMarker_spec (s : State) (ps : List Nat) (c k v w : Nat) :
    Calm s (sendMarker s ps c k v w) ∧ (sendMarker s ps c k v w).ctxs = s.ctxs ∧ (sendMarker s ps c k v w).saf = s.saf := by
  refine ⟨forAll_calm _ _ _ (fun u _ => sendControlAll_calm _ _ _ _), ?_⟩
  exact forAll_keeps (fun t => t.ctxs = s.ctxs ∧ t.saf = s.saf) _ s _ ⟨rfl, rfl⟩ (fun u _ _ h =>
    ⟨(sendControlAll_ctxs u _ _ _).1.trans h.1, (sendControlAll_ctxs u _ _ _).2.trans h.2⟩)

theorem forward_spec (s : State) (p : Nat) (m : BitVec 256) (v : State) (hv : v = forwardMarker s p m) :
    (∃ l, v.tmp = { s.tmp with forwarded := l }) ∧ Spared s v ∧ v.ctxs = s.ctxs ∧ v.saf = s.saf ∧
    v.fab.due = s.fab.due ∧ v.fab.ended = s.fab.ended := by
  unfold forwardMarker at hv
  extract_lets key at hv
  split at hv
  · subst hv; exact ⟨⟨_, rfl⟩, by constructor <;> rfl, rfl, rfl, rfl, rfl⟩
  · have c := sendMarker_spec (updTmp s (fun t => { t with forwarded := key :: t.forwarded })) ((markerPorts s).filter (fun q => decide (q ≠ p)))
      (mkCount m).toNat (mkKind m) (mkVariant m).toNat (mkSwitch m)
    rw [← hv] at c
    refine ⟨⟨_, c.1.tmp⟩, Spared.trans (by constructor <;> rfl) c.1.spared, c.2.1, c.2.2, c.1.due, c.1.ended⟩

theorem good_copy {s : State} {p : Nat} {m : BitVec 256} (hb : bit s.tmp.ctrl 0 = true) (hp : p ∈ markerPorts s) (hf : mkFormed m = true)
    (hc : s.tmp.copiesUsed.contains (p, (mkCount m).toNat, bits m 64 128) = false) :
    markerArrive s p true m =
      let u := updTmp s (fun t => { t with copiesUsed := (p, (mkCount m).toNat, bits m 64 128) :: t.copiesUsed })
      match mkKind m with
      | 0 => periodicArrive u p m
      | 1 => overrunArrive (forwardMarker u p m) p (mkCount m).toNat
      | 2 => throttleArrive (forwardMarker u p m) p (mkCount m).toNat (mkVariant m)
      | _ => announceArrive (forwardMarker u p m) p (mkSwitch m) (mkVariant m) := by
  unfold markerArrive
  simp only [hb, hp, hc, hf, Bool.not_true, Bool.false_eq_true, or_self, not_true, if_false]
  all_goals rfl

theorem canFollow_congr {s t : State} (v : Nat) (h1 : t.tmp.throttleCfg = s.tmp.throttleCfg) (h2 : t.ctxs = s.ctxs) : canFollow t v = canFollow s v := by
  unfold canFollow variantMax variantCompiled loadedCtxs ctxAt
  rw [h1, h2]

theorem better_left {a b : Option (Int × Nat)} {x : Int × Nat} (h : better a b = some x) : (a = some x ∨ b = some x) ∧
    (∀ y, a = some y → y.1 ≤ x.1 ∧ (y.1 = x.1 → x.2 ≤ y.2)) ∧ (∀ y, b = some y → y.1 ≤ x.1 ∧ (y.1 = x.1 → x.2 ≤ y.2)) := by
  cases a with
  | none =>
    cases b with
    | none => simp [better] at h
    | some b => simp only [better, Option.some.injEq] at h; subst h; simp
  | some a =>
    cases b with
    | none => simp only [better, Option.some.injEq] at h; subst h; simp
    | some b =>
      simp only [better] at h
      split at h <;> simp only [Option.some.injEq] at h <;> subst h
      · refine ⟨Or.inr rfl, fun y e => ?_, fun y e => ?_⟩ <;> simp only [Option.some.injEq] at e <;> subst e <;> omega
      · refine ⟨Or.inl rfl, fun y e => ?_, fun y e => ?_⟩ <;> simp only [Option.some.injEq] at e <;> subst e <;> omega

/-- The best candidate of a line is at least as good as every other and is one of them. -/
theorem lineBest_spec (f : Nat → Int) (base vocab : Nat) (l : List Nat) (b : Option (Int × Nat)) (x : Int × Nat)
    (h : l.foldl (fun b i => if base + i < vocab then better b (some (f i, base + i)) else b) b = some x) :
    (∀ i ∈ l, base + i < vocab → f i ≤ x.1 ∧ (f i = x.1 → x.2 ≤ base + i)) ∧ (∀ y, b = some y → y.1 ≤ x.1 ∧ (y.1 = x.1 → x.2 ≤ y.2)) ∧
    (b = some x ∨ ∃ i ∈ l, base + i < vocab ∧ x.2 = base + i ∧ f i = x.1) := by
  induction l generalizing b with
  | nil =>
    simp only [List.foldl_nil] at h
    refine ⟨fun i hi _ => absurd hi List.not_mem_nil, fun y hy => ?_, Or.inl h⟩
    rw [h] at hy; simp only [Option.some.injEq] at hy; subst hy; simp
  | cons a l ih =>
    rw [List.foldl_cons] at h
    obtain ⟨h1, h2, h3⟩ := ih _ h
    by_cases hv : base + a < vocab
    · simp only [hv, if_true] at h2 h3
      have hs : ∃ z, better b (some (f a, base + a)) = some z := by
        cases b with
        | none => exact ⟨_, rfl⟩
        | some b => simp only [better]; split <;> exact ⟨_, rfl⟩
      obtain ⟨z, hz⟩ := hs
      obtain ⟨q1, q2, q3⟩ := better_left hz
      have hzx := h2 z hz
      refine ⟨fun i hi hb => ?_, fun y hy => ?_, ?_⟩
      · rcases List.mem_cons.1 hi with rfl | hi
        · have := q3 _ rfl
          simp only at this
          constructor
          · omega
          · intro e; have := hzx.2 (by omega); omega
        · exact h1 i hi hb
      · have := q2 y hy
        constructor
        · omega
        · intro e; have := hzx.2 (by omega); omega
      · rcases h3 with h3 | ⟨i, hi, hh⟩
        · rw [hz] at h3; simp only [Option.some.injEq] at h3; subst h3
          rcases q1 with q | q
          · exact Or.inl q
          · simp only [Option.some.injEq] at q
            exact Or.inr ⟨a, by simp, hv, by rw [← q], by rw [← q]⟩
        · exact Or.inr ⟨i, by simp [hi], hh⟩
    · simp only [hv, if_false] at h2 h3
      refine ⟨fun i hi hb => ?_, h2, ?_⟩
      · rcases List.mem_cons.1 hi with rfl | hi
        · exact absurd hb hv
        · exact h1 i hi hb
      · rcases h3 with h3 | ⟨i, hi, hh⟩
        · exact Or.inl h3
        · exact Or.inr ⟨i, by simp [hi], hh⟩

end Sys2Proof.Machine
end

