-- ==== Sys2Proof/Laws/Steps.lean ====
section
/-! SUPPORT. Lemmas on what a whole group of commands answers: streams, the maintenance port, sequenced flits, submission rings, the mailbox and attestation. -/

namespace Sys2Proof.Machine

theorem mustBe_true : mustBe true = .ok := rfl

theorem and_ok (a : Check) : Check.and .ok a = a := rfl

/-- A stream instruction answers what its core makes of its word. -/
theorem stream_shape (s : State) (i : Instr) (c : CoreId) (st : Stream) (w : W128) (op : Nat) (plan : State → Nat → Plan)
    (h : streamCmd i = some (c, st, w, op, plan)) : ∃ m, exec i s = done s (fun s => onCore op s c st w plan m) := by
  have key : ∀ (c' : CoreId) (st' : Stream) (w' : W128) (op' : Nat) (plan' : State → Nat → Plan) (m : State → State),
      exec i s = done s (fun s => onCore op' s c' st' w' plan' m) → some (c', st', w', op', plan') = some (c, st, w, op, plan) →
      ∃ m, exec i s = done s (fun s => onCore op s c st w plan m) := by
    intro c' st' w' op' plan' m h1 h2
    simp only [Option.some.injEq, Prod.mk.injEq] at h2
    obtain ⟨rfl, rfl, rfl, rfl, rfl⟩ := h2
    exact ⟨m, h1⟩
  unfold streamCmd at h
  split at h
  all_goals first
    | (exact key _ _ _ _ _ _ rfl h)
    | cases h

/-- What the checks of an instruction word say of it (R117). -/
def wordCheck (x : Core) (st : Stream) (op : Nat) (w : W128) (k : Check) : Check := (mustBe (decide (wOp w = op) && !(badWord x st))).and k

theorem onCore_runs {s u : State} {c : CoreId} {st : Stream} {t : Nat} (h : AtIssue s c st t) (hu : u = catchUp s t)
    (hg : u.lock.gated = true ∨ t ≤ lockTrc u) (op : Nat) (w : W128) (plan : State → Nat → Plan)
    (m : State → State) : onCore op s c st w plan m =
      issueStream u c st w { plan u t with check := wordCheck (coreAt s c) st op w (plan u t).check } := by
  obtain ⟨_, h1, h2, h3, h4⟩ := h
  unfold onCore wordCheck
  have h5 : ¬ (u.lock.gated = false ∧ lockTrc u < t) := by
    rintro ⟨a, b⟩
    rcases hg with hg | hg
    · rw [a] at hg; cases hg
    · omega
  simp only [h1, h2, h3, Bool.not_true, Bool.false_eq_true, if_false, if_true, ← h4, ← hu]
  rw [if_neg h5]

theorem wordCheck_ok {x : Core} {st : Stream} {op : Nat} {w : W128} {k : Check} (h1 : wOp w = op) (h2 : badWord x st = false) : wordCheck x st op w k = k := by
  unfold wordCheck; simp only [h1, h2, decide_true, Bool.not_false, Bool.and_self]; rfl

theorem wordCheck_bad {x : Core} {st : Stream} {op : Nat} {w : W128} {k : Check} (h : wOp w ≠ op ∨ badWord x st = true ∨ k = .malformed) :
    wordCheck x st op w k = .malformed := by
  unfold wordCheck
  rcases h with h | h | h
  · simp only [h, decide_false, Bool.false_and]; rfl
  · simp only [h, Bool.not_true, Bool.and_false]; rfl
  · rw [h]; unfold mustBe; split <;> rfl

theorem streamOf_setStream (x : Core) (st : Stream) (v : StreamSt) : streamOf (setStream x st v) st = v := by cases st <;> rfl

theorem setStream_setStream (x : Core) (st : Stream) (v w : StreamSt) : setStream (setStream x st v) st w = setStream x st w := by cases st <;> rfl

theorem setStream_maint (x : Core) (st : Stream) (v : StreamSt) : (setStream x st v).maint = x.maint := by cases st <;> rfl

theorem advance_mid {s : State} {c : Nat} {st : Stream} {w : W128} {next : Nat} {x : Core} {v : StreamSt} (hx : coreAt s c = x) (hm : x.maint = false)
    (hv : streamOf x st = v) (h1 : v.index % 64 ≠ 0) (h2 : v.index + 1 < v.len ∨ v.done = true) :
    advance s c st w next = setCore s c (setStream x st { v with held := none, dev := false, index := v.index + 1, sched := next }) := by
  have hm' : ∀ u, (setStream x st u).maint = false := fun u => (setStream_maint x st u).trans hm
  unfold advance
  rw [hx]
  simp only [hv, h1, false_and, if_false]
  have e : updStream s c st (fun u => { u with held := none, dev := false, index := v.index + 1, sched := next }) =
      setCore s c (setStream x st { v with held := none, dev := false, index := v.index + 1, sched := next }) := by
    subst hv hx; rfl
  rw [e, coreAt_setCore (hm' _), streamOf_setStream, if_neg]
  rintro ⟨h3, h4⟩
  rcases h2 with h2 | h2
  · omega
  · simp [h2] at h4

theorem waits_always {x : Core} {w : W128} (h : wCond w = 0) : waitHolds x w = true ∧ consume x w = x := by
  refine ⟨?_, ?_⟩
  · unfold waitHolds; rw [h]; rfl
  · unfold consume; rw [h]; split <;> rfl

theorem int64_all {r : PassRow} (h2 : ∀ v ∈ r.sums, int64Ok v = true) : (r.sums.zipIdx.filter (fun p => !(int64Ok p.1))) = [] := by
  rw [List.filter_eq_nil_iff]
  intro p hp
  have : p.1 ∈ r.sums := (List.mem_zipIdx' hp).2 ▸ List.getElem_mem _
  simp [h2 p.1 this]

theorem forAll_zeros {α : Type} (f : State → α × Nat → State) (l : List α) (k : Nat) (s : State) (h : ∀ s a n, a ∈ l → f s (a, n) = s) :
    forAll (l.zipIdx k) s f = s := by
  induction l generalizing k s with
  | nil => rfl
  | cons a l ih =>
    rw [List.zipIdx_cons]
    show forAll (l.zipIdx (k + 1)) (f s (a, k)) f = s
    rw [h s a k (by simp)]
    exact ih _ _ (fun s b n hb => h s b n (by simp [hb]))

theorem effectsEnd_one {z : State} {c : Nat} {y : Core} {due rank : Nat} {eff : SyncEff} {o : Nat} (hz : coreAt z c = y)
    (hs : y.sigs = [⟨16 * due + rank, eff, o⟩]) (ha : y.arrivals = []) (hr : rank < 16) :
    effectsEnd due z c = applyEffs (setCore z c { y with sigs := [] }) c o [eff] := by
  have d : (16 * due + rank) / 16 = due := by omega
  unfold effectsEnd
  simp only [hz, hs, ha, List.isEmpty_cons, Bool.false_and, Bool.false_eq_true, if_false, List.takeWhile, d, Nat.le_refl, decide_true,
      List.length_cons, List.length_nil, List.drop_succ_cons, List.take_nil, List.drop_nil, List.map_cons, List.map_nil, List.append_nil]
  have e3 : ({ y with sigs := [], arrivals := [] } : Core) = { y with sigs := [] } := by rw [← ha]
  rw [e3]
  unfold applyAll
  simp [forAll]

/-- A maintenance instruction answers what its port makes of its word. -/
theorem maint_shape (s : State) (i : Instr) (c : CoreId) (w : W128) (op : Nat) (act : State → State)
    (h : maintCmd i = some (c, w, op, act)) : exec i s = plain s (fun s => atPort op s c w act) := by
  have key : ∀ (c' : CoreId) (w' : W128) (op' : Nat) (act' : State → State),
      exec i s = plain s (fun s => atPort op' s c' w' act') → some (c', w', op', act') = some (c, w, op, act) →
      exec i s = plain s (fun s => atPort op s c w act) := by
    intro c' w' op' act' h1 h2
    simp only [Option.some.injEq, Prod.mk.injEq] at h2
    obtain ⟨rfl, rfl, rfl, rfl⟩ := h2
    exact h1
  unfold maintCmd at h
  split at h
  all_goals first
    | (exact key _ _ _ _ rfl h)
    | cases h

theorem maint_op (i : Instr) (c : CoreId) (w : W128) (op : Nat) (act : State → State)
    (h : maintCmd i = some (c, w, op, act)) : 0xE0 ≤ op ∧ op ≤ 0xE8 := by
  unfold maintCmd at h
  split at h
  all_goals first
    | (simp only [Option.some.injEq, Prod.mk.injEq] at h; obtain ⟨_, _, rfl, _⟩ := h; decide)
    | cases h

theorem maint_run {s : State} {c : CoreId} {w : W128} {op : Nat} (hp : AtPort s c) (ho : wOp w = op) (h1 : 0xE0 ≤ op ∧ op ≤ 0xE8)
    (hz : bits w 104 24 = 0) (act : State → State) : atPort op s c w act = act s := by
  obtain ⟨h0, h2, h3, h4, h5⟩ := hp
  unfold atPort maintPort
  simp only [h2, h3, h4, h5, ho, hz, h1, if_true, Bool.not_true, Bool.false_eq_true, if_false, Option.isSome_none, ne_eq, not_true, false_or,
    decide_true, Bool.and_self, Bool.or_true]

/-- A sequenced flit answers what its port receives. -/
theorem link_shape (s : State) (i : Instr) (p : PortId) (q : BitVec 12) (ok : Bool) (it : RxItem)
    (h : linkCmd i = some (p, q, ok, it)) : exec i s = done s (fun s => opposeDrain (linkRx s p q ok it)) := by
  have key : ∀ (p' : PortId) (q' : BitVec 12) (ok' : Bool) (it' : RxItem),
      exec i s = done s (fun s => opposeDrain (linkRx s p' q' ok' it')) → some (p', q', ok', it') = some (p, q, ok, it) →
      exec i s = done s (fun s => opposeDrain (linkRx s p q ok it)) := by
    intro p' q' ok' it' h1 h2
    simp only [Option.some.injEq, Prod.mk.injEq] at h2
    obtain ⟨rfl, rfl, rfl, rfl⟩ := h2
    exact h1
  unfold linkCmd at h
  split at h
  case h_1 p' f =>
    split at h
    · rename_i ht
      refine key _ _ _ _ ?_ h
      show received s (fun s => flitArrive s p' f) = _
      unfold received flitArrive
      simp only [ht, if_true]
    · cases h
  all_goals first
    | (exact key _ _ _ _ rfl h)
    | cases h

theorem finOf (p : PortId) : Fin.ofNat 16 p.val = p := by ext; exact Nat.mod_eq_of_lt p.isLt

theorem updPort_set (s : State) (p : Nat) (f : Port → Port) : updPort s p f = setPort s p (f (portAt s p)) := rfl

/-- A flit that comes next in sequence is delivered, and nothing else happens at its port. -/
theorem next_flit {s : State} {p : PortId} {q : BitVec 12} {it : RxItem} (h : TakesNext s p q) (hd : ∀ f, it ≠ .data f)
    (u : State) (hu : u = deliverItem (flitTaken s p) p it) (hr : (portAt u p).reorder = []) (hk : (portAt u p).unacked < 64) :
    linkRx s p q true it = u := by
  obtain ⟨ht, hg, hq, _, _, _⟩ := h
  unfold linkRx
  have hc : ¬ ((portAt s p).st < 2 ∨ 5 < (portAt s p).st ∨ (portAt s p).gen ≠ 3) := by
    unfold trained at ht; rintro (a | a | a); omega; omega; exact a hg
  have h0 : gapSeq q (portAt s p).rxSeq = 0 := by rw [hq]; unfold gapSeq; simp
  have ht : takeItem (portAt s p) it = { portAt s p with rxSeq := (portAt s p).rxSeq + 1, unacked := (portAt s p).unacked + 1 } := by
    unfold takeItem
    cases it with
    | data f => exact absurd rfl (hd f)
    | _ => rfl
  simp only [hc, if_false, Bool.not_true, Bool.false_eq_true, h0, if_true, ht]
  have e : deliverItem (setPort s p { portAt s p with rxSeq := (portAt s p).rxSeq + 1, unacked := (portAt s p).unacked + 1 }) p it = u := by rw [hu]; rfl
  rw [e]
  unfold drainReorder
  simp only [hr, List.find?_nil]
  unfold ackIfDue
  rw [if_neg (by omega)]

theorem taken_port (s : State) (p : PortId) :
    portAt (flitTaken s p) p = { portAt s p with rxSeq := (portAt s p).rxSeq + 1, unacked := (portAt s p).unacked + 1 } := by
  refine (tget_tset_ne _ _ _ _ _ ?_).trans (if_pos rfl)
  intro h
  have := congrArg Port.unacked h
  exact absurd this (Nat.succ_ne_zero _)

/-- A REPLY flit that comes next in sequence answers its message. -/
theorem reply_next {s : State} {p : PortId} {rx : LinkRx} {r : ReplyRx} {d : List Byte} (hl : live s = true) (hn : TakesNext s p rx.seq)
    (hg : controlGood rx 9 (BitVec.ofNat 12 (gaChip r.saddr)) (replyPayload r.msgid r.status r.saddr) = true) (u : State)
    (hu : u = (if ownModule s (gaChip r.saddr) = true then replyTo (flitTaken s p) ⟨r.saddr, r.msgid, r.status, 0⟩
          else settleOne (flitTaken s p) ⟨r.saddr, r.msgid, r.status, 0⟩))
    (h1 : (portAt u p).reorder = []) (h2 : (portAt u p).unacked < 64) (h3 : u.fab.oppRx = []) :
    exec (.replyReceive p rx r d) s = .next (answer s (settle u)) := by
  refine done_settle hl (f := fun s => opposeDrain (if (portAt s p).gen = 3 then
      controlArrive s p rx 9 (BitVec.ofNat 12 (gaChip r.saddr)) (replyPayload r.msgid r.status r.saddr) (.reply r.saddr r.msgid r.status)
      else legacyReply s p r d)) ?_
  show opposeDrain (if (portAt s p).gen = 3 then _ else legacyReply s p r d) = u
  rw [if_pos hn.2.1]
  unfold controlArrive
  have hg' : decide (linkCrc 9 rx.seq (BitVec.ofNat 12 (gaChip r.saddr)) 0 (BitVec.ofNat 2048 (replyPayload r.msgid r.status r.saddr)) = rx.crc) = true := hg
  rw [hg', next_flit (it := .reply r.saddr r.msgid r.status) hn (fun f h => by cases h) u hu h1 h2]
  unfold opposeDrain
  rw [h3]
  simp only [List.foldl_nil, updFab]
  rw [← h3]

/-- An OPPOSE flit that comes next in sequence acts by its kind. -/
theorem oppose_next {s : State} {p : PortId} {o : OpposeRx} {i : Instr}
    (hi : i = .opposeSigReceive p o ∨ i = .opposeLogReceive p o ∨ i = .mirrorReceive p o ∨ i = .verdictReceive p o) (hl : live s = true)
    (hn : TakesNext s p o.rx.seq) (hg : controlGood o.rx 0xA 0 o.frame.toNat = true) :
    exec i s = .next (answer s (settle (opposeArrive (flitTaken s p) p o.frame))) := by
  have key : done s (fun s => opposeDrain (controlArrive s p o.rx 0xA 0 o.frame.toNat (.oppose o.frame))) =
      .next (answer s (settle (opposeArrive (flitTaken s p) p o.frame))) := by
    refine done_settle hl (f := fun s => opposeDrain (controlArrive s p o.rx 0xA 0 o.frame.toNat (.oppose o.frame))) ?_
    show opposeDrain (controlArrive s p o.rx 0xA 0 o.frame.toNat (.oppose o.frame)) = _
    unfold controlArrive
    have hg' : decide (linkCrc 0xA o.rx.seq 0 0 (BitVec.ofNat 2048 o.frame.toNat) = o.rx.crc) = true := hg
    obtain ⟨_, _, _, hr, hu, hopp⟩ := id hn
    obtain ⟨u, hu'⟩ : ∃ u, u = deliverItem (flitTaken s p) p (.oppose o.frame) := ⟨_, rfl⟩
    have hpu : portAt u p = portAt (flitTaken s p) p := by rw [hu']; rfl
    rw [hg', next_flit (it := .oppose o.frame) hn (fun f h => by cases h) u hu' (by rw [hpu, taken_port]; exact hr)
      (by rw [hpu, taken_port]; exact Nat.lt_of_lt_of_le (Nat.succ_lt_succ hu) (by decide))]
    unfold opposeDrain
    have e1 : u.fab.oppRx = [(p, o.frame)] := by
      rw [hu']
      show s.fab.oppRx ++ [(Fin.ofNat 16 p.val, o.frame)] = _
      rw [hopp]
      have : Fin.ofNat 16 p.val = p := by ext; exact Nat.mod_eq_of_lt p.isLt
      rw [this]; rfl
    have e2 : updFab u (fun x => { x with oppRx := [] }) = flitTaken s p := by
      rw [hu']
      have : (flitTaken s p).fab.oppRx = [] := hopp
      generalize flitTaken s p = v at this ⊢
      show updFab (updFab v (fun x => { x with oppRx := x.oppRx ++ [(Fin.ofNat 16 p.val, o.frame)] })) (fun x => { x with oppRx := [] }) = v
      unfold updFab
      dsimp only
      rw [← this]
    rw [e1, e2]
    rfl
  rcases hi with rfl | rfl | rfl | rfl <;> exact key

/-- A command of a submission ring answers what its acceptance does. -/
theorem ring_shape (s : State) (i : Instr) (fn : FnId) (q : Fin 4) (hdr : BitVec 512) (op : Nat) (ok : Bool) (run : State → Nat → State)
    (h : ringCmd i = some (fn, q, hdr, op, ok, run)) : exec i s = done s (fun s => hostCmd s fn q hdr op ok run) := by
  have key : ∀ (fn' : FnId) (q' : Fin 4) (hdr' : BitVec 512) (op' : Nat) (ok' : Bool) (run' : State → Nat → State),
      exec i s = done s (fun s => hostCmd s fn' q' hdr' op' ok' run') → some (fn', q', hdr', op', ok', run') = some (fn, q, hdr, op, ok, run) →
      exec i s = done s (fun s => hostCmd s fn q hdr op ok run) := by
    intro fn' q' hdr' op' ok' run' h1 h2
    simp only [Option.some.injEq, Prod.mk.injEq] at h2
    obtain ⟨rfl, rfl, rfl, rfl, rfl, rfl⟩ := h2
    exact h1
  unfold ringCmd at h
  split at h
  all_goals first
    | (exact key _ _ _ _ _ _ rfl h)
    | cases h

/-- A mailbox command answers what its start lets through. -/
theorem mail_shape (s : State) (i : Instr) (f : FnId) (cmd : W32) (op : Nat) (run : State → State) (h : mailCmd i = some (f, cmd, op, run)) :
    ∃ g : State → State, exec i s = plain s (fun s => mbStart s f cmd g) ∧ (bits cmd 24 8 = op → ∀ u, g u = run u) := by
  have key : ∀ (f' : FnId) (cmd' : W32) (op' : Nat) (run' : State → State) (ok : Bool), exec i s = plain s (fun s => mailboxCmd s f' cmd' ok) →
      (bits cmd' 24 8 = op' → ∀ u, (match bits cmd' 24 8 with
        | 1 => mbFwDeliver u f' | 2 => mbKeySet u f' cmd' ok | 3 => mbKeyClear u f' cmd' | 4 => mbKeyLock u f' cmd' | 5 => mbCardRead u f' ok
        | _ => mbDone u f' 1) = run' u) →
      some (f', cmd', op', run') = some (f, cmd, op, run) →
      ∃ g : State → State, exec i s = plain s (fun s => mbStart s f cmd g) ∧ (bits cmd 24 8 = op → ∀ u, g u = run u) := by
    intro f' cmd' op' run' ok h1 h2 h3
    simp only [Option.some.injEq, Prod.mk.injEq] at h3
    obtain ⟨rfl, rfl, rfl, rfl⟩ := h3
    exact ⟨_, h1, h2⟩
  unfold mailCmd at h
  split at h
  · exact key _ _ _ _ true rfl (fun e u => by simp only [e]) h
  · exact key _ _ _ _ _ rfl (fun e u => by simp only [e]) h
  · exact key _ _ _ _ true rfl (fun e u => by simp only [e]) h
  · exact key _ _ _ _ true rfl (fun e u => by simp only [e]) h
  · exact key _ _ _ _ _ rfl (fun e u => by simp only [e]) h
  · cases h

/-- What an attestation request meets before it is answered. -/
theorem spdm_gen (s : State) (i : Instr) (p : PciePort) (r : List Byte) (ver code len n : Nat) (g : State → State) (hl : live s = true)
    (e : exec i s = plain s (fun s => spdmReq s p r ver code len n g)) :
    ((r.getD 0 0).toNat ≠ ver → exec i s = .next (answer s (spdmError s p 0x41 0))) ∧
    ((r.getD 0 0).toNat = ver → (r.getD 1 0).toNat ≠ code ∨ r.length < len → exec i s = .next (answer s (spdmError s p 1 0))) ∧
    ((r.getD 0 0).toNat = ver → (r.getD 1 0).toNat = code → len ≤ r.length → spdmAt s p < n →
      exec i s = .next (answer s (spdmError s p 4 0))) ∧
    ((r.getD 0 0).toNat = ver → (r.getD 1 0).toNat = code → len ≤ r.length → n ≤ spdmAt s p → exec i s = .next (answer s (g s))) := by
  rw [e]
  refine ⟨fun h => plain_eq hl ?_, fun h h' => plain_eq hl ?_, fun h1 h2 h3 h4 => plain_eq hl ?_, fun h1 h2 h3 h4 => plain_eq hl ?_⟩
  · unfold spdmReq; exact if_pos h
  · unfold spdmReq; exact (if_neg (not_not.2 h)).trans (if_pos h')
  · unfold spdmReq
    refine (if_neg (not_not.2 h1)).trans ((if_neg ?_).trans (if_pos h4))
    rintro (h | h)
    · exact h h2
    · omega
  · unfold spdmReq
    refine (if_neg (not_not.2 h1)).trans ((if_neg ?_).trans (if_neg (by omega)))
    rintro (h | h)
    · exact h h2
    · omega

theorem w_send (s u : State) (p : PciePort) (r : List Byte) : (answer s (spdmSend u p r)).wire = u.wire ++ [.spdm p r] := rfl

theorem w_set (u : State) (p : PciePort) (i : Nat) (l : List Byte) : (spdmSet u p i l).wire = u.wire := rfl

theorem w_to (u : State) (p : PciePort) (i : Nat) : (spdmTo u p i).wire = u.wire := rfl

theorem k_send (s u : State) (p : PciePort) (r : List Byte) : (answer s (spdmSend u p r)).bsc.spdmCount = satAdd u.bsc.spdmCount 1 := rfl

theorem k_set (u : State) (p : PciePort) (i : Nat) (l : List Byte) : (spdmSet u p i l).bsc.spdmCount = u.bsc.spdmCount := rfl

theorem k_to (u : State) (p : PciePort) (i : Nat) : (spdmTo u p i).bsc.spdmCount = u.bsc.spdmCount := rfl

theorem a_ans (s u : State) (p : PciePort) : spdmAt (answer s u) p = spdmAt u p := rfl

theorem a_send (u : State) (p : PciePort) (r : List Byte) : spdmAt (spdmSend u p r) p = spdmAt u p := rfl

theorem a_set (u : State) (p : PciePort) (i : Nat) (l : List Byte) : spdmAt (spdmSet u p i l) p = spdmAt u p := rfl

theorem a_to (u : State) (p : PciePort) (n : Nat) (h : n ≠ 0) : spdmAt (spdmTo u p n) p = n := (tget_tset_ne _ _ _ _ _ h).trans (if_pos rfl)

theorem t_ans (s u : State) (p : PciePort) (i : Nat) : spdmT (answer s u) p i = spdmT u p i := rfl

theorem spdmT_set (s : State) (p : PciePort) (i : Nat) (l : List Byte) (h : l ≠ []) (r : List Byte) : spdmT (spdmSend (spdmSet s p i l) p r) p i = l :=
  (tget_tset_ne _ _ _ _ _ h).trans (if_pos rfl)

theorem f_send (s u : State) (p : PciePort) (r : List Byte) : (answer s (spdmSend u p r)).freeCtr = u.freeCtr := rfl

theorem f_set (u : State) (p : PciePort) (i : Nat) (l : List Byte) : (spdmSet u p i l).freeCtr = u.freeCtr := rfl

end Sys2Proof.Machine
end

