-- ==== Sys2Proof/Tests/Slice0.lean ====
section
/-! SUPPORT. Tests: well-formedness, and small checks against the manual. -/

namespace Sys2Proof.Machine.Tests

-- one test after another: together they would take more threads than the check's memory limit gives stacks to
set_option Elab.async false

/-! ### WellFormed: a well-formed term, and an ill-formed one for each check -/

theorem test_wf_nop : (Instr.nop 0 .access 0).wf = true := by decide
theorem test_wf_wrong_opcode : (Instr.nop 0 .access (1#128 <<< 96)).wf = false := by decide
theorem test_wf_store_line : (Instr.storeReread 0 131072 true true).wf = false := by decide
theorem test_wf_tier_block : (Instr.tierReread 0 393216 true true).wf = false := by decide
theorem test_wf_weak_block : (Instr.weakEntryExpiry (.spare 0 196608)).wf = false := by decide
theorem test_wf_scrub_block : (Instr.scrubRead (.column 0 393216) .clean).wf = false := by decide
theorem test_wf_legacy_length : (Instr.legacyRequestReceive 0 0 0 0 [1]).wf = false := by decide
theorem test_wf_message_empty : (Instr.messageReceive 0 []).wf = false := by decide
theorem test_wf_opposition_digests : (Instr.oppositionEnable 0 1 ⟨true, true, true, []⟩).wf = false := by decide
theorem test_wf_message_type : (Instr.messageReceive 0 [⟨3, 0, 0, 0, 0, 0⟩]).wf = false := by decide
theorem test_wf_slice_block : (Instr.scrubRead (.slice 0 0 393216) .clean).wf = false := by decide
theorem test_wf_timeout_source : (Instr.messageTimeout 76 0).wf = false := by decide
theorem test_wf_load_size : (Instr.serviceLoad 0 0 3 .ok).wf = false := by decide
theorem test_wf_store_size : (Instr.serviceStore 0 0 0 0 .ok).wf = false := by decide
theorem test_wf_pulse : (Instr.tempoPulse 0).wf = false := by decide

/-! ### Small states -/

/-- A running module of 72 cores that follows pulses with count 100; the steward is function 0. -/
def run : State := { State.reset with
  card := { coreMap := BitVec.allOnes 72 }
  pwr := { phase := .running }
  svc := { released := true }
  tmp := { ctrl := 1, haveCount := true, count := 100, pulseSeen := true } }

/-- With context 0 running on cluster 0, bound to function 0. -/
def job (c : Ctx) : State := { run with ctxs := [(0, { c with st := .running, bind := ⟨0x80000000, 0x80000000⟩, clusters := ⟨1, 1⟩ })] }

/-- With a core 0. -/
def cored (x : Core) : State := { run with cores := [(0, x)] }

/-- With a port 0. -/
def ported (x : Port) : State := { run with fab := { ports := [(0, x)] } }

theorem test_run : Quiet run ∧ live run = true ∧ keepsCount run = true ∧ isSteward run 0 = true ∧ hostReach run 0 = true ∧
    enabledCore run 0 = true ∧ enabledCore run 71 = true ∧ run.pwr.phase ≠ .off := by unfold Quiet; decide

/-! ### Premises: for each statement with hypotheses, states and operands that meet them, clause by clause -/

theorem test_meets_step_runs_the_front_command :
    { run with pending := [.tempoEdge] }.pending = [.tempoEdge] ∧ run.pending = [] := by decide
theorem test_meets_every_step_keeps_the_pins_driven : Driven State.reset ∧ ∃ t, step State.reset = .next t :=
  ⟨by unfold Driven; decide, _, rfl⟩
theorem test_meets_a_step_takes_one_command : ∃ t, step { run with pending := [.tempoEdge] } = .next t := ⟨_, rfl⟩
theorem test_meets_in_reset_only_pins_act : live State.reset = false ∧ actsInReset .tempoEdge = false := by decide
theorem test_meets_other_functions_writes_are_ignored :
    stewardWrite (.tmpClear 1 1) = some 1 ∧ isSteward run 1 = false ∧ Quiet run := by unfold Quiet; decide
theorem test_meets_memory : Mem.wf [(3, 7), (4, 1)] ∧ (∀ i : Nat, readByte [(3, 7)] i = readByte [(3, 7)] i) := ⟨by decide, fun _ => rfl⟩
theorem test_meets_products_round : 2 * (1 - rhe 1 1 * 2 ^ 1) = 2 ^ 1 ∧ 2 * (3 - rhe 3 1 * 2 ^ 1) = -(2 ^ 1) := by decide
theorem test_meets_logical_numbers_ascend : 71 < coreCount run ∧ enabledCore run 0 = true ∧ enabledCore run 71 = true := by decide
theorem test_meets_positions : neighbourOf 11 1 = none ∧ neighbourOf 10 1 = some 11 ∧ neighbourOf 60 0 = none ∧ clusterOf 71 = 17 := by decide

theorem test_meets_module_reset_sources :
    bit (1 : W32) 0 = true ∧ live { run with fab := { dresetDue := true } } = true ∧
    live { run with pwr := { phase := .running, hot := 1 } } = true ∧ bit (1 : BitVec 26) 0 = true ∧
    tripLevel 0 ≤ (1840#16).toInt ∧ tripLevel 18 ≤ (1680#16).toInt ∧ tripLevel 25 ≤ (2000#16).toInt := by decide
theorem test_meets_supply : ∃ t, exec .powerUp { State.reset with pwr := { phase := .off, lockedOff := true } } = .next t := ⟨_, rfl⟩
theorem test_meets_reset_release : State.reset.pwr.phase = .inReset ∧ State.reset.pwr.modRstLow = false ∧ State.reset.pwr.tripped = false ∧
    { State.reset with pwr := { modRstLow := true } }.pwr.modRstLow = true ∧ { State.reset with pwr := { tripped := true } }.pwr.tripped = true := by
  decide
theorem test_meets_a_sensor_sample : (1839#16).toInt < tripLevel 0 ∧
    atCrit { run with pwr := { phase := .running, temp := [(0, 1839)], sampled := 1 } } = true ∧ live run = true ∧
    State.reset.pwr.phase = .inReset := by decide
theorem test_meets_wake_timers : pwrOwn (job {}) 0 = some 0 ∧ hostReach (job {}) 0 = true ∧
    (ctxAt (job { wakeArmed := true }) 0).wakeArmed = true ∧
    wakeOf { run with pwr := { phase := .running, wakeAt := [(0, 5)], cluster := [(0, 1)] } } 0 ≠ 0 ∧
    clusterIdle { run with pwr := { phase := .running, wakeAt := [(0, 5)], cluster := [(0, 1)] } } 0 = 1 ∧
    clusterIdle { run with pwr := { phase := .running, cluster := [(17, 4)] } } 17 = 4 ∧
    clusterWl { run with pwr := { phase := .running, cluster := [(17, 4)] } } 17 = 0 := by decide
theorem test_meets_idle_ports : (portAt (ported { idle := 1 }) 0).idle = 1 ∧ (portAt run 15).idle ≠ 1 := by decide
theorem test_meets_clear_registers : bit (1 : W32) 0 = true ∧ srvSel run 0 = some 0 ∧ routerExists run 87 = true ∧ routerExists run 0 = true := by
  decide

/-- With a TMP block that keeps count 100. -/
def tempo (t : Tmp → Tmp) : State := { run with tmp := t run.tmp }

theorem test_meets_a_pulse_advances : Quiet run ∧ countsPulses run = true ∧ inWindow run 0 = true ∧
    inWindow (tempo (fun t => { t with expect := true })) 9999 = true ∧ inWindow (tempo (fun t => { t with expect := true })) 10001 = true ∧
    run.tmp.working = false ∧ run.tmp.resumeAt = none ∧ run.tmp.unavailAt = none ∧
    (tempo (fun t => { t with working := true, stride := 2 })).tmp.pulses + 1 < 2 ∧ run.pwr.deferred = 0 := by unfold Quiet; decide
theorem test_meets_a_pulse_fault : inWindow (tempo (fun t => { t with expect := true })) 9998 = false ∧
    inWindow (tempo (fun t => { t with expect := true })) 10002 = false ∧
    countsPulses (tempo (fun t => { t with expect := true })) = true ∧ bit run.tmp.ctrl 0 = true ∧
    (tempo (fun t => { t with expect := true })).tmp.expect = true := by decide
theorem test_meets_a_held_pulse :
    let s := tempo (fun t => { t with working := true, overrunSent := true })
    let r := tempo (fun t => { t with working := true, t := 99, overrunFor := [99] })
    Quiet s ∧ countsPulses s = true ∧ inWindow s 0 = true ∧ s.pwr.deferred = 0 ∧ s.tmp.working = true ∧ s.tmp.stride ≤ s.tmp.pulses + 1 ∧
    s.tmp.held = false ∧ s.tmp.lost = false ∧ s.tmp.overrunSent = true ∧
    Quiet r ∧ countsPulses r = true ∧ r.tmp.stride ≤ r.tmp.pulses + 1 ∧ r.tmp.t.toNat ∈ r.tmp.overrunFor := by unfold Quiet; decide
theorem test_meets_the_tempo_edge : (tempo (fun t => { t with edgeDue := true })).tmp.edgeDue = true ∧ run.tmp.edgeDue = false := by decide
theorem test_meets_the_commit_point :
    (tempo (fun t => { t with commitDue := true })).tmp.commitDue = true ∧ run.tmp.commitDue = false ∧ bit run.saf.ctrl 2 = false := by decide

/-- A marker: count, kind, variant, switch count. -/
def marker (n kind variant switch_ : Nat) : BitVec 256 := BitVec.ofNat 256 (n + variant * 2 ^ 68 + kind * 2 ^ 70 + switch_ * 2 ^ 128)
/-- An overrun marker for count `n`. -/
def overrunMarker (n : Nat) : BitVec 256 := marker n 1 0 0

theorem test_meets_markers :
    let s := { tempo (fun t => { t with working := true }) with
      now := 10 ^ 18, lock := { gated := false }, ctxs := (job {}).ctxs, cores := [(0, { maint := false })] }
    let p := ported { st := 4, gen := 3 }
    live s = true ∧ projectionPassed s = true ∧ s.tmp.lost = false ∧ s.tmp.edgeDue = false ∧ s.tmp.held = false ∧ s.tmp.overrunSent = false ∧
    Quiet p ∧ live p = true ∧ bit p.tmp.ctrl 0 = true ∧ 0 ∈ markerPorts p ∧ 0 ∉ markerPorts run ∧
    { run.tmp with copiesUsed := [(0, 5, bits (overrunMarker 5) 64 128)] }.copiesUsed.contains
      (0, (mkCount (overrunMarker 5)).toNat, bits (overrunMarker 5) 64 128) = true := by
  unfold Quiet; decide
theorem test_meets_good_markers :
    let p := ported { st := 4, gen := 3 }
    p.tmp.copiesUsed = [] ∧ mkFormed (overrunMarker 100) = true ∧ mkFormed (marker 100 2 0 0) = true ∧ mkFormed (marker 100 3 0 105) = true ∧
    [overrunMarker 5, marker 5 2 0 0, marker 5 3 0 9, marker 5 0 0 0].map mkKind = [1, 2, 3, 0] ∧ tempoEnded p 100 = false ∧ p.tmp.overrunFor = [] ∧
    canFollow p (mkVariant (marker 100 2 0 0)).toNat = true ∧ canFollow { p with tmp := { p.tmp with throttleCfg := ⟨0, 0⟩ } } (mkVariant (marker 100 3 3 105)).toNat = false ∧
    p.tmp.switches.length < 16 ∧ mkSwitch (marker 100 3 0 105) = 105 := by decide +kernel
theorem test_meets_periodic_markers :
    let p := ported { st := 4, gen := 3 }
    p.tmp.countFromMarker = false ∧ p.tmp.pulseSeen = true ∧ p.tmp.haveCount = true ∧ mkCount (marker 101 0 0 0) = p.tmp.count + 1 ∧
    mkCount (marker 100 0 0 0) ≠ p.tmp.count + 1 ∧ mkFormed (marker 101 0 0 0) = true ∧
    ((mkPhase (marker 101 0 0 0) : Int) + (portAt p 0).lat.toNat - (phaseSc p : Nat)).natAbs ≤ 600 ∧
    600 < ((mkPhase (marker 101 0 0 0) : Int) + (portAt (ported { st := 4, gen := 3, lat := 601 }) 0).lat.toNat - (phaseSc p : Nat)).natAbs := by decide +kernel
theorem test_meets_divergence :
    let s := { ported { st := 4, gen := 3 } with tmp := { run.tmp with ended := true, lastT := 5 } }
    Quiet s ∧ live s = true ∧ bit s.tmp.ctrl 0 = true ∧ 0 ∈ markerPorts s ∧ mkFormed (overrunMarker 5) = true ∧ mkKind (overrunMarker 5) = 1 ∧
    s.tmp.copiesUsed.contains (0, (mkCount (overrunMarker 5)).toNat, bits (overrunMarker 5) 64 128) = false ∧
    tempoEnded s (mkCount (overrunMarker 5)).toNat = true ∧ s.tmp.overrunFor.contains (mkCount (overrunMarker 5)).toNat = false ∧
    s.tmp.lost = false := by unfold Quiet; decide
/-- An instruction word: COND and WOBJ, opcode, body. -/
def word (cond obj op body : Nat) : W128 := BitVec.ofNat 128 (cond * 2 ^ 124 + obj * 2 ^ 116 + op * 2 ^ 96 + body)
theorem test_meets_stalemate :
    let s := cored { a := { held := some (word 1 3 0 0) }, x := { held := some (word 1 4 0 0) } }
    Quiet s ∧ live s = true ∧ enabledCore s 0 = true ∧ waitObject (coreAt s 0) .access = some 3 ∧ waitObject (coreAt s 0) .execute = some 4 ∧
    (∀ o ∈ (coreAt s 0).ops, o.sop = 0 ∨ (o.sobj.toNat ≠ 3 ∧ o.sobj.toNat ≠ 4)) ∧ (∀ g ∈ (coreAt s 0).sigs, g.sobj ≠ 3 ∧ g.sobj ≠ 4) := by
  unfold Quiet; decide
theorem test_meets_tempo_registers :
    let s := tempo (fun t => { t with resumeLo := 102 })
    let r := tempo (fun t => { t with resumeLo := 101 })
    Quiet s ∧ Quiet r ∧ isSteward s 0 = true ∧ bit (5 : W32) 0 = true ∧ bit (5 : W32) 2 = true ∧ bit s.tmp.ctrl 0 = true ∧ s.tmp.haveCount = true ∧
    s.tmp.count.toNat + 2 ≤ resumeCount s ∧ resumeCount r < r.tmp.count.toNat + 2 ∧ keepsCount (tempo (fun t => { t with haveCount := false })) = false ∧
    bit (tempo (fun t => { t with ctrl := 0 })).tmp.ctrl 0 = false ∧ bit run.glb.boot 5 = false ∧ bit (1 : W32) 2 = false ∧ bit (0 : W32) 0 = false ∧
    loadedCtxs run = [] ∧ run.glb.unconfigured = false := by unfold Quiet; decide

/-! Streams -/

/-- A stream inside a frame of four instructions. -/
def frame : StreamSt := { index := 1, len := 4 }

/-- A working core 0 at the same place in both frames. -/
def working (x : Core) : State := cored { x with maint := false, a := frame, x := frame }

/-- What a command needs to issue (R110, R111, R117), all of it read from the state and the command. -/
def issues (s : State) (i : Instr) : Bool :=
  match streamCmd i with
  | some (c, st, w, op, plan) =>
    let x := coreAt s c
    let u := catchUp s (streamOf x st).sched
    let p := plan u (streamOf x st).sched
    live s && enabledCore s c && !x.maint && streamRuns x st && (u.lock.gated || decide ((streamOf x st).sched ≤ lockTrc u)) &&
    decide (wOp w = op) && condOk w && sopOk w && !(badWord x st) && p.streamOk && decide (p.check = .ok) && p.blocked.isNone && waitHolds (coreAt u c) w
  | none => false

theorem test_meets_control_issues : [Instr.nop 0 .access 0, .time 0 .execute (word 0 0 1 5), .boundary 0 .execute (word 0 0 2 0) none,
    .sync 0 .access (word 0 0 3 (0x80 * 2 ^ 88))].all (issues (working {})) = true := by decide
theorem test_meets_access_issues : [Instr.refill 0 .access (word 0 0 0x10 (2 ^ 92)), .trd 0 .access (word 0 0 0x11 (2 ^ 41)),
    .twr 0 .access (word 0 0 0x12 (2 ^ 41)), .ldq 0 .access (word 0 0 0x13 (2 ^ 50)), .stq 0 .access (word 0 0 0x14 (2 ^ 51)),
    .copy 0 .access (word 0 0 0x15 (2 ^ 40 + 2 ^ 60))].all (issues (working {})) = true := by decide
theorem test_meets_put_issues : issues (working {}) (.put 0 .access (word 0 0 0x18 0)) = true := by decide +kernel
theorem test_meets_get_issues : issues (working { store := [(3, 0x10)] }) (.get 0 .access (word 0 0 0x19 0)) = true := by decide +kernel
theorem test_meets_ladd_issues : issues (working { store := [(3, 0x20)] }) (.ladd 0 .access (word 0 0 0x18 0)) = true := by decide +kernel
theorem test_meets_sput_issues : issues (working { store := [(3, 0x30), (20, 5)] }) (.sput 0 .access (word 0 0 0x18 0)) = true := by decide +kernel
theorem test_meets_bar_issues : issues (working { store := [(3, 0x40), (17, 0xC0), (18, 1)] }) (.bar 0 .access (word 0 0 0x18 0)) = true := by decide +kernel
theorem test_meets_execute_issues : [Instr.win 0 .execute (word 0 0 0x20 (2 ^ 92)), .pass 0 .execute (word 0 0 0x21 (2 ^ 90)),
    .drain 0 .execute (word 0 0 0x22 (2 ^ 90)), .tcfg 0 .execute (word 0 0 0x23 0), .ew 0 .execute (word 0 0 0x30 (8 * 2 ^ 86))].all
    (issues (working {})) = true := by decide
theorem test_meets_tile_issues : issues (working { tcfg := some ⟨0, 0, 0, 0⟩ }) (.tile 0 .execute (word 0 0 0x24 (2 ^ 5))) = true := by decide

/-- An operation of a unit that has done its last step. -/
def doneOp (u : UnitId) : Op :=
  { unit := u, word := 0, sop := 0, sobj := 0, reads := [], writes := [], ready := false, noSignal := false, issue := 0, step := 1, shift := 0
    last := some 0, stalled := false, again := [], lines := [], blks := [], outs := [], wins := [], refills := [], prog := .plain }

theorem test_meets_a_malformed_word :
    AtIssue (working {}) 0 .access 0 ∧ condOk (word 0 1 0 0) = false ∧ wOp (word 0 0 1 0) ≠ 0 ∧ (nopPlan 0 .access (word 0 0 0 1) (working {}) 0).check = .malformed ∧
    (winPlan 0 .access (word 0 0 0x20 (2 ^ 92)) (working {}) 0).streamOk = false ∧ sopOk (BitVec.ofNat 128 (5 * 2 ^ 112)) = false ∧
    (ldqPlan 0 .access (word 0 0 0x13 (131071 * 2 ^ 74 + 2 ^ 62 + 2 ^ 50)) (working {}) 0).check = .access (64 * 131072) ∧
    (ldqPlan 0 .access (word 0 0 0x13 (131070 * 2 ^ 74 + 2 ^ 62 + 2 ^ 50)) (working {}) 0).check = .ok := by unfold AtIssue; decide
theorem test_meets_an_unsatisfied_wait :
    let s := working {}
    let b := working { ops := [doneOp (.queueIn 0)] }
    Quiet s ∧ AtIssue s 0 .access 0 ∧ catchUp s 0 = s ∧ s.lock.gated = true ∧ badWord (coreAt s 0) .access = false ∧
    (streamOf (coreAt s 0) .access).held ≠ some (word 1 3 0 0) ∧
    waitHolds (coreAt s 0) (word 1 3 0 0) = false ∧ wCond (word 7 3 0 0) < 8 ∧ 8 ≤ wCond (word 8 3 0 0) ∧ condOk (word 1 3 0 0) = true ∧
    waitHolds (coreAt s 0) (word 9 3 0 0) = false ∧ condOk (word 9 3 0 0) = true ∧
    Quiet b ∧ AtIssue b 0 .access 0 ∧ (ldqPlan 0 .access (word 0 0 0x13 (2 ^ 50)) b 0).blocked = some 3 ∧
    (ldqPlan 0 .access (word 0 0 0x13 (2 ^ 50)) b 0).check = .ok ∧ waitHolds (coreAt b 0) (word 0 0 0x13 (2 ^ 50)) = true := by
  unfold Quiet AtIssue; decide
theorem test_meets_a_held_wait :
    let s := cored { maint := false, a := { frame with held := some (word 1 3 0 0), dev := true } }
    let d := cored { maint := false, a := { frame with held := some (word 9 3 0 0) } }
    let b := cored { maint := false, ops := [doneOp (.queueIn 0)], a := { frame with held := some (word 0 0 0x13 (2 ^ 50)), dev := true } }
    (Quiet s ∧ AtIssue s 0 .access 0 ∧ (streamOf (coreAt s 0) .access).held = some (word 1 3 0 0) ∧ waitHolds (coreAt s 0) (word 1 3 0 0) = false ∧
      (streamOf (coreAt s 0) .access).dev = decide (wCond (word 1 3 0 0) < 8)) ∧
    (AtIssue d 0 .access 0 ∧ (streamOf (coreAt d 0) .access).held = some (word 9 3 0 0) ∧ waitHolds (coreAt d 0) (word 9 3 0 0) = false ∧
      (streamOf (coreAt d 0) .access).dev = decide (wCond (word 9 3 0 0) < 8)) ∧
    (AtIssue b 0 .access 0 ∧ (ldqPlan 0 .access (word 0 0 0x13 (2 ^ 50)) b 0).blocked = some 3 ∧ (streamOf (coreAt b 0) .access).dev = true) := by
  unfold Quiet AtIssue; decide
theorem test_meets_the_control_class :
    let s := working {}
    Quiet s ∧ AtIssue s 0 .access 0 ∧ s.lock.gated = true ∧ badWord (coreAt s 0) .access = false ∧ frame.index % 64 ≠ 0 ∧
    frame.index + 1 < frame.len ∧ (syncAt (coreAt s 0) 0x80).val.toNat + 1 < 2 ^ 32 ∧ (coreAt s 0).badSync.contains 0x80 = false ∧ (coreAt s 0).x.done = false ∧
    frame.sched < bits (word 0 0 1 1) 0 24 ∧ bits (word 0 0 1 1) 24 72 = 0 ∧ chkSync (word 0 0 3 (0x80 * 2 ^ 88)) = .ok ∧
    syAct (word 0 0 3 (0x80 * 2 ^ 88 + 2 ^ 84)) ≠ 2 ∧ (coreAt s 0).ops = [] ∧ (coreAt s 0).a.done = false := by unfold Quiet AtIssue; decide

/-- A row of one sum on its way through the array. -/
def row : PassRow :=
  { row := 0, add := false, base := 0, sums := [5], check := ⟨5, 0⟩, overs := [], into := some [5], passIndex := 0, at_ := 7, stage := 0, delta := 0 }
theorem test_meets_rows :
    rowsWaiting (cored { engines := [(3, { rows := [row] })] }) 0 3 = 1 ∧ rowsWaiting run 0 3 = 0 ∧ row.stage = 0 ∧ { row with stage := 1 }.stage = 1 ∧
    row.into = some [5] ∧ (∀ v ∈ row.sums, int64Ok v = true) ∧ row.overs = [] ∧
    (row.check.add ⟨row.delta - row.sums.foldl (· + ·) 0, row.base⟩).isZero = true ∧
    (row.check.add ⟨1 - row.sums.foldl (· + ·) 0, row.base⟩).isZero = false ∧ 0 ∉ (engineAt (coreAt run 0) 0).named ∧
    (∀ p ∈ [(5 : Int)].zipIdx, ((engineAt (coreAt run 0) 0).accAt_ 0 p.2).base = row.base ∧
      longOk (((engineAt (coreAt run 0) 0).accAt_ 0 p.2).v + p.1) = true) := by decide +kernel
theorem test_meets_ramp_out :
    let s := { cored { engines := [(0, { level := 4, lastRowAt := 10 })] } with lock := { gated := false } }
    (engineAt (coreAt s 0) 0).level = 4 ∧ s.lock.gated = false ∧ run.lock.gated = true ∧ (engineAt (coreAt run 0) 0).level = 0 ∧
    (coreAt s 0).ops = [] := by decide +kernel
theorem test_meets_signals :
    let s := cored { ops := [doneOp .copy] }
    ((coreAt s 0).ops.filter (opOf .copy)).length = 1 ∧ ((coreAt run 0).ops.filter (opOf .copy)).length = 0 ∧ (coreAt s 0).ops = [doneOp .copy] ∧
    (doneOp .copy).last = some 0 ∧ 0 < (doneOp .copy).step ∧ (doneOp .copy).again = [] ∧ (doneOp .copy).noSignal = false ∧
    unitRank .tile < 16 ∧ (coreAt run 0).maint = true ∧ (coreAt run 0).arrivals = [] ∧
    (coreAt { working {} with lock := { gated := false } } 0).maint = false ∧ (coreAt { working {} with lock := { gated := false } } 0).sigs = [] := by
  decide +kernel

/-! The maintenance port -/

/-- Core 0 in maintenance mode with a free port. -/
def port0 (x : Core) : State := cored { x with clearing := false }

theorem test_meets_the_port : AtPort (port0 {}) 0 ∧ AtPort (port0 { fences := [], mres := [(0, 5)] }) 0 ∧ Quiet (port0 {}) := by
  unfold AtPort Quiet; decide
theorem test_meets_maintenance_words :
    [word 0 0 0xE0 0, word 0 0 0xE1 0, word 0 0 0xE2 0, word 0 0 0xE3 0, word 0 0 0xE4 0, word 0 0 0xE5 0, word 0 0 0xE6 0, word 0 0 0xE7 0,
     word 0 0 0xE8 0].all (fun w => decide (bits w 104 24 = 0)) = true ∧
    [word 0 0 0xE0 0, word 0 0 0xE1 0, word 0 0 0xE2 0, word 0 0 0xE3 0, word 0 0 0xE4 0, word 0 0 0xE5 0, word 0 0 0xE6 0, word 0 0 0xE7 0,
     word 0 0 0xE8 0].map wOp = [0xE0, 0xE1, 0xE2, 0xE3, 0xE4, 0xE5, 0xE6, 0xE7, 0xE8] ∧
    chkWin (word 0 0 0x20 (2 ^ 92)) = .ok ∧ winOk (wiWord (word 0 0 0x20 (2 ^ 92))) = true ∧ wiEng (word 0 0 0x20 (2 ^ 92)) = 1 ∧
    wiTgt (word 0 0 0x20 (2 ^ 92)) = false := by decide
theorem test_meets_maintenance_completes :
    (coreAt (cored { mnext := some 4 }) 0).mnext = some 4 ∧ (coreAt run 0).clearing = true := by decide
theorem test_meets_the_port_refuses : (coreAt (working {}) 0).maint = false ∧ (coreAt (cored { mnext := some 0 }) 0).mnext.isSome = true ∧
    bits (word 1 0 0xE0 0) 104 24 ≠ 0 ∧ wOp (word 0 0 0xE9 0) ≠ 0xE0 ∧ bits (word 0 0 0xE0 1) 0 52 ≠ 0 ∧
    131072 < bits (word 0 0 0xE2 (131071 * 2 ^ 79 + 2 ^ 62)) 79 17 + (bits (word 0 0 0xE2 (131071 * 2 ^ 79 + 2 ^ 62)) 62 17 + 1) ∧
    bits (word 0 0 0xE2 (131071 * 2 ^ 79)) 79 17 + (bits (word 0 0 0xE2 (131071 * 2 ^ 79)) 62 17 + 1) ≤ 131072 := by decide
theorem test_meets_maintenance_results : bits (word 0 0 0xE0 (5 * 2 ^ 79)) 0 79 = 0 ∧ bits (word 0 0 0xE1 (5 * 2 ^ 79)) 0 63 = 0 ∧
    (coreAt (port0 {}) 0).fences = [] ∧ (coreAt (port0 {}) 0).unfenced = [] ∧ (∀ i < 8, tget 0 (coreAt (port0 {}) 0).fences i = 0) ∧
    bits (word 0 0 0xE8 (200 * 2 ^ 88)) 0 87 = 0 ∧ bits (word 0 0 0xE8 (200 * 2 ^ 88)) 88 8 = 200 := by decide

/-! Stores and tiers -/

theorem test_meets_rereads :
    fenceOf (coreAt run 0) 131071 = none ∧ freeFence (coreAt run 0) = some 0 ∧ fenceEntry run.tiers 0 393215 = none ∧
    (fenceOf (coreAt (cored { fences := [(0, BitVec.ofNat 32 (2 ^ 31 + 5))] }) 0) 5).isSome = true ∧
    (fenceEntry { run.tiers with fence := [(0, { valid := true, blk := 7 })] } 0 7).isSome = true := by decide
/-- A full gather entry of service-complex bytes. -/
def entry : GEntry := ⟨5, 0, BitVec.allOnes 64, true, false, [], 0⟩
theorem test_meets_gather : gatherAt (coreAt (cored { gather := [(15, some entry)] }) 0) 15 = some entry ∧ entry.mask = BitVec.allOnes 64 ∧
    { entry with other := true }.other = true ∧ { entry with svc := false }.svc = false ∧ entry.other = false ∧ entry.svc = true ∧
    { entry with mask := 1 }.mask ≠ BitVec.allOnes 64 ∧ fenceOf (coreAt run 0) 5 = none ∧ tget 0 (coreAt run 0).lcrc 5 = 0 := by decide +kernel
theorem test_meets_gather_timeouts :
    let s := cored { gather := [(0, some entry)] }
    entry.at_ + gatherWait { s with now := 32 * acUnits 0 } ≤ 32 * acUnits 0 ∧
    (let u := tickUntil 32 s (fun s => decide (entry.at_ + gatherWait s ≤ s.now))
     entry.at_ + gatherWait u ≤ u.now ∧ gatherAt (coreAt u 0) 0 = some entry) := by decide +kernel
/-- An arrival at counter 0xC5. -/
def arrived : Arrival := ⟨0xC5, none⟩
theorem test_meets_arrivals :
    let s := working { arrivals := [arrived] }
    live s = true ∧ (coreAt s 0).sigs = [] ∧ (coreAt s 0).arrivals = arrived :: [] ∧ (coreAt run 0).arrivals = [] ∧ Quiet run ∧
    (coreAt s 0).maint = false ∧ (coreAt s 0).badSync.contains 0xC5 = false ∧ (syncAt (coreAt s 0) 0xC5).val.toNat + 1 < 2 ^ 32 := by
  unfold Quiet; decide +kernel
/-- A write held at a full ring. -/
def held : RingHeld := ⟨[], 0, none⟩
theorem test_meets_rings : (ringAt (coreAt (cored { rings := [(3, { heldWrites := [held] })] }) 0) 3).heldWrites = held :: [] ∧
    ringFilled (coreAt (cored { rings := [(3, { heldWrites := [held] })] }) 0) 3 < ringSlots (coreAt (cored { rings := [(3, { heldWrites := [held] })] }) 0) 3 ∧
    ringSlots (coreAt (cored { rings := [(3, { fill := 1, heldWrites := [held] })] }) 0) 3 ≤
      ringFilled (coreAt (cored { rings := [(3, { fill := 1, heldWrites := [held] })] }) 0) 3 := by decide
theorem test_meets_outside_sync_writes :
    let s := { job {} with cores := [(0, { clearing := false })] }
    Quiet s ∧ live s = true ∧ enabledCore s 0 = true ∧ (coreAt s 0).clearing = false ∧ ctxOfCore s 0 = some 0 ∧ ctxOfCore s 0 ≠ some 1 ∧
    (1 : W32).toNat ≤ 1 ∧ s.lock.gated = true ∧ (coreAt s 0).badSync.contains 255 = false ∧
    { s with lock := { gated := false } }.lock.gated = false ∧ (coreAt { s with cores := [(0, { maint := false })] } 0).maint = false := by
  unfold Quiet; decide
theorem test_meets_tier_events :
    (coreAt (cored { bq := [.retire 5] }) 0).bq = .retire 5 :: [] ∧ (coreAt run 0).maint = true ∧
    (coreAt (cored { maint := false }) 0).boundary = false ∧ (coreAt (cored { maint := false }) 0).maint = false ∧
    (coreAt (cored { maint := false }) 0).barred = false ∧ bit run.tiers.ctrl 0 = true ∧
    bit { run.tiers with ctrl := 6 }.ctrl 0 = false ∧ tget 0 run.tiers.crc (resolve run 0 0) = 0 := by decide
theorem test_meets_scrub_reads :
    locOk run (.column 71 393215) = true ∧ locOk run (.spare 3 0) = true ∧ ownerOf run (locBlock run (.column 0 0)) = some (0, 0) ∧
    fenceEntry run.tiers 0 0 = none ∧ tget 0 run.tiers.crc (locBlock run (.column 0 0)) = 0 ∧ run.tiers.sweepSeen.length < sweepBlocks run := by decide +kernel
theorem test_meets_substitution :
    let s := { run with card := { coreMap := 1 } }
    (coreAt s 0).maint = true ∧ subOk s 0 2 71 2 = true ∧ (List.range 16).find? (fun i => !(bit (tget 0 s.tiers.subs i) 31)) = some 0 ∧
    enabledCore s 71 = false ∧ enabledCore run 71 = true ∧ (2 : TierId) ≠ 3 := by decide

/-! The mesh -/

/-- A flit whose CRC is wrong. -/
def badFlit : MeshFlit := ⟨0, 0, ~~~(flitCrc 0 0)⟩
/-- A weft flit of stream 5 of context 0. -/
def weftSide : W64 := BitVec.ofNat 64 (2 ^ 63 + 5 * 2 ^ 47)
theorem test_meets_flits :
    flitCrc 0 0 = (meshFlit 0 0).crc ∧ flitCrc badFlit.payload badFlit.side ≠ badFlit.crc ∧ Quiet run ∧ sideWeft 0 = false ∧
    routerExists { run with card := {} } 0 = false ∧ portLeads run 0 4 = false ∧ portLeads run 0 1 = true ∧ portLeads run 72 0 = true ∧
    bit (tget 0 (routerAt { run with routers := [(0, { route := [(0, 0x82)] })] } 0).route (sideDest 0)) 7 = true ∧
    bit (tget 0 (routerAt run 0).route (sideDest 0)) 7 = false ∧ badEntry run 0 (sideDest 0) = false := by
  refine ⟨rfl, fun h => ?_, by unfold Quiet; decide, by decide, by decide, by decide, by decide, by decide, by decide, by decide, by decide⟩
  have e := congrArg (fun x => x.getLsbD 0) h
  simp [badFlit] at e
theorem test_meets_weft_flits :
    let e : W32 := BitVec.ofNat 32 (2 ^ 31 + 2 * 2 ^ 23 + 2 ^ 15)
    let s := { run with routers := [(72, { ctrl := 1, stream := [(5, e)] })] }
    sideWeft weftSide = true ∧ sideStream weftSide = 5 ∧ sideCtx weftSide = 0 ∧ badEntry s 72 133 = false ∧ tget 0 (routerAt s 72).stream 5 = e ∧
    weftActive s 72 = true ∧ bit e 31 = true ∧ bit e 30 = false ∧ bits e 26 4 = 0 ∧ bits e 23 3 = 2 ∧ weftActive run 72 = false := by decide +kernel
theorem test_meets_still_routers :
    let s := tempo (fun t => { t with working := true })
    meshStopped s = true ∧ meshStopped run = false := by decide +kernel
theorem test_meets_links : linkEnd 0 1 = some (12, 3) ∧ linkEnd 12 3 = some (0, 1) ∧
    tget [] (routerAt { run with routers := [(12, { link := [(3, [badFlit])] })] } 12).link 3 = badFlit :: [] := ⟨rfl, rfl, rfl⟩
theorem test_meets_router_tables : twf {} run.routers ∧ twf [] (routerAt run 12).link :=
  ⟨⟨List.Pairwise.nil, fun _ h => by cases h⟩, ⟨List.Pairwise.nil, fun _ h => by cases h⟩⟩
/-- A selvedge router in a worked tempo, with a slot of output 1 for stream 5 and a flit of it. -/
def slot0 : Router :=
  { ctrl := 1, stream := [(5, BitVec.ofNat 32 (2 ^ 31))], slot := [(4096, BitVec.ofNat 64 (2 ^ 24 + 5))], weft := [⟨0, 1, ⟨0, weftSide, 0⟩, 2, 0⟩] }
def slotted : State := { run with
  now := 10 ^ 18, tmp := { run.tmp with working := true }, lock := { gated := false }, routers := [(72, slot0)], cores := [(0, { maint := true })] }
theorem test_meets_routers_send :
    Quiet slotted ∧ live slotted = true ∧ outRuns slotted 72 1 = true ∧ nextNc slotted 72 1 = 0 ∧ reservedFor slotted 72 1 (routerNc slotted 72 + 0) = some (0, 5) ∧
    (weftReady slotted 72 1 5 0).map (·.2) = some 0 ∧ badEntry slotted 72 (1216 + 4096 * 1 + 0) = false ∧
    outRoom slotted 72 1 ⟨0, weftSide, 0⟩ = true ∧ clrBit (2 : Byte) 1 = 0 ∧ weftReady { slotted with now := 0 } 72 1 5 0 = none ∧
    reservedFor run 72 1 0 = none ∧ outRuns run 0 1 = true ∧ nextNc run 0 1 < 2 ∧ outRuns run 0 4 = false ∧ freePick (routerAt run 0) 1 = none := by
  unfold Quiet; decide +kernel
theorem test_meets_spent_slots :
    2 ≤ nextNc { slotted with routers := [(72, { slot0 with decided := [(1, 4 * 10 ^ 18 + 2)] })] } 72 1 ∧
    (let g : InFlit := ⟨2, 1, ⟨0, 0, 0⟩, 0, 0⟩
     let s := { run with routers := [(0, { free := [g], link := [(1, List.replicate 8 ⟨0, 0, 0⟩)] })] }
     freePick (routerAt s 0) 1 = some 0 ∧ (routerAt s 0).free[0]? = some g ∧ outRoom s 0 1 g.flit = false) := by decide +kernel
theorem test_meets_router_registers :
    let g : InFlit := ⟨0, 1, ⟨0, weftSide, 0⟩, 2, 0⟩
    ((routerAt { run with routers := [(3, { seamOut := [(63, g)] })] } 3).seamOut.find? (fun p => decide (p.1 = 63))) = some (63, g) ∧
    (routerAt run 3).seamOut = [] ∧ routerExists run 87 = true ∧ run.tmp.working = false ∧ slotted.tmp.working = true ∧
    (ParityHit.mk 0 0 0 0 0).srcKind ≠ 1 := by decide +kernel

/-! The fabric -/

/-- A DATA flit, its CRC right or wrong. -/
def flit (seq : BitVec 12) (ok : Bool) : FabFlit := ⟨0, seq, 0, 0, 0, if ok then linkCrc 0 seq 0 0 0 else ~~~(linkCrc 0 seq 0 0 0)⟩
/-- An OPPOSE flit that comes in order. -/
def opposing (frame : Flit256) : OpposeRx := ⟨⟨0, linkCrc 0xA 0 0 0 (BitVec.ofNat 2048 frame.toNat)⟩, frame⟩
theorem test_meets_link_commands :
    (linkCmd (.messageReceive 0 [flit 3 true])).isSome = true ∧ (linkCmd (.epochReceive 0 ⟨3, 0⟩ 5 6)).isSome = true ∧
    (linkCmd (.snapReceive 0 ⟨3, 0⟩ 5)).isSome = true ∧ (linkCmd (.barrierReceive 0 ⟨3, 0⟩ 1 true)).isSome = true ∧
    (linkCmd (.dresetReceive 0 ⟨3, 0⟩)).isSome = true ∧ (linkCmd (.opposeSigReceive 0 (opposing 0))).isSome = true ∧
    (linkCmd (.opposeLogReceive 0 (opposing 0))).isSome = true ∧ (linkCmd (.mirrorReceive 0 (opposing 0))).isSome = true ∧
    (linkCmd (.verdictReceive 0 (opposing 0))).isSome = true := ⟨rfl, rfl, rfl, rfl, rfl, rfl, rfl, rfl, rfl⟩
theorem test_meets_flit_types : (flit 3 true).typ = 0 ∧ (FabFlit.mk 0xB 0 0 0 0 0).typ ≠ 0 := by decide
theorem test_meets_sequenced_flits :
    let s := ported { st := 2, gen := 3 }
    Quiet s ∧ trained (portAt s 0) ∧ trained (portAt (ported { st := 5 }) 0) ∧ ¬ trained (portAt (ported { st := 6 }) 0) ∧
    ¬ trained (portAt (ported { st := 1 }) 0) ∧ (portAt s 0).gen = 3 ∧ ((0 : BitVec 12) - (portAt s 0).rxSeq).toNat = 0 ∧
    ((255 : BitVec 12) - (portAt s 0).rxSeq).toNat < 256 ∧ 256 ≤ ((256 : BitVec 12) - (portAt s 0).rxSeq).toNat ∧ (portAt s 0).reorder = [] ∧
    (portAt (ported { st := 2, gen := 3, reorder := [(7, .dreset)] }) 0).reorder.any (fun e => decide (e.1 = 7)) = true ∧ s.fab.oppRx = [] := by
  unfold Quiet trained; decide
theorem test_meets_flits_in_order : TakesNext (ported { st := 4, gen := 3 }) 0 0 ∧ controlGood (opposing 5).rx 0xA 0 (5 : Flit256).toNat = true :=
  ⟨by unfold TakesNext trained; decide, decide_eq_true rfl⟩
/-- A frame. -/
def sent : Frame := ⟨0, 5, 0, 0, 0⟩
theorem test_meets_acks :
    (portAt (ported { st := 4, retry := [sent] }) 0).retry.find? (fun g => decide (g.seq = 5)) = some sent ∧
    (((portAt (ported { naks := [(5, 6)] }) 0).naks.find? (fun e => decide (e.1 = 5))).map (·.2)).getD 0 = 6 ∧
    (((portAt (ported { naks := [(5, 7)] }) 0).naks.find? (fun e => decide (e.1 = 5))).map (·.2)).getD 0 = 7 ∧
    0 < (portAt (ported { unacked := 1 }) 0).unacked ∧ (portAt run 0).unacked = 0 ∧ (portAt (ported { st := 4 }) 0).control = [] ∧
    trained (portAt (ported { st := 4, resend := [sent] }) 0) ∧ (portAt (ported { st := 4, resend := [sent] }) 0).idle = 0 ∧
    (portAt (ported { st := 4, resend := [sent] }) 0).resend = sent :: [] ∧ (portAt (ported { idle := 1 }) 0).idle ≠ 0 := by
  unfold trained; decide +kernel
theorem test_meets_legacy_egress :
    let s := ported { st := 4, gen := 2, legacyOut := [⟨2, 0, 0, []⟩] }
    Quiet s ∧ trained (portAt s 0) ∧ (portAt s 0).idle = 0 ∧ (portAt s 0).gen ≠ 3 ∧ (portAt s 0).legacyOut = ⟨2, 0, 0, []⟩ :: [] := by
  unfold Quiet trained; decide
theorem test_meets_ports :
    let s := { ported { st := 1 } with tmp := { run.tmp with begun := true } }
    Quiet s ∧ (portAt s 0).st = 1 ∧ 0 < min (genMax (portAt s 0)) (min (3 : BitVec 2).toNat (1 : BitVec 2).toNat) ∧
    min (genMax (portAt s 0)) (min (3 : BitVec 2).toNat (0 : BitVec 2).toNat) = 0 ∧ bit (4 : W32) 2 = true ∧ bits s.fab.portSel 0 4 ≠ 15 ∧
    bit (2 : W32) 2 = false ∧ s.tmp.begun = true ∧ isSteward s 0 = true ∧ (portAt run 0).idle ≠ 1 ∧ (portAt (ported { idle := 1 }) 0).idle = 1 := by
  unfold Quiet; decide
theorem test_meets_port_down :
    let s := ported { st := 3 }
    let r := ported { st := 3, recorded := true }
    trained (portAt s 0) ∧ s.fab.openingDone = false ∧ s.glb.traceActive = false ∧ (portAt s 0).txSrc = [] ∧ (portAt s 0).st = 3 ∧
    (portAt s 0).recorded = false ∧ trained (portAt r 0) ∧ portOpp (portAt r 0) = false ∧ (portAt r 0).recorded = true ∧
    (Ident.mk 1 0 0 0 0 0 false 0 0 0 0).serial ≠ (portAt r 0).neighSerial ∧ portOpp (portAt s 0) = false ∧
    miswired s 0 (Ident.mk 1 1 0 0 0 0 false 0 0 0 0) = true ∧ miswired s 7 (Ident.mk 1 1 0 0 0 0 false 0 0 0 0) = false ∧
    portOpp (portAt (ported { ctrl := ⟨6, 6⟩ }) 0) = true := by unfold trained; decide +kernel
theorem test_meets_fabric_manager :
    let s := { run with fab := { snapLo := 102, routeStaged := [(5, BitVec.ofNat 64 (2 ^ 63 + 1))] } }
    Quiet s ∧ keepsCount s = true ∧ s.tmp.count.toNat + 2 ≤ snapCount s ∧ hl3UpPorts s = [] ∧ bit s.fab.ctrl 4 = false ∧
    snapCount { run with fab := { snapLo := 101 } } < run.tmp.count.toNat + 2 ∧
    s.fab.routeStaged.all (fun e => routeOk e.1 e.2) = true ∧ bit (1 : W32) 0 = true ∧ bit s.fab.ctrl 5 = false ∧
    bit (0x20 : W32) 5 = true ∧ s.fab.dresetAt = none ∧ s.tmp.begun = false ∧
    (bit (8 : W32) 3 = true ∧ bit (8 : W32) 2 = false) ∧ (bit (12 : W32) 3 = true ∧ bit (12 : W32) 2 = true ∧ bit (12 : W32) 4 = false ∧
    bit (12 : W32) 1 = false) ∧ (bit (16 : W32) 4 = true ∧ bit (16 : W32) 3 = false) ∧ (bit (2 : W32) 1 = true ∧ bit (2 : W32) 3 = false) := by
  unfold Quiet; decide
/-- A started PUT of core 0 with a number of copies. -/
def message (copies : Nat) : Msg := ⟨0, 5, 0, 0, 0, 0, none, 0, 0, 0, false, [], 0, 0, true, none, copies, 0, false, false⟩
theorem test_meets_messages :
    findMsg run 0 5 = none ∧ findMsg { run with fab := { msgs := [message 2] } } 0 5 = some (message 2) ∧ (message 2).started = true ∧
    1 < (message 2).copies ∧ findMsg { run with fab := { msgs := [message 1] } } 0 5 = some (message 1) ∧ (message 1).copies ≤ 1 ∧
    (message 1).dead = false ∧ (message 1).src < 72 ∧ (message 1).op ≠ 1 ∧ (message 1).status = 0 := by decide
/-- A REPLY to core 0 of this module for message 5. -/
def reply : ReplyRx := ⟨gaMake 0xFFF 0 0, 5, 1⟩
theorem test_meets_replies :
    let s := { ported { st := 4, gen := 3 } with fab := { ports := [(0, { st := 4, gen := 3 })], msgs := [message 2] } }
    TakesNext s 0 0 ∧ ownModule s (gaChip reply.saddr) = true ∧ gaCore reply.saddr ≠ 0xFE ∧ sourceOf s reply.saddr reply.msgid = some 0 ∧
    findMsg s 0 reply.msgid = some (message 2) ∧ sourceOf run (gaMake 0xFFF 71 0) 5 = some 71 := by unfold TakesNext trained; decide +kernel
theorem test_meets_reply_crc (d : BitVec 12) (n : Nat) : controlGood ⟨0, linkCrc 9 0 d 0 (BitVec.ofNat 2048 n)⟩ 9 d n = true := decide_eq_true rfl
theorem test_meets_legacy :
    let s := { ported { st := 4, gen := 2, legacy := BitVec.ofNat 32 (2 ^ 20) } with card := { coreMap := 1 } }
    Quiet s ∧ (portAt s 0).st = 4 ∧ portIsUp (portAt s 0) = true ∧ (portAt s 0).gen ≠ 3 ∧ (portAt s 0).gen ≠ 0 ∧
    physicalOf s (bits (portAt s 0).legacy 20 6) = none ∧ physicalOf s (0xBFFFFFF / 2 ^ 28 % 64) = some 0 ∧
    aperLocal (0xBFFFFFF % 2 ^ 28) = some 0x1BFFFFFF ∧ routes { s with routers := [(72, { route := [(0, 0x80)] })] } 72 0 = true ∧
    s.fab.oppRx = [] ∧ (portAt run 0).st ≠ 4 := by unfold Quiet; decide

/-! Fault detection and opposition -/

/-- A verdict frame: count 5, tag 7. -/
def verdict : Flit256 := BitVec.ofNat 2048 (5 + 7 * 2 ^ 96)
/-- A module with an up HL3 port and a context of tag 7. -/
def tagged (commits : List W64) : State := { job { commits := commits } with fab := { ports := [(0, { st := 4, gen := 3 })], job := [(0, ⟨0x10007, 0x10007⟩)] } }
theorem test_meets_verdicts :
    Quiet (tagged []) ∧ portIsUp (portAt (tagged []) 0) = true ∧ (portAt (tagged []) 0).gen = 3 ∧ opArg verdict % 65536 = 7 ∧ opCount verdict = 5 ∧
    bit (tagged []).saf.ctrl 1 = true ∧ bit (1 : W32) 1 = false ∧ ((7 : W16), (5 : W64)) ∉ (tagged []).fab.verdictSeen ∧
    jobTag (tagged []) 0 = some 7 ∧ (ctxAt (tagged []) 0).st ≠ .unbound ∧ 5 ∉ (ctxAt (tagged []) 0).commits ∧
    5 ∈ (ctxAt (tagged [5]) 0).commits ∧ portIsUp (portAt run 0) = false := by unfold Quiet; decide +kernel

/-- In opposition on port 15. -/
def opposed (x : Saf) : State := { job {} with fab := { ports := [(15, { ctrl := ⟨6, 6⟩, gen := 3, st := 4 })] }, saf := { x with oppActive := true } }
/-- The second half of a signature: count 5. -/
def sigHalf : Flit256 := BitVec.ofNat 2048 (5 + 2 ^ 72)
theorem test_meets_signatures :
    let s := opposed { peerCount := 5, peerParts := 1, peerServ := some 0, sigSent := true, sigCount := 5 }
    Quiet s ∧ live s = true ∧ fromPeer s 15 = true ∧ fromPeer s 0 = false ∧ opPart sigHalf < 2 ∧ s.saf.peerCount = opCount sigHalf ∧
    s.saf.peerParts ≠ 4 ∧ s.saf.peerParts ||| (opPart sigHalf + 1) = 3 ∧ s.saf.sigSent = true ∧ s.saf.peerCount = s.saf.sigCount ∧
    (List.range 32).all (fun i => decide (opVal sigHalf i = 0)) = true ∧
    (∀ n < 64, s.saf.ownSigs.getD n 0 = tget 0 ((List.range 32).foldl (fun t i => tset 0 t (32 * opPart sigHalf + i) (opVal sigHalf i)) s.saf.peerSigs) n) ∧
    s.saf.peerServ = some s.saf.ownServ ∧ s.saf.frozen = false ∧ (none : Option W32) ≠ some s.saf.ownServ ∧
    (([1] : List W32).getD 0 0 ≠ tget 0 ([] : Tbl W32) 0) := by unfold Quiet; decide +kernel
theorem test_meets_log_chunks :
    let s := opposed { frozen := true, oppCore := 1, oppFirstCnt := 5, peerChunks := 127 }
    fromPeer s 15 = true ∧ s.saf.frozen = true ∧ opPart (BitVec.ofNat 2048 (5 + 2 ^ 72 + 127 * 2 ^ 80)) = s.saf.oppCore ∧
    opCount (BitVec.ofNat 2048 (5 + 2 ^ 72 + 127 * 2 ^ 80)) = s.saf.oppFirstCnt ∧ opIndex (BitVec.ofNat 2048 (5 + 2 ^ 72 + 127 * 2 ^ 80)) < 128 ∧
    128 ≤ opIndex (BitVec.ofNat 2048 (128 * 2 ^ 80)) := by decide +kernel
theorem test_meets_mirror :
    let s := opposed { oppCtrl := 3 }
    Quiet s ∧ following s = true ∧ following (opposed {}) = false ∧ physicalOf s (opItem 0 / 2 ^ 56 % 64) = some 0 ∧ ctxOfCore s 0 = some 0 ∧
    opItem 0 / 2 ^ 62 = 0 ∧ opItem (BitVec.ofNat 2048 (3 * 2 ^ 190)) / 2 ^ 62 = 3 := by unfold Quiet; decide +kernel
/-- A peer that agrees on everything. -/
def peer : OppPeer := ⟨true, true, true, []⟩
theorem test_meets_opposition_enable :
    let s := opposed {}
    isSteward s 0 = true ∧ peer.sameOrder = true ∧ peer.sameResults = true ∧ peer.peerRoleFollow ≠ bit (1 : W32) 1 ∧ peer.peerRoleFollow = bit (3 : W32) 1 ∧
    portOpp (portAt s 15) = true ∧ (portAt s 15).gen = 3 ∧ 2 ≤ (portAt s 15).st ∧ (portAt s 15).st ≤ 4 ∧ keepsCount s = true ∧
    (∀ k < 16, peer.digests.getD k 0 = ctxDigest s k) ∧ ({ peer with digests := [1] }.digests.getD 0 0 ≠ ctxDigest s 0) := by decide
theorem test_meets_choice_ring : bits (7 : W32) 0 5 < 8 ∧ 20 < bits (21 : W32) 0 5 ∧ 8 ≤ bits (8 : W32) 0 5 ∧ bits (20 : W32) 0 5 ≤ 20 ∧
    bit (BitVec.ofNat 32 (2 ^ 31 + 8)) 31 = true ∧ bit run.saf.choiceCfg 31 = false ∧ bit (8 : W32) 31 = false := by decide
theorem test_meets_visits :
    let s := { run with card := { coreMap := 1 }, now := 3600 * 2400000000 * Config.unitsPerSc, cores := [(0, { visited := some 0 })] }
    3600 < (visitAge run).1.toNat ∧ (visitAge s).1.toNat ≤ 3600 ∧ (coreAt run 0).maint = true ∧ (coreAt run 0).mnext = none ∧ run.svc.released = true ∧
    enabledCore { run with card := {} } 0 = false := by decide +kernel
theorem test_meets_checker_silent :
    let s := cored { maint := false, a := frame, x := { frame with done := true } }
    (coreAt s 0).boundary = false ∧ ∃ u, exec (.boundary 0 .access (word 0 0 2 0) none) s = .next u ∧ (coreAt u 0).boundary = true :=
  ⟨by decide, _, rfl, by decide +kernel⟩

/-! Serving -/

/-- A serving declaration of one group with one lane, one shard of one block, and one selection entry. -/
def decl : ServDecl := ⟨0, 512, false, 1, 512, 0, 64, 10, [⟨1, 0, 0⟩], [⟨true, 1, 1, 0, 0, 0⟩], [], [⟨0, 0, 0, 0, 1, 0, 1, 5, 6⟩]⟩
/-- Context 0 runs it and owns group 0. -/
def serving (v : Srv) : State := { job { bolt := some ⟨[], false, 0, 0, some decl, [], false⟩, ranNow := true } with
  srv := { v with groups := [(0, ⟨1, 1⟩)] } }
/-- With lane 0. -/
def laned (x : Lane) : State := serving { lanes := [(0, x)] }

theorem test_meets_selection :
    let s := { serving {} with cores := [(0, { syncs := [(5, ⟨1, 0⟩)] })] }
    Quiet s ∧ (selEntry s 0 0).isSome = true ∧ selEntry s 0 0 = decl.sels.head? ∧ physicalOf s 0 = some 0 ∧ (ctxAt s 0).st = .running ∧
    (syncAt (coreAt s 0) 5).val ≠ 0 ∧ selId 0 0 ∉ s.srv.selRun ∧ (syncAt (coreAt (serving {}) 0) 5).val = 0 ∧ servDecl s 0 = some decl ∧
    decl.groups[0]? = some ⟨true, 1, 1, 0, 0, 0⟩ ∧ selId 0 0 ∈ (serving { selRun := [0] }).srv.selRun ∧
    lineBest ⟨0, 0, 0, 0⟩ 1 0 0 (some (-1, 0)) = some (score ⟨0, 0, 0, 0⟩ 0 0, 0) := by unfold Quiet; decide +kernel
theorem test_meets_lanes_in_step :
    let s := { serving {} with lock := { gated := false }, cores := [(0, { maint := false, syncs := [(5, ⟨1, 0⟩)] })] }
    s.lock.gated = false ∧ (coreAt s 0).maint = false ∧ selEntry s 0 0 = decl.sels.head? ∧ (serving {}).lock.gated = true ∧
    (coreAt (serving {}) 0).badSync.contains 5 = false := by decide +kernel
theorem test_meets_decisions :
    let s := { serving {} with tmp := { run.tmp with working := true } }
    Quiet s ∧ groupCtx s 0 = some 0 ∧ servDecl s 0 = some decl ∧ (groupRec s 0 0).isSome = true ∧ s.tmp.working = true ∧ (ctxAt s 0).ranNow = true ∧
    (ctxAt s 0).parked = false ∧ 0 ∉ s.srv.decided ∧ groupReady s 0 decl 0 (sampledRows s decl 0 ⟨true, 1, 1, 0, 0, 0⟩) = true ∧
    following s = false ∧ (ctxAt s 0).discardNext = false ∧ (serving {}).tmp.working = false := by unfold Quiet; decide +kernel
theorem test_meets_drafts : ([1, 2] : List W32).take 1 = ([1, 3] : List W32).take 1 ∧ ([1, 2] : List W32)[1]? ≠ ([1, 3] : List W32)[1]? := by decide
theorem test_meets_tail_doorbells :
    let s := laned { st := .decoding, head := 5 }
    hostReach s 0 = true ∧ hostReach s 1 = false ∧ (groupCtx s 0).isSome = true ∧ groupCtx s 0 = fnCtx s 0 ∧ fnCtx s 0 = some 0 ∧
    (laneAt s 0).st ≠ .free ∧ (laneAt s 0).tail.toNat ≤ (0 : W64).toNat ∧ (5 : W64).toNat ≤ (laneAt s 0).head.toNat ∧
    (laneAt s 0).head.toNat < (6 : W64).toNat ∧ (laneAt (laned { tail := 1 }) 0).tail.toNat > (0 : W64).toNat ∧ groupCtx s (4096 / 8 / 128) ≠ fnCtx s 0 := by
  decide +kernel
theorem test_meets_groups :
    let s := laned { st := .decoding }
    isSteward s 0 = true ∧ bits s.srv.ctxSel 0 4 = 0 ∧ bit (tget {} s.srv.groups 0).eff 0 = true ∧ bit (0 : W32) 0 = false ∧
    (laneAt s (128 * 0 + 0)).st ≠ .free ∧
    (bit (1 : W32) 0 = true ∧ bit (tget {} (serving { ctxSel := 1 }).srv.groups 0).acc 0 = true ∧ bits (serving { ctxSel := 1 }).srv.ctxSel 0 4 = 1) ∧
    (∀ g < 4, ∀ o < 16, bit (tget {} run.srv.groups o).acc g = false ∧ bit (tget {} run.srv.groups o).eff g = false) := by decide +kernel
theorem test_meets_prompts :
    let s := laned { st := .feeding }
    ctxFn s (laneAt s 0).ctx = some 0 ∧ (laneAt s 0).st = .feeding ∧ (laneAt s 0).fed = false ∧ (laneAt (serving {}) 0).st ≠ .feeding := by decide +kernel
/-- A key. -/
def key : PubKey := ⟨3, 65537⟩
/-- A command. -/
def command (k : CmdKind) (started : Bool) : Cmd := ⟨9, 0, 0, 0, false, 0, k, started, none, false⟩
/-- A patch load of slot 0 in progress. -/
def loading : State := { serving { patches := [(0, { st := .loading, cmd := some 9 })] } with cmds := [command (.patchLoad 0 1 0 64 key 0) false] }
theorem test_meets_patch_images : Quiet loading ∧ (patchAt loading 0).st = .loading ∧ (patchAt loading 0).verified = false ∧
    (patchAt loading 0).cmd = some 9 ∧ findCmd loading 9 = some (command (.patchLoad 0 1 0 64 key 0) false) ∧ (patchAt (serving {}) 0).st ≠ .loading ∧
    loadVerifies ⟨2, 64, 0, 1, keyDigest key⟩ key (sigBlock loading 0 0) (readBytes (hostMem loading 0) 0 64) = false := by unfold Quiet; decide +kernel

/-- An RSA-3072 key, and the signature block of 64 zero bytes under it as generation 1 of patch 0 (R403 to R405), made outside the model. -/
def rsa : PubKey := ⟨BitVec.ofNat 3072 0xd15a965a0ca057a0d5c8188b84899a1c1d6db793b7df67637a6179355a8034af2cfd695d475dcaa8cda0f4460b6ed56e069b8dd81e235a536c0a59a94b70233ef5fa43d0444f035f5507eed47160450f50f2ec4611cdc54b5294f5445a6489b882ad8f57839fe7535b883010816095903f963ebd3ef9ed496b6db5d2d715c32dbdca6b90ad1a55e06cd16384de96ca4236289169ca26718c47bfb927edb43b44dcea61ca4e92e4c30fd2b4ed5b4a2389a79b4402036c74d326ebc5c5af137439480581ab268159524f10af27a3593d1bdb9e1556a3ee09d18c4de65b5a6e1cf0b3eb38e17d9841cb0da4b9f8a0a0a07a1d4cc856cadcc74c78eedd0f4a8beaf8552ed2ca2beb0b95c7fddd7b4cacfcfe4e1d0d4fa3c831528d6789440ad3163e4b862db6ddd9de94fee64ad67570618f71232aee4f6e5be20b52ea6cfd3a4b39c5981d99d01655aba27ca812b88da98e49fce00ec0ef0c691de8756743acada3aacc944cad0ec30669cb6bb9eb0dd9a98c93442a21a1cfa38e34b692adc7adcf, 65537⟩
def signed : List Byte := leBytes 64 (0x53473341 + 2 * 2 ^ 32 + 64 * 2 ^ 64 + 2 ^ 144) ++
  leBytes 64 0x3618319a155c73ec9e9592595819c9602fd9808b4ad102b7be615b1f7aef6ee1 ++
  leBytes 384 0xd14e1189191b86a1ed4e498b345753c88a55e17a12676f60f778dad1260f57f59ad662d411bfd19410330f2024e90ecb39db700478cff10683316de8546833d2f7ab2e1924a7650582b349148e9493bfe21ad9e7b772b0d954c5d97d4ba206d6d5adbc027af25ba2e35a64b2fde6e641bf0458d7db302fc2a1b54dd113f7f44d8f1892ef653559bfa13da2b4e18976d58068511aa3e70f329bbb845acde0ffbc6bfd0cf54036aa7f83b87cbbea57a8d0259ca8ab95b55e2ac554d9c0fc9257241cdfd7355b0b7bb34fa260067abbde908bd8b0a0e6b9dcffa6522c6ad736f7793cc3f21b878109c99e2f5eb3c90d452f9174a2896734bba74d48b69c0e3b1031f15f6b288adcf5a2717ea195770fc6eb4732aae28fb209147ba2ad86a84b97506f6615607a78b71c5d21db97592c51251e1233e95dc4f932d37c280effd5aa01a89dc7df7bc85e2ac1bf1104659566324632b4dc11fb175b8ee742f225339a3f77b3f78ef450443529fce0acf9cb00ffd4c42fdd106e949142077d22ea76af17
set_option maxRecDepth 1000000 in
theorem test_meets_a_good_signature : loadVerifies ⟨2, 64, 0, 1, keyDigest rsa⟩ rsa signed (List.replicate 64 0) = true := by decide +kernel

/-- A lane of a shuttle with chip 3. -/
def shuttling (st : LaneSt) (step : Nat) (x : Lane) : State :=
  { laned { x with st := st, shuttle := { x.shuttle with ident := 8, peer := 3, step := step } } with fab := { job := [(0, ⟨0x10007, 0x10007⟩)] } }
theorem test_meets_offers :
    let s := shuttling .landing 2 { limit := 10 }
    Quiet s ∧ shuttleLane run .landing 3 8 = none ∧ shuttleLane s .landing 3 8 = some 0 ∧ servDecl s (laneAt s 0).ctx = some decl ∧
    (laneAt s 0).shuttle.step = 2 ∧ shuttleTag s 0 6 = false ∧ shuttleTag s 0 7 = true ∧ (0 : W64) = decl.kvfmt ∧ (1 : W64) ≠ decl.kvfmt ∧
    (laneAt s 0).limit ≤ (10 : BitVec 24).toNat ∧ (9 : BitVec 24).toNat < (laneAt s 0).limit ∧
    (laneAt (shuttling .landing 5 {}) 0).shuttle.step ≠ 2 := by unfold Quiet; decide +kernel
theorem test_meets_grants :
    let s := shuttling .shipping 3 { com := { kvlen := 1 } }
    shuttleLane run .shipping 3 8 = none ∧ shuttleLane s .shipping 3 8 = some 0 ∧ (laneAt s 0).shuttle.step = 3 ∧ shuttleTag s 0 7 = true ∧
    shuttleTag s 0 6 = false ∧ ([0] : List W64).length = shipCount decl (laneAt s 0).com.kvlen := by decide +kernel
theorem test_meets_records :
    let s := shuttling .landing 5 {}
    shuttleLane s .landing 3 8 = some 0 ∧ servDecl s (laneAt s 0).ctx = some decl ∧ legacyPeer s 3 = false ∧ (laneAt s 0).shuttle.step = 5 ∧
    shuttleTag s 0 7 = true ∧ recordCause (laneAt s 0) decl (List.replicate 8 1) 0 ≠ 0 := by decide +kernel
/-- A state record of zeros with its CRC. -/
def record : BitVec 1024 := BitVec.ofNat 1024 (leNat (List.replicate 124 0 ++ leBytes 4 (crc32c (List.replicate 124 0)).toNat))
set_option maxRecDepth 200000 in
theorem test_meets_a_good_record : recordCause (laneAt (shuttling .landing 5 {}) 0) decl (leBytes 128 record.toNat) 0 = 0 := by decide +kernel
theorem test_meets_shuttle_acks :
    shuttleLane (shuttling .shipping 6 {}) .shipping 3 8 = some 0 ∧ shuttleTag (shuttling .shipping 6 {}) 0 7 = true ∧ (13 : Byte) ≠ 0 ∧
    (laneAt (shuttling .shipping 6 {}) 0).shuttle.step = 6 ∧ shuttleLane run .shipping 3 8 = none ∧ shuttleLane run .landing 3 8 = none := by decide +kernel
theorem test_meets_shuttle_ends :
    (laneAt (shuttling .shipping 3 {}) 0).st = .shipping ∧ (laneAt (shuttling .landing 5 {}) 0).st = .landing ∧
    (laneAt (shuttling .landing 5 {}) 0).shuttle.step ≠ 6 ∧ (laneAt (shuttling .landing 6 {}) 0).shuttle.step = 6 ∧
    (laneAt run 0).st ≠ .shipping ∧ (laneAt run 0).st ≠ .landing ∧ (laneAt (shuttling .landing 5 { cmd := some 9 }) 0).cmd = some 9 := by decide +kernel

/-! Host commands -/

/-- Function 0 with queue pair 0 of 16 entries each, one new submission entry. -/
def queued (p : QPair) : State := { job {} with fns := [(0, { qp := [(0, { p with qcfg := BitVec.ofNat 32 (2 ^ 31 + 4 + 4 * 16) })] })] }
/-- A header with an opcode. -/
def header (op : Nat) : BitVec 512 := BitVec.ofNat 512 (op * 2 ^ 16)
/-- The operands of an accepted command: the header's opcode is the command's, its reserved fields are zero and its body keeps its rules. -/
def takes (i : Instr) : Bool :=
  match ringCmd i with
  | some (_, _, hdr, op, ok, _) => decide (bits hdr 16 8 = op) && decide (bits hdr 24 7 = 0) && decide (bits hdr 32 480 = 0) && ok
  | none => false
theorem test_meets_acceptance : fetchable (queued { sqTail := 1 }) 0 0 = true ∧ fetchable (queued {}) 0 0 = false ∧
    fetchable (queued { sqTail := 1, open_ := 14 }) 0 0 = true ∧ fetchable (queued { sqTail := 1, open_ := 15 }) 0 0 = false ∧
    live (queued {}) = true := by decide +kernel
theorem test_meets_ring_commands :
    [Instr.hostNop 0 0 (header 0) 0, .admission 0 0 (header 1) (BitVec.ofNat 1536 (4 * 2 ^ 384 + 2 * 2 ^ 128)), .cancel 0 0 (header 2) 0,
     .patchLoad 0 0 (header 3) 1, .patchDrop 0 0 (header 4) 0, .wload 0 0 (header 8) 0, .rdout 0 0 (header 9) 0, .hostcopy 0 0 (header 10) 0,
     .boltLoad 0 0 (header 16) 1, .run 0 0 (header 17) 0, .stop 0 0 (header 18) 0].map takes = List.replicate 11 true ∧
    bits (header 2) 16 8 ≠ 1 ∧ bits (header 256) 24 7 ≠ 0 := by decide +kernel

/-- A context in a state, on cluster 0, with key 0. -/
def ctx0 (st : CtxSt) (x : Ctx) : State :=
  { run with ctxs := [(0, { x with st := st, bind := ⟨0x80000000, 0x80000000⟩, clusters := ⟨1, 1⟩, keys := [(0, some key)] })] }
/-- A RUN or STOP body. -/
def atCount (n : Nat) : BitVec 1536 := BitVec.ofNat 1536 n
theorem test_meets_context_checks : stRunning (ctxAt (ctx0 .running {}) 0).st = true ∧ stRunning (ctxAt (ctx0 .loaded {}) 0).st = false ∧
    ctxGroups run 0 = [] ∧ ctxGroups (serving {}) 0 ≠ [] ∧ following (serving {}) = false ∧
    following { serving {} with saf := { oppActive := true, oppCtrl := 3 } } = true := by decide +kernel
theorem test_meets_run_checks :
    bits (atCount 101) 0 64 < run.tmp.count.toNat + 2 ∧ run.tmp.count.toNat + 2 ≤ bits (atCount 102) 0 64 ∧ keepsCount run = true ∧
    (ctxAt run 0).runAt = none ∧ boltLoading run 0 = false ∧ (ctxAt (ctx0 .loaded { runAt := some 200 }) 0).runAt ≠ none ∧
    boltLoading { run with cmds := [command (.boltLoad 0 1 key 0) false] } 0 = true := by decide +kernel
theorem test_meets_stop_checks :
    let s := { serving {} with tmp := { run.tmp with t := 50 } }
    (ctxAt s 0).bolt = some ⟨[], false, 0, 0, some decl, [], false⟩ ∧ (ctxAt s 0).stopAt = none ∧ bits (atCount 0) 0 64 = 0 ∧
    bits (atCount 49) 0 64 ≠ 0 ∧ bits (atCount 49) 0 64 < s.tmp.t.toNat ∧ s.tmp.t.toNat ≤ bits (atCount 50) 0 64 ∧ bits (atCount 50) 0 64 ≠ 0 := by
  decide +kernel
/-- A WLOAD or RDOUT body: kind, address, length. -/
def load (kind addr len : Nat) : BitVec 1536 := BitVec.ofNat 1536 (kind * 2 ^ 30 + addr * 2 ^ 32 + len * 2 ^ 128)
theorem test_meets_load_checks :
    let s := ctx0 .bound {}
    storeOpen s 0 0 = true ∧ storeOpen s 0 1 = false ∧ inCtx s 0 (wlCore (load 0 0 0)) = some 0 ∧ inCtx run 0 0 = none ∧ wlKind (load 0 0 64) = 0 ∧
    inRegion 0 (wlAddr (load 0 (regionLo 0 + regionLen 0) 64)) 64 = false ∧
    inRegion (wlKind (load 0 (regionLo 0) (regionLen 0))) (wlAddr (load 0 (regionLo 0) (regionLen 0))) (wlLen (load 0 (regionLo 0) (regionLen 0))) = true ∧
    wlLen (load 2 0 1023) % 1024 ≠ 0 ∧ wlLen (load 2 0 1024) % 1024 = 0 ∧ ctxKey s 0 (wlKey (load 0 0 64)) = some key ∧ ctxKey s 0 1 = none := by
  decide +kernel
theorem test_meets_readout_checks :
    inRegion (rdKind (load 0 (regionLo 0) 64)) (rdAddr (load 0 (regionLo 0) 64)) (rdLen (load 0 (regionLo 0) 64)) = true ∧
    (rdoutBytes (ctx0 .bound {}) 0 1 (regionLo 1) 64).2.1 = none ∧
    (rdoutBytes { ctx0 .bound {} with cores := [(0, { fences := [(0, BitVec.ofNat 32 (2 ^ 31))] })] } 0 1 (regionLo 1) 64).2.1 = some 0 := by decide +kernel
theorem test_meets_bolt_checks :
    (∀ l ∈ ctxLanes (serving {}) 0, laneFree (serving {}) l = true) ∧ (0 ∈ ctxLanes (serving {}) 0 ∧ laneFree (laned { st := .decoding }) 0 = false) ∧
    ctxKey (ctx0 .bound {}) 0 (bits (atCount 0) 128 3) = some key ∧ ctxKey run 0 0 = none := by decide +kernel
/-- Context 0 with a pool of one patch slot of 64 KiB. -/
def pooled (ps : Tbl PatchSlot) : State := { ctx0 .running {} with srv := { slotMap := [(0, [0])], perCtx := [(0, { pool := ⟨0x10000, 0x10000⟩ })], patches := ps } }
/-- A PATCH_LOAD body: generation, identifier, length. -/
def patch (gen ident len : Nat) : BitVec 1536 := BitVec.ofNat 1536 (gen + ident * 2 ^ 16 + len * 2 ^ 32)
theorem test_meets_patch_checks :
    plLen (patch 1 1 0) = 0 ∧ plLen (patch 1 1 65536) ≠ 0 ∧ (∀ i ∈ poolSlots run 0, (patchAt run i).st ≠ .free) ∧
    (poolSlots (pooled []) 0).find? (fun i => decide ((patchAt (pooled []) i).st = .free)) = some 0 ∧
    (∀ j ∈ slotsOf (pooled []) 0 1, (patchAt (pooled []) j).gen.toNat < plGen (patch 1 1 64)) ∧
    patchSlotBytes (srvCtxAt (pooled []) 0) < plLen (patch 1 1 65537) ∧ plLen (patch 1 1 65536) ≤ patchSlotBytes (srvCtxAt (pooled []) 0) ∧
    ctxKey (pooled []) 0 (plKey (patch 1 1 64)) = some key ∧ ctxKey (pooled []) 0 1 = none := by decide +kernel
theorem test_meets_patch_generations :
    let s := { pooled [(0, { st := .ready, ident := 1, gen := 5 })] with
      srv := { slotMap := [(0, [0, 1])], perCtx := [(0, { pool := ⟨0x20000, 0x20000⟩ })], patches := [(0, { st := .ready, ident := 1, gen := 5 })] } }
    (poolSlots s 0).find? (fun i => decide ((patchAt s i).st = .free)) = some 1 ∧ 0 ∈ slotsOf s 0 1 ∧ plGen (patch 5 1 64) ≤ (patchAt s 0).gen.toNat ∧
    (∀ i ∈ slotsOf s 0 2, (patchAt s i).st ≠ .ready) := by decide +kernel
/-- A module with a host copy of tag 4 outstanding. -/
def copying : State := { run with svc := { released := true, hostCopies := [⟨4, 7⟩] } }
theorem test_meets_host_copies : isSteward run 1 = false ∧ findTag run (bits (atCount 4) 0 16) = none ∧
    findTag copying (bits (atCount 4) 0 16) = some ⟨4, 7⟩ := by decide +kernel

/-- A WLOAD of 64 B to the store of core 0. -/
def wloading (started : Bool) : State := { ctx0 .bound {} with cmds := [command (.wload 1 0 0 64 0 key 0 none) started] }
theorem test_meets_loads :
    findCmd run 9 = none ∧ findCmd (wloading false) 9 = some (command (.wload 1 0 0 64 0 key 0 none) false) ∧
    findCmd (wloading true) 9 = some (command (.wload 1 0 0 64 0 key 0 none) true) ∧
    wloadWaits (wloading false) (command (.wload 1 0 0 64 0 key 0 none) false) = false ∧
    wloadWaits { run with cmds := [{ command (.wload 1 0 0 64 0 key 0 none) true with id := 8 }] } (command (.wload 1 0 0 64 0 key 0 none) false) = true ∧
    (command (.wload 1 0 0 64 0 key 0 none) true).good = none ∧ { command .other true with good := some 1 }.good = some 1 ∧
    (command .other true).torn = false ∧ { command .other true with torn := true }.torn = true ∧
    spoolFree (coreAt (ctx0 .bound {}) 0) < 2 ^ 32 / 1024 := by decide +kernel
theorem test_meets_bolt_loads :
    findCmd { run with cmds := [command (.boltLoad 0 1 key 0) false] } 9 = some (command (.boltLoad 0 1 key 0) false) ∧
    findCmd { run with cmds := [command (.boltLoad 0 1 key 0) true] } 9 = some (command (.boltLoad 0 1 key 0) true) := by decide +kernel
theorem test_meets_host_copy_expiry : findTag run (4 : W16).toNat = none ∧ findTag copying (4 : W16).toNat = some ⟨4, 7⟩ := by decide +kernel

theorem test_meets_doorbells : hostReach (queued {}) 1 = false ∧ hostReach (queued {}) 0 = true ∧ qpEnabled (qpAt (fnAt (queued {}) 0) 0) = true ∧
    sqSize (qpAt (fnAt (queued {}) 0) 0) ≤ bits (16 : W64) 0 16 ∧ bits (15 : W64) 0 16 < cqSize (qpAt (fnAt (queued {}) 0) 0) ∧
    qpEnabled (qpAt (fnAt run 0) 0) = false ∧ evtEnabled (fnAt { run with fns := [(0, { evtCfg := BitVec.ofNat 32 (2 ^ 31 + 4) })] } 0) = true ∧
    bits (15 : W64) 0 16 < evtSize (fnAt { run with fns := [(0, { evtCfg := BitVec.ofNat 32 (2 ^ 31 + 4) })] } 0) := by decide +kernel
theorem test_meets_vectors : bit (fnAt { run with fns := [(0, { msix := BitVec.ofNat 64 (2 ^ 63) })] } 0).msix 63 = true ∧
    bit (tget 0 (fnAt run 0).msixTable 255) 0 = false ∧ bit (fnAt run 0).msix 0 = false ∧
    bit (tget 0 (fnAt { run with fns := [(0, { msixTable := [(3, 1)] })] } 0).msixTable 3) 0 = true := by decide +kernel
theorem test_meets_vector_times : tget 0 (fnAt run 0).msixNext 63 ≤ run.now ∧
    run.now < tget 0 (fnAt { run with fns := [(0, { msixNext := [(63, 1)] })] } 0).msixNext 63 := by decide +kernel
theorem test_meets_queue_enable :
    let v : W32 := BitVec.ofNat 32 (2 ^ 31 + 12 + 4 * 16)
    qpEnabled (qpAt (fnAt run 0) 0) = false ∧ (qpAt (fnAt run 0) 0).open_ = 0 ∧ 4 ≤ bits v 0 4 ∧ bits v 0 4 ≤ 12 ∧ 4 ≤ bits v 4 4 ∧ bit v 31 = true ∧
    bits (qpAt (fnAt run 0) 0).sqLo 0 12 = 0 ∧ bits (qpAt (fnAt run 0) 0).cqLo 0 12 = 0 ∧ bits (3 : W32) 0 4 < 4 ∧ 12 < bits (13 : W32) 0 4 ∧
    bits (0x34 : W32) 4 4 < 4 ∧ qpEnabled (qpAt (fnAt (queued {}) 0) 0) = true ∧ bit (0 : W32) 31 = false := by decide +kernel

/-! Functions, ports and registers -/

theorem test_meets_bindings :
    let v : W32 := BitVec.ofNat 32 (2 ^ 31)
    isSteward run 0 = true ∧ bits run.ctxSel 0 4 = 0 ∧ bindOk run 0 v = true ∧ bindOk (ctx0 .running {}) 0 v = false ∧
    bindOk run 0 (BitVec.ofNat 32 (2 ^ 31 + 9 * 16)) = false ∧ (ctxAt (ctx0 .loaded {}) 0).st = .loaded ∧ bit v 31 = true ∧
    clustersOk run 0 (bits (0x3FFFF : W32) 0 18) = true ∧ clustersOk (ctx0 .bound {}) 1 (bits (1 : W32) 0 18) = false ∧
    (ctxAt run 0).st = .unbound ∧ (ctxAt (ctx0 .bound {}) 0).st = .bound ∧ (ctxAt (ctx0 .running {}) 0).st = .running := by decide +kernel
theorem test_meets_trace_mode : bit (1 : W32) 2 = false ∧ bit (1 : W32) 0 = true ∧ bit run.glb.traceCtrl 0 = false ∧ run.glb.stewardB = false ∧
    portBBound run = false ∧ portBVfs run = false ∧ portBVfs { run with fns := [(17, { enabled := true })] } = true ∧
    portBBound { run with ctxs := [(15, { bind := ⟨0, 0x80000100⟩ })] } = true ∧ { run.glb with stewardB := true }.stewardB = true := by decide +kernel
theorem test_meets_functions : fnEnabled run 0 = true ∧ fnEnabled run 9 = true ∧ fnEnabled run 1 = false ∧
    run.cmds.filter (fun c => decide (c.fn = 0)) = [] ∧ fnCtx (job {}) 0 = some 0 ∧ perstLow .a run = false ∧
    perstLow .b { run with pwr := { phase := .running, perstB := false } } = true ∧ bit (pcieWord run .a) 7 = false ∧
    bit (pcieWord { run with glb := { pcieA := 0x80 } } .a) 7 = true := by decide +kernel
theorem test_meets_register_writes :
    bar0Decodes run 0 0x2004 = true ∧ bar0Decodes run 0 0x2006 = false ∧ bar0Decodes run 0 0x10000 = false ∧ bar0Decodes run 1 0 = false ∧
    isSteward run 9 = false ∧ bar0Decodes run 9 0x2004 = true ∧ 0x2FFC / 4096 = 2 ∧ 0x3000 / 4096 = 3 ∧ 0x5000 / 4096 = 5 ∧ 0x8FFC / 4096 = 8 ∧
    bar0Decodes run 0 0x8FFC = true ∧ State.reset.svc.released = false := by decide +kernel

/-! The service complex -/

theorem test_meets_service_accesses :
    svcTarget run 0 0xFFFFF 1 = .mem 0xFFFFF ∧ svcTarget run 7 0 64 = .mem 0x700000 ∧ svcTarget run 0 0x100000 1 = .none_ ∧
    svcTarget run 0 0x5000FF8 8 = .maint 0 0xFF8 ∧ svcTarget run 0 0x8000000 4 = .router 0 0 ∧ svcTarget run 0 0x100000FFC0 64 = .local_ 0 0xFFC0 ∧ regionOf 0xFFC0 = .store 0xFFC0 ∧
    (coreAt { run with cores := [(0, { clearing := false })] } 0).clearing = false ∧ run.svc.released = true ∧ Quiet run :=
  ⟨rfl, rfl, rfl, rfl, rfl, rfl, rfl, rfl, rfl, by unfold Quiet; decide⟩
/-- A descriptor that writes the service store. -/
def toStore (len : Nat) : Line := BitVec.ofNat 512 (len + 0x2000000 * 2 ^ 256)
theorem test_meets_service_messages : svcDescStatus run (toStore 64) = 0 ∧ (descOf (toStore 64)).len ≠ 0 ∧ (descOf (toStore 0)).len = 0 ∧
    svcDescStatus run (toStore 0) = 0 ∧ svcDescStatus run (BitVec.ofNat 512 (3 * 2 ^ 28)) ≠ 0 ∧ svcDescStatus run 64 ≠ 0 ∧
    tget false run.svc.msgOpen 0 = false ∧ tget false [((0 : Nat), true)] 0 = true := by decide +kernel
theorem test_meets_reports : run.saf.reports = [] ∧ { run.saf with reports := [{ valid := true }] }.reports = { valid := true } :: [] := by decide +kernel

/-! Identity and security. That a signature verifies under a key of the ROM, whose value is an open constant, no evaluation can show. -/

theorem test_meets_mailbox_commands :
    (mailCmd (.fwDeliver 0 0)).isSome = true ∧ (mailCmd (.keySet 0 0 true)).isSome = true ∧ (mailCmd (.keyClear 0 0)).isSome = true ∧
    (mailCmd (.keyLock 0 0)).isSome = true ∧ (mailCmd (.cardRead 0 0 true)).isSome = true ∧ fnEnabled run 1 = false ∧ fnEnabled run 0 = true ∧
    bit (fnAt run 0).mbResult 31 = false ∧ bit { fnAt run 0 with mbResult := 0x80000000 }.mbResult 31 = true ∧
    bits (0x05000000 : W32) 24 8 = 5 ∧ bit (0x05000000 : W32) 19 = false ∧ bits (0x05000000 : W32) 0 16 = 0 ∧ bit (0x80000 : W32) 19 = true ∧
    [bits (0x01000000 : W32) 24 8, bits (0x02000000 : W32) 24 8, bits (0x03000000 : W32) 24 8, bits (0x04000000 : W32) 24 8] = [1, 2, 3, 4] := by
  decide +kernel
theorem test_meets_firmware :
    run.bsc.stage ≠ 3 ∧ { run.bsc with stage := 3 }.stage = 3 ∧ mbAddr (fnAt run 0) % 4096 = 0 ∧ mbAddr { fnAt run 0 with mbLo := 64 } % 4096 ≠ 0 ∧
    4608 ≤ { fnAt run 0 with mbLen := 4608 }.mbLen.toNat ∧ { fnAt run 0 with mbLen := 4607 }.mbLen.toNat < 4608 ∧
    { fnAt run 0 with mbLen := 25170432 }.mbLen.toNat ≤ 25170432 ∧ 25170432 < { fnAt run 0 with mbLen := 25170433 }.mbLen.toNat ∧
    run.bsc.fwBusy = none ∧ { run.bsc with fwBusy := some (0, 0, 4608) }.fwBusy = some (0, 0, 4608) ∧ fwStatus run (List.replicate 64 0) ≠ 0 ∧
    namedSteward run 0 = true ∧ namedSteward run 9 = false ∧ run.card.svnMin.toNat ≤ (0 : W32).toNat ∧ (0 : W32).toNat < ({ svnMin := 1 } : Card).svnMin.toNat := by decide +kernel
theorem test_meets_keys :
    mayKey (ctx0 .bound {}) 0 0 = true ∧ mayKey run 0 0 = false ∧ mbAddr (fnAt run 0) % 64 = 0 ∧ keyRecord (List.replicate 512 0) = none ∧
    (keyRecord (List.replicate 383 0 ++ [128, 1, 0, 1, 0] ++ List.replicate 124 0)).isSome = true ∧ (ctxAt (ctx0 .bound {}) 0).st ≠ .unbound ∧
    (ctxAt (ctx0 .bound { locked := true }) 0).locked = true ∧ isSteward run 9 = false ∧ fnIsPf 1 = false ∧ fnIsPf 9 = true ∧
    run.card.cardState ≠ 1 := by decide +kernel
/-- An attestation request: version, code, two parameters, and zeros. -/
def request (ver code p1 p2 : Byte) (n : Nat) : List Byte := [ver, code, p1, p2] ++ List.replicate n 0
/-- The operands of an answered request. -/
def asks (s : State) (i : Instr) : Bool :=
  match spdmCmd i with
  | some (p, r, ver, code, len, n) =>
    live s && decide ((r.getD 0 0).toNat = ver) && decide ((r.getD 1 0).toNat = code) && decide (len ≤ r.length) && decide (n ≤ spdmAt s p)
  | none => false
/-- A connection at a step on port A. -/
def connected (n : Nat) : State := { run with bsc := { spdmStep := [(0, n)], idKey := true } }
theorem test_meets_attestation :
    asks run (.getVersion .a (request 0x10 0x84 0 0 0)) = true ∧ asks (connected 1) (.getCapabilities .a (request 0x12 0xE1 0 0 16)) = true ∧
    asks (connected 2) (.negotiateAlgorithms .a (request 0x12 0xE3 0 0 28)) = true ∧ asks (connected 3) (.getDigests .a (request 0x12 0x81 0 0 0)) = true ∧
    asks (connected 3) (.getCertificate .a (request 0x12 0x82 0 0 4)) = true ∧ asks (connected 3) (.challenge .a (request 0x12 0x83 0 0 32)) = true ∧
    asks (connected 3) (.getMeasurements .a (request 0x12 0xE0 1 0 33)) = true ∧ asks (connected 3) (.getMeasurements .a (request 0x12 0xE0 0 0 0)) = true ∧
    spdmAt (connected 1) .a = 1 ∧ 1 < spdmAt (connected 2) .a ∧ spdmAt run .a < 1 ∧ run.bsc.idKey = false ∧ (connected 3).bsc.idKey = true ∧
    (request 0x12 0xE1 0 0 15).length < 20 ∧ ((request 0x11 0xE1 0 0 16).getD 0 0).toNat ≠ 0x12 ∧ ((request 0x12 0xE2 0 0 16).getD 1 0).toNat ≠ 0xE1 := by
  decide +kernel
theorem test_meets_cluster_clear :
    let s := { run with bsc := { clearing := 1 } }
    bit s.bsc.clearing 0 = true ∧ bit s.bsc.clearStarted 0 = false ∧ clusterQuiet s 0 = true ∧ bit run.bsc.clearing 17 = false ∧
    clusterQuiet { s with cores := [(0, { arrivals := [arrived] })] } 0 = false ∧ bit { s.bsc with clearStarted := 1 }.clearStarted 0 = true := by decide +kernel
set_option maxRecDepth 200000 in
theorem test_meets_slow_writes :
    let s := { ported { rxFlits := [flit 0 true] } with bsc := { clearing := 1 } }
    Quiet s ∧ (portAt s 0).rxFlits = [flit 0 true] ∧ (∀ j < 16, j ≠ 0 → (portAt s j).rxFlits = []) ∧ sideVc (flit 0 true).side < 2 ∧
    sideCls (flit 0 true).side < 4 ∧ slowWrite s 17 (flit 0 true) [flit 0 true] = none ∧ (∀ p < 16, (portAt run p).rxFlits = []) ∧
    (slowWrite s 0 ⟨0, 0, 0, 0, BitVec.ofNat 2048 (0xFFF * 2 ^ 52), 0⟩ [⟨0, 0, 0, 0, BitVec.ofNat 2048 (0xFFF * 2 ^ 52), 0⟩]).isSome = true := by
  unfold Quiet; decide +kernel

set_option maxRecDepth 200000 in
theorem test_meets_slow_writes_end :
    let f : FabFlit := ⟨0, 0, 0, 0, BitVec.ofNat 2048 (0xFFF * 2 ^ 52), 0⟩
    let s := { ported { rxFlits := [f] } with bsc := { clearing := 1 } }
    (match slowWrite s 0 f [f] with
     | some h =>
       let dead := { f with payload := BitVec.ofNat 2048 (leNat ({ h with op := 2, daddr := gaMake 0xFFF 0xFE 0, hops := 15 } : Hdr).bytes) }
       let u := settleOne (setPort s 0 { portAt s 0 with rxFlits := [dead] }) ⟨h.saddr, h.msgid, 8, 0xFF⟩
       (List.range 16).all (fun j => decide ((portAt u j).rxFlits = if j = 0 then [dead] else []))
     | none => false) = true := by decide +kernel

/-! Published check values: CRC-32C and CRC-16 of "123456789", SHA-256 of "abc", Philox4x32-10 of zeros -/

def digits : List Byte := [0x31, 0x32, 0x33, 0x34, 0x35, 0x36, 0x37, 0x38, 0x39]
theorem test_crc32c : crc32c digits = 0xE3069283 := by decide +kernel
theorem test_line_crc : lineCrc digits = 0x29B1 := by decide +kernel
set_option maxRecDepth 200000 in
theorem test_sha256 : (sha256 [0x61, 0x62, 0x63]).take 4 = [0xBA, 0x78, 0x16, 0xBF] := by decide +kernel
theorem test_philox : (philox 0 0 0 0 0 0).1 = 0x6627E8D5 := by decide +kernel

end Sys2Proof.Machine.Tests
end

/-! PROOFS for the scope: the byte memories and the state after reset. -/

namespace Sys2Proof.Machine

/-- The frame of a little-endian write (R11). -/
theorem readByte_writeLe_outside {m : Mem} (h : Mem.wf m) {a n i : Nat} (v : Nat) (hi : i < a ∨ a + n ≤ i) :
    readByte (writeLe m a n v) i = readByte m i :=
  readByte_writeBytes_outside h (leBytes n v) (by rwa [leBytes_length])

/-- The stores and tiers start empty, which stands for all zero (R169, R195). -/
theorem wf_nil : Mem.wf [] := ⟨.nil, List.forall_mem_nil _⟩

/-- Settles O8: the form of the sparse table is kept by each write, and its lookups tell its contents apart. -/
theorem memoryKeepsItsFormAndReadsBack : Obligations.MemoryKeepsItsFormAndReadsBack := by
  intro m hm
  refine ⟨⟨?form, ?formLe, ?formZero, ?formReset⟩, ?readBack, ?extensional⟩
  case form => exact writeBytes_wf hm
  case formLe => exact writeLe_wf hm
  case formZero => exact zeroBytes_wf hm
  case formReset => exact wf_nil
  case readBack => exact fun a n v => ⟨readLe_writeLe hm a n v, fun _ hi => readByte_writeLe_outside hm v hi⟩
  case extensional => exact fun m' hm' he => tget_ext m m' hm hm' he

/-- No context is listed in the reset state, so each is at its default (R17). -/
theorem ctxAt_reset (k : Nat) : ctxAt State.reset k = {} := rfl

/-- TMP_CTRL.EN is clear at reset (Table 2.9), whatever count the module may hold. -/
theorem not_keepsCount_reset : keepsCount State.reset = false := by
  have hen : bit State.reset.tmp.ctrl 0 = false := by decide
  rw [keepsCount, hen, Bool.false_and]

/-- The pins' levels at reset (Table 15.3, R423). -/
theorem driven_reset : Driven State.reset := ⟨rfl, rfl, rfl⟩

/-- Settles O3: each register's field has its Reset column as default; the contexts, the tempo count and the pins by the lemmas above. -/
theorem resetIsModuleReset : Obligations.ResetIsModuleReset := by
  have unbound (k : CtxId) : (ctxAt State.reset k).st = .unbound := by rw [ctxAt_reset]
  exact ⟨rfl, rfl, rfl, rfl, rfl, rfl, rfl, rfl, rfl, rfl, rfl, unbound, not_keepsCount_reset, driven_reset⟩

end Sys2Proof.Machine

/-! PROOFS for the scope: mesh positions, clusters and logical core numbers (01). -/

namespace Sys2Proof.Machine

/-! ### Mesh positions (R22) -/

theorem coreX_lt (c : Nat) : coreX c < 12 := Nat.mod_lt c (by decide)

theorem coreY_lt (c : CoreId) : coreY c < 6 := Nat.div_lt_of_lt_mul c.isLt

/-- A physical core ID is the one of its mesh position. -/
theorem position_coreId (c : Nat) : 12 * coreY c + coreX c = c := Nat.div_add_mod c 12

theorem neighbourOf_north (c : Nat) :
    neighbourOf c 0 = if coreY c < 5 then some (12 * (coreY c + 1) + coreX c) else none :=
  ite_congr rfl (fun _ : coreY c < 5 => congrArg some (by have := position_coreId c; omega)) fun _ => rfl

theorem neighbourOf_east (c : Nat) :
    neighbourOf c 1 = if coreX c < 11 then some (12 * coreY c + (coreX c + 1)) else none :=
  ite_congr rfl (fun _ : coreX c < 11 => congrArg some (by have := position_coreId c; omega)) fun _ => rfl

/-- Here and to the west the subtraction does not cut off, since the guard leaves a row or a column on that side. -/
theorem neighbourOf_south (c : Nat) :
    neighbourOf c 2 = if 0 < coreY c then some (12 * (coreY c - 1) + coreX c) else none :=
  ite_congr rfl (fun _ : 0 < coreY c => congrArg some (by have := position_coreId c; omega)) fun _ => rfl

theorem neighbourOf_west (c : Nat) :
    neighbourOf c 3 = if 0 < coreX c then some (12 * coreY c + (coreX c - 1)) else none :=
  ite_congr rfl (fun _ : 0 < coreX c => congrArg some (by have := position_coreId c; omega)) fun _ => rfl

/-- Settles O9: a core ID is quotient and remainder by 12, and each neighbour's ID is the one of its position. -/
theorem coresLieInTheMesh : Obligations.CoresLieInTheMesh := fun c =>
  ⟨coreX_lt c, coreY_lt c, (position_coreId c).symm,
    neighbourOf_north c, neighbourOf_east c, neighbourOf_south c, neighbourOf_west c⟩

/-! ### Clusters (R23) -/

theorem clusterOf_lt (c : CoreId) : clusterOf c < 18 := by
  have hx := coreX_lt c
  have hy := coreY_lt c
  rw [clusterOf]; omega

/-- The cluster's list holds just the cores whose cluster number it is. -/
theorem mem_clusterCores_iff (e k : Nat) : e ∈ clusterCores k ↔ clusterOf e = k := by
  simp only [clusterCores, List.mem_cons, List.not_mem_nil, or_false, clusterOf, coreX, coreY]
  omega

/-- The cluster number tells the two halved coordinates apart, since x div 2 is below 6. -/
theorem clusterOf_eq_iff (e c : Nat) :
    clusterOf e = clusterOf c ↔ coreX e / 2 = coreX c / 2 ∧ coreY e / 2 = coreY c / 2 := by
  have hxe := coreX_lt e
  have hxc := coreX_lt c
  rw [clusterOf, clusterOf]; omega

/-- Settles O10: membership is having the cluster's number, and that number is the pair of halved coordinates. -/
theorem clustersHoldFourCores : Obligations.ClustersHoldFourCores :=
  ⟨fun c => ⟨rfl, clusterOf_lt c, rfl, fun e => (mem_clusterCores_iff e _).trans (clusterOf_eq_iff e c)⟩, rfl, rfl⟩

/-! ### Logical core numbers (R24) -/

section LogicalNumbers

variable {s : State} {c d n : Nat}

theorem lt_of_enabledCore (hc : enabledCore s c = true) : c < 72 :=
  of_decide_eq_true (Bool.and_eq_true_iff.mp hc).1

/-- A logical number counts the enabled cores of lower physical ID. -/
theorem logicalOf_eq_count (s : State) (c : Nat) : logicalOf s c = Nat.count (enabledCore s · = true) c := by
  simp [logicalOf, Nat.count, List.countP_eq_length_filter]

theorem logicalOf_lt_logicalOf (hc : enabledCore s c = true) (hcd : c < d) : logicalOf s c < logicalOf s d := by
  rw [logicalOf_eq_count, logicalOf_eq_count]
  exact Nat.count_strict_mono hc hcd

theorem lt_of_logicalOf_lt (h : logicalOf s c < logicalOf s d) : c < d := by
  rw [logicalOf_eq_count, logicalOf_eq_count] at h
  exact Nat.lt_of_count_lt_count h

/-- An enabled core stands in the list of enabled cores just after those of lower ID. -/
theorem enabledCores_eq_append (hc : enabledCore s c = true) :
    ∃ above, enabledCores s = (List.range c).filter (enabledCore s) ++ c :: above := by
  obtain ⟨k, hk⟩ : ∃ k, 72 = c + (k + 1) := ⟨71 - c, by have := lt_of_enabledCore hc; omega⟩
  refine ⟨(((List.range k).map Nat.succ).map (c + ·)).filter (enabledCore s), ?_⟩
  rw [enabledCores, hk, List.range_add, List.range_succ_eq_map, List.filter_append, List.map_cons, Nat.add_zero,
    List.filter_cons_of_pos hc]

theorem physicalOf_logicalOf (hc : enabledCore s c = true) : physicalOf s (logicalOf s c) = some c := by
  obtain ⟨above, h⟩ := enabledCores_eq_append hc
  simp [physicalOf, logicalOf, h]

theorem lt_coreCount_of_physicalOf (h : physicalOf s n = some c) : n < coreCount s :=
  (List.getElem?_eq_some_iff.mp h).1

theorem enabledCore_of_physicalOf (h : physicalOf s n = some c) : enabledCore s c = true :=
  List.of_mem_filter (List.mem_of_getElem? h)

theorem exists_physicalOf (hn : n < coreCount s) : ∃ c, physicalOf s n = some c :=
  ⟨_, List.getElem?_eq_getElem hn⟩

/-- No core stands twice in the list of enabled cores, so a core has one logical number. -/
theorem logicalOf_of_physicalOf (h : physicalOf s n = some c) : logicalOf s c = n := by
  have back := physicalOf_logicalOf (enabledCore_of_physicalOf h)
  have nodup : (enabledCores s).Nodup := List.nodup_range.filter _
  exact (List.getElem?_inj (lt_coreCount_of_physicalOf back) nodup).mp (back.trans h.symm)

end LogicalNumbers

/-- Settles O11: a core's logical number is its place in the ascending list of the enabled cores. -/
theorem logicalNumbersAscend : Obligations.LogicalNumbersAscend := by
  intro s
  refine ⟨?numbered, ?taken, ?ascending⟩
  case numbered =>
    intro c hc
    have back := physicalOf_logicalOf hc
    exact ⟨lt_coreCount_of_physicalOf back, back⟩
  case taken =>
    intro n hn
    obtain ⟨c, h⟩ := exists_physicalOf hn
    exact ⟨c, h, enabledCore_of_physicalOf h, logicalOf_of_physicalOf h⟩
  case ascending => exact fun c d hc _ => ⟨logicalOf_lt_logicalOf hc, lt_of_logicalOf_lt⟩

end Sys2Proof.Machine

/-! PROOFS for the tempo and the schedule contract (02): register writes by function, clear registers, pulses, the tempo edge, markers, tempo
lost, the TMP registers, and what routers do of themselves (08). -/

namespace Sys2Proof.Machine

/-! ### Register writes of the steward PF -/

theorem stewardDo_other {s : State} {f : FnId} (ho : isSteward s f = false) (g : State → State) : stewardDo s f g = s :=
  if_neg (Bool.eq_false_iff.1 ho)

theorem stewardDo_steward {s : State} {f : FnId} (ho : isSteward s f = true) (g : State → State) : stewardDo s f g = g s := if_pos ho

/-- A command whose effect is guarded by the steward PF and settles. -/
theorem ignored_of_done {s : State} {f : FnId} {c : Instr} {g : State → State} (ho : isSteward s f = false) (q : Quiet s)
    (e : exec c s = done s (fun s => stewardDo s f g)) : exec c s = .next (if live s then answer s s else s) :=
  e.trans (done_id q _ (stewardDo_other ho g))

/-- A command whose effect is guarded by the steward PF and leaves nothing to settle. -/
theorem ignored_of_plain {s : State} {f : FnId} {c : Instr} {g : State → State} (ho : isSteward s f = false)
    (e : exec c s = plain s (fun s => stewardDo s f g)) : exec c s = .next (if live s then answer s s else s) :=
  e.trans (plain_id _ (stewardDo_other ho g))

theorem tirClear_other {s : State} {f : FnId} (v : W32) (ho : isSteward s f = false) :
    exec (.tirClear f v) s = .next (if live s then answer s s else s) :=
  plain_id (fun s => if isSteward s f && bit v 0 then updTiers s clearTir else s) (if_neg (by simp [ho]))

/-- Settles O7: each of the 24 commands guards its whole effect by the writing function. -/
theorem otherFunctionsWritesAreIgnored : Obligations.OtherFunctionsWritesAreIgnored := by
  intro c f s hc ho q
  cases c with
  | tempoResume _ _ | tempoEnable _ _ | portGenMaxSet _ _ | portEnableSet _ _ | portOppositionSet _ _ | openingStart _ _ | epochCommand _ _
  | snapshotArm _ _ => cases hc; exact ignored_of_done ho q rfl
  | variantAnnounce _ _ | tmpClear _ _ | domainResetFlood _ _ | fabRouteCommit _ _ | fabClear _ _ | srvGroupsWrite _ _ | contextBind _ _
  | partitionWrite _ _ | forceStop _ _ | traceModeRequest _ _ | oppositionEnable _ _ _ | choiceRingEnable _ _ | safClear _ _
  | stewardReset _ _ | pwrClear _ _ => cases hc; exact ignored_of_plain ho rfl
  | tirClear _ _ => cases hc; exact tirClear_other _ ho
  | _ => cases hc

/-! ### Clear registers -/

/-- A clear register of the steward PF, written by it with its bit set. -/
theorem plain_steward {s t : State} {f : FnId} {c : Instr} {g : State → State} (hl : live s = true) (ho : isSteward s f = true)
    (e : exec c s = plain s (fun s => stewardDo s f g)) (eg : g s = t) : exec c s = .next (answer s t) :=
  e.trans (plain_eq hl ((if_pos ho).trans eg))

theorem clearFab_steps (s : State) {u : State} (hu : u = forAll (List.range 16) s (fun s p => setPort s p { portAt s p with crcN := 0, downs := 0 })) :
    clearFab s = { u with fab := { u.fab with msgLast := setBits u.fab.msgLast 0 16 0 } } := by subst hu; rfl

/-- Clearing the engines' counts leaves what the high-water marks are taken from. -/
theorem clearCoreCounts_eq (x : Core) {z : Core → Nat → Core}
    (hz : z = (fun x e => setEngine x e { engineAt x e with satCount := 0, rampShort := 0 })) :
    clearCoreCounts x = { z (z (z (z x 0) 1) 2) 3 with sbHigh := sbUsed x, gatherHigh := x.gather.length } := by subst hz; rfl

/-- Settles O19: each is a plain write guarded by its function and its bit. -/
theorem clearRegistersClearTheirCounters : Obligations.ClearRegistersClearTheirCounters := by
  intro s fn val hl hb
  refine ⟨fun hs => ⟨?pwr, ?tir, ?saf, ?tmp, ?fab⟩, ?hq, ?srv, ?rtr, ?core, ?coreOther⟩
  case pwr => exact plain_steward hl hs rfl (if_pos hb)
  case tir => exact plain_eq hl (if_pos (by rw [hs, hb]; rfl))
  case saf => exact plain_steward hl hs rfl (if_pos hb)
  case tmp =>
    rintro _ _ rfl rfl
    exact plain_steward hl hs rfl (if_pos hb)
  case fab =>
    intro u hu
    exact plain_steward hl hs rfl ((if_pos hb).trans (clearFab_steps s hu))
  case hq => exact fun hr => plain_eq hl (if_pos (by rw [hr, hb]; rfl))
  case srv =>
    intro k hr hk
    refine plain_eq hl ?_
    simp only [hk, hr, hb, Bool.and_self, if_true]
    rfl
  case rtr => exact fun r hr => plain_eq hl (if_pos (by rw [hr, hb]; rfl))
  case core =>
    intro c z hc hz
    refine plain_eq hl ((if_pos (by rw [hc, hb]; rfl)).trans ?_)
    rw [updCore, clearCoreCounts_eq _ hz]
  case coreOther => exact fun c rq hrq => plain_eq hl (if_neg (by simp [hrq]))

/-! ### Pulses -/

@[simp] theorem atLeast_tmp (s : State) (n : Nat) : (atLeast s n).tmp = s.tmp := rfl
@[simp] theorem atLeast_fab (s : State) (n : Nat) : (atLeast s n).fab = s.fab := rfl

/-- Wall time and the tempo unit are no part of what a fault spares. -/
theorem spared_atLeast (s : State) (n : Nat) : Spared s (atLeast s n) := ⟨rfl, rfl, rfl, rfl, rfl, rfl, rfl, rfl, rfl, rfl, rfl, rfl⟩
theorem spared_updTmp (s : State) (f : Tmp → Tmp) : Spared s (updTmp s f) := ⟨rfl, rfl, rfl, rfl, rfl, rfl, rfl, rfl, rfl, rfl, rfl, rfl⟩

/-- The tempo unit once a pulse has come at a time and counts. -/
def pulsed (at_ : Nat) (x : Tmp) : Tmp := { x with pulseSeen := true, expect := true, pulseAt := at_, count := x.count + 1 }

/-- `s` when a pulse `r` RCLK cycles after the last one has come within its window. -/
def pulseCounted (s : State) (r : Nat) : State := updTmp (atLeast s (pulseTime s r)) (pulsed (pulseTime s r))

theorem spared_pulseCounted (s : State) (r : Nat) : Spared s (pulseCounted s r) := (spared_atLeast s _).trans (spared_updTmp _ _)

theorem pulse_inWindow {s : State} {r : Nat} (hc : countsPulses s = true) (hw : inWindow s r = true) : pulse s r = takePulse (pulseCounted s r) :=
  pulse_good hc hw

/-- Outside a worked tempo a pulse is acted on; with no resume pending and no variant missing, only a tempo edge follows. -/
theorem takePulse_idle {s : State} (hw : s.tmp.working = false) (hr : s.tmp.resumeAt = none) (hu : s.tmp.unavailAt = none) :
    takePulse s = updTmp s (fun t => { t with edgeDue := true }) := by
  simp [takePulse, actOnPulse, resumeNow, unavailNow, hw, hr, hu]

/-- An inner pulse of a worked tempo is only counted. -/
theorem takePulse_inner {s : State} (hw : s.tmp.working = true) (hp : s.tmp.pulses + 1 < s.tmp.stride) (hd : s.pwr.deferred = 0) :
    takePulse s = updTmp s (fun t => { t with pulses := t.pulses + 1 }) := by
  simp only [takePulse, hw, hp, if_true]
  exact startDeferred_none hd

/-- Settles O20: `takePulse` on the counted pulse, idle or inside a worked tempo. -/
theorem aPulseAdvancesTheCount : Obligations.APulseAdvancesTheCount := by
  intro s r hc hw q
  obtain ⟨hl, _⟩ := counts_cases hc
  refine ⟨fun hwork hr hu => ?idle, fun hwork hp hd => ?inner⟩
  case idle => exact done_eq hl ((pulse_inWindow hc hw).trans (takePulse_idle hwork hr hu)) q
  case inner => exact done_eq hl ((pulse_inWindow hc hw).trans (takePulse_inner hwork hp hd)) q

/-! ### Pulse faults -/

theorem lostFault_quiet {s : State} (q : Quiet s) {cause : Nat} (hc : cause < 32) (code sk si low : Nat) :
    Quiet (lostFault s cause code sk si low) := by
  obtain ⟨hlost, -, -, -, hdue, hended, -⟩ := lostFault_spec s cause code sk si low hc
  exact q.of_eq hdue hended hlost.spared.msgs

/-- A pulse of a kept count adds one to it, where no epoch alignment is in progress. -/
theorem countPulse_kept {s : State} (hc : s.tmp.haveCount = true) (hd : s.fab.epochDue = false) (hk : s.fab.epochKept = none)
    (hm : s.tmp.keptMarker = none) : countPulse s = updTmp s (fun t => { t with count := t.count + 1 }) := by
  simp [countPulse, hc, hd, hk, hm]

/-- The tempo unit after a pulse fault. -/
theorem pulseFault_tmp (s : State) (kind : Nat) :
    (pulseFault s kind).tmp = { s.tmp with status := orBit (orBit s.tmp.status 11) 2, lost := true, resumeAt := none } :=
  (lostFault_spec s 2 0x18 3 0 _ (by decide)).2.1

theorem pulseFault_lost (s : State) (kind : Nat) : TempoLost s (pulseFault s kind) 2 0x18 := (lostFault_spec s 2 0x18 3 0 _ (by decide)).1

theorem pulseFault_quiet {s : State} (q : Quiet s) (kind : Nat) : Quiet (pulseFault s kind) :=
  lostFault_quiet q (by decide) _ _ _ _

/-- A pulse outside its window: the fault comes first, and then it counts as any other. -/
theorem pulse_outOfWindow {s : State} {r : Nat} (hc : countsPulses s = true) (hw : inWindow s r = false) :
    pulse s r = takePulse (updTmp (pulseFault (atLeast s (pulseTime s r)) 0) (pulsed (pulseTime s r))) := by
  obtain ⟨_, hen, hcount, hdue, hkept, hmarker⟩ := counts_cases hc
  obtain ⟨-, -, -, -, -, -, hdue', hkept'⟩ := lostFault_spec (atLeast s (pulseTime s r)) 2 0x18 3 0 (0 * 2 ^ 42) (by decide)
  have hcounted : countPulse (updTmp (pulseFault (atLeast s (pulseTime s r)) 0) (fun t =>
      { t with pulseSeen := true, expect := true, pulseAt := pulseTime s r })) =
      updTmp (pulseFault (atLeast s (pulseTime s r)) 0) (pulsed (pulseTime s r)) :=
    countPulse_kept (by simp [pulseFault_tmp, hcount]) (hdue'.trans hdue) (hkept'.trans hkept) (by simp [pulseFault_tmp, hmarker])
  have hpulse : pulse s r = (let u := countPulse (updTmp (pulseFault (atLeast s (pulseTime s r)) 0) (fun t =>
      { t with pulseSeen := true, expect := true, pulseAt := pulseTime s r })); if u.tmp.haveCount then takePulse u else u) := by
    unfold pulse
    simp only [hen, window_bad' hw, Bool.not_true, Bool.false_eq_true, if_false, if_true]
    rfl
  rw [hpulse, hcounted]
  exact if_pos (by simp [pulseFault_tmp, pulsed, hcount])

/-- A change of the tempo unit that leaves the mode, the resume count and the status keeps what a fault has led to. -/
theorem TempoLost.thenTmp {s t : State} {cause code : Nat} (h : TempoLost s t cause code) (f : Tmp → Tmp)
    (hf : ∀ x, (f x).lost = x.lost ∧ (f x).resumeAt = x.resumeAt ∧ (f x).status = x.status) : TempoLost s (updTmp t f) cause code :=
  h.then_ (spared_updTmp t f) (hf _) rfl rfl

/-- Settles O21: each of the three is `pulseFault`, whose tempo lost the count, the pulse's time and the awaited pulse do not touch. -/
theorem aPulseFaultLosesTheTempo : Obligations.APulseFaultLosesTheTempo := by
  refine ⟨?outside, ?missing, ?high⟩
  case outside =>
    intro s r hc hw hwork hu q
    have hpulse := (pulse_outOfWindow hc hw).trans (takePulse_idle (by simp [pulseFault_tmp, pulsed, hwork])
      (by simp [pulseFault_tmp, pulsed]) (by simp [pulseFault_tmp, pulsed, hu]))
    have hcounted := (pulseFault_lost (atLeast s (pulseTime s r)) 0).thenTmp (pulsed (pulseTime s r)) (fun _ => ⟨rfl, rfl, rfl⟩)
    have hedge := hcounted.thenTmp (fun t => { t with edgeDue := true }) (fun _ => ⟨rfl, rfl, rfl⟩)
    refine ⟨_, done_eq (counts_cases hc).1 hpulse (pulseFault_quiet (s := atLeast s (pulseTime s r)) q 0), ?_, ?_⟩
    · exact (hedge.after (spared_atLeast s _) rfl rfl ⟨rfl, rfl, rfl, rfl⟩).answer
    · simp [pulseFault_tmp, pulsed]
  case missing =>
    intro s hl hen hexp q
    refine ⟨_, done_eq hl (if_pos (by rw [hen, hexp]; rfl)) (pulseFault_quiet (by exact q) 1), ?_, ?_, ?_⟩
    · exact ((pulseFault_lost _ 1).after ((spared_atLeast s _).trans (spared_updTmp _ _)) rfl rfl ⟨rfl, rfl, rfl, rfl⟩).answer
    · simp [pulseFault_tmp]
    · simp [pulseFault_tmp]
  case high =>
    intro s hl hen q
    refine ⟨_, done_eq hl (if_pos hen) (pulseFault_quiet q 2), (pulseFault_lost s 2).answer, ?_⟩
    simp [pulseFault_tmp]

/-! ### A held tempo -/

/-- The tempo unit as a held tempo leaves it. -/
def heldTmp (x : Tmp) : Tmp :=
  { x with held := true, pulses := x.pulses + 1, heldTotal := satAdd x.heldTotal 1, status := orBit x.status 1 }

/-- A hold changes the tempo unit, counts a choice, and leaves the contexts; its choice record and its trace reach only host memory. -/
theorem holdPulse_spec {s : State} (hd : s.pwr.deferred = 0) :
    Calm (updTmp s heldTmp) (holdPulse s) ∧ (holdPulse s).ctxs = s.ctxs ∧ (holdPulse s).saf.choiceTotal = s.saf.choiceTotal + 1 := by
  obtain ⟨hchoice, hctxs, htotal⟩ := choice_spec (updTmp s heldTmp) 5 0 0 0 s.tmp.count
  obtain ⟨htctxs, htsaf⟩ := trace_ctxs (choice (updTmp s heldTmp) 5 0 0 0 s.tmp.count) 3 0xFF 0 0
  have hcalm := hchoice.trans (trace_calm (choice (updTmp s heldTmp) 5 0 0 0 s.tmp.count) 3 0xFF 0 0)
  have heq : holdPulse s = trace (choice (updTmp s heldTmp) 5 0 0 0 s.tmp.count) 3 0xFF 0 0 :=
    startDeferred_none ((congrArg Pwr.deferred hcalm.pwr).trans hd)
  rw [heq]
  exact ⟨hcalm, htctxs.trans hctxs, (congrArg Saf.choiceTotal htsaf).trans htotal⟩

/-- A pulse that would end a worked tempo whose overrun is asserted or received is skipped. -/
theorem takePulse_held {s : State} (hw : s.tmp.working = true) (hp : s.tmp.stride ≤ s.tmp.pulses + 1) (hn : holdsNow s = true) :
    takePulse s = holdPulse s := by
  rw [takePulse, if_pos hw, if_neg (Nat.not_lt.2 hp), if_pos hn]

/-- Settles O22: the counted pulse is a hold, whose choice and trace records reach only host memory. -/
theorem aHeldPulseIsSkipped : Obligations.AHeldPulseIsSkipped := by
  intro s r hc hw q hd hwork hp hheld hlost hover
  have hn : holdsNow (pulseCounted s r) = true := by simpa [holdsNow, pulseCounted, pulsed, hheld, hlost] using hover
  obtain ⟨hcalm, hctxs, htotal⟩ := holdPulse_spec (s := pulseCounted s r) hd
  have hpulse := (pulse_inWindow hc hw).trans (takePulse_held hwork hp hn)
  have hspared := ((spared_pulseCounted s r).trans (spared_updTmp _ heldTmp)).trans hcalm.spared
  exact ⟨_, done_eq (counts_cases hc).1 hpulse (hcalm.quiet q), hspared.answer, htotal, hctxs, hcalm.tmp⟩

/-! ### The tempo edge -/

theorem mayBegin_iff (s : State) : mayBegin s = true ↔ s.tmp.lost = false ∧ s.fab.snapStop = false := by simp [mayBegin]

theorem tempoEdge_begins_or_not (v : State) : (if mayBegin v then beginWork v else beginNone v) =
    if v.tmp.lost = false ∧ v.fab.snapStop = false then beginWork v else beginNone v := by simp only [mayBegin_iff]

/-- The checks and records of an ended worked tempo leave its count, the tempo count and the mode. -/
theorem endTempo_tmp (u : State) : ∃ v, Same u v ∧ (endTempo u).tmp = { pruneMarkers v.tmp with
    lastT := v.tmp.t, ended := true, working := false, held := false, devs := [], commitDue := true } := by
  unfold endTempo
  extract_lets a ks b c d
  have ha : Same u a := (endChecks_same u).trans (takeThrottle_same _)
  have hb : Same u b := ha.trans (forAll_same' _ _ _ (fun x l => updLane_same x l _))
  have hc : Same u c := hb.trans (forAll_same' _ _ _ (fun x k => updCtx_same x k _))
  have hd : Same u d := by
    unfold d
    split
    · exact hc.trans (updSaf_same c _)
    · exact hc
  exact ⟨d, hd, rfl⟩

theorem endTempo_ends (u : State) : (endTempo u).tmp.working = false ∧ (endTempo u).tmp.ended = true ∧ (endTempo u).tmp.lastT = u.tmp.t ∧
    (endTempo u).tmp.count = u.tmp.count ∧ (endTempo u).tmp.lost = u.tmp.lost := by
  obtain ⟨v, ⟨ht, hcount, hlost⟩, e⟩ := endTempo_tmp u
  rw [e]
  exact ⟨rfl, rfl, ht, hcount, hlost⟩

/-! A worked tempo that begins -/

/-- The tempo unit and the lock set begin anew; a change of variant before it does not touch the count. -/
theorem beginTempo_beg (s : State) : Beg s.tmp.count (beginTempo s) := by
  obtain ⟨v, l, htmp, -⟩ := switchVariant_tmp s s.tmp.count.toNat
  have hcount : (switchVariant s s.tmp.count.toNat).tmp.count = s.tmp.count := by rw [htmp]
  exact ⟨⟨rfl, hcount, hcount⟩, ⟨rfl, rfl, rfl, rfl⟩, rfl⟩

theorem withholdStanding_kept (s : State) : Kept s (withholdStanding s) := by
  unfold withholdStanding
  refine (forAll_kept _ _ _ (fun u k => forAll_kept _ _ _ (fun u c => (markCtx_calm u k _ _ _).kept))).trans (forAll_kept _ _ _ (fun u m => ?_))
  split
  · split
    · exact (markCtx_calm u _ _ _ _).kept
    · exact Kept.refl u
  · exact Kept.refl u

theorem withholdNext_beg {n : W64} {s : State} (h : Beg n s) : Beg n (withholdNext s) := by
  unfold withholdNext
  split
  · refine Beg.kept (s := updTmp s (fun t => { t with checkNext := none })) h (forAll_kept _ _ _ (fun u k => ?_))
    have hmark := (markCtx_calm u k [u.tmp.t] ‹Nat› 0x23).kept
    extract_lets w
    split
    · split
      · exact hmark.trans (sendVerdict_calm w _ _).kept
      · exact hmark
    · exact hmark
  · exact h

theorem stretchAtEdge_beg {n : W64} {s : State} (h : Beg n s) : Beg n (stretchAtEdge s) := by
  unfold stretchAtEdge
  extract_lets level
  split
  · exact h
  · exact throttleRequest_beg _ (changeLevel_beg s _ h)

theorem sendHeldThrottle_beg {n : W64} {s : State} (h : Beg n s) : Beg n (sendHeldThrottle s) := by
  unfold sendHeldThrottle
  split
  · exact sendThrottle_beg _ _ h
  · exact h

/-- What `beginWork` does before the array clock may gate. -/
theorem beginWork_beg (v : State) : ∃ w, Beg v.tmp.count w ∧ beginWork v = gateIfAll w := by
  unfold beginWork
  extract_lets a b c d e f
  have hb : Beg v.tmp.count b := (beginTempo_beg v).kept (forAll_kept _ _ _ (fun u k => updCore_kept u k _))
  have hc : Beg v.tmp.count c := hb.kept (forAll_kept _ _ _ (fun u k => forAll_kept _ _ _ (fun u c => beginCore_kept u k c)))
  have he : Beg v.tmp.count e := (hc.kept (beginServing_kept c)).kept (forAll_kept _ _ _ (fun u k => (updCtx_calm u k _).kept))
  exact ⟨_, sendHeldThrottle_beg (stretchAtEdge_beg (withholdNext_beg (he.kept (withholdStanding_kept e)))), rfl⟩

theorem Beg.begun {v w : State} (h : Beg v.tmp.count w) : Begun v w := by
  obtain ⟨hworking, hfresh, hlock⟩ := h
  exact ⟨hworking, hfresh, hlock⟩

/-! An edge that begins none -/

/-- The effects that are due come first; then every enabled core waits. -/
theorem beginNone_cores (v : State) :
    (beginNone v).cores = (forAll (enabledCores v) { effectsAll v with hubs := [] } (fun s c => updCore s c waitCore)).cores := by
  have hcard : enabledCores { effectsAll v with hubs := [] } = enabledCores v := by
    unfold enabledCores enabledCore
    simp only [(effectsAll_keeps v).2]
  rw [← hcard]
  rfl

theorem beginNone_hubs (v : State) : (beginNone v).hubs = [] :=
  forAll_eq State.hubs _ _ _ (fun _ _ => rfl)

theorem beginNone_working (v : State) : (beginNone v).tmp.working = v.tmp.working := by
  have htmp : (beginNone v).tmp = (effectsAll v).tmp := forAll_eq State.tmp _ _ _ (fun _ _ => rfl)
  rw [htmp, (effectsAll_keeps v).1]

/-- Only outstanding messages stay over an edge (R109). -/
theorem freshUnits_messages {x : Core} : ∀ o ∈ (freshUnits x).ops, isMessage o.unit = true := by
  intro o ho
  obtain ⟨p, hp, rfl⟩ := List.mem_map.1 ho
  exact (List.mem_filter.1 hp).2

theorem waitCore_waits {x : Core} (h : x.maint = false) : (waitCore x).boundary = true ∧ (waitCore x).a.done = true ∧ (waitCore x).x.done = true ∧
    ∀ o ∈ (waitCore x).ops, isMessage o.unit = true := by
  unfold waitCore
  rw [h]
  exact ⟨rfl, rfl, rfl, freshUnits_messages⟩

/-- Settles O23: the order is `tempoEdge`'s own; ends, begins and waits by the lemmas on each part. -/
theorem theTempoEdgeInOrder : Obligations.TheTempoEdgeInOrder := by
  refine ⟨?edge, ?noPulse, ?ends, ?begins, ?none, ?waits⟩
  case edge =>
    rintro s u v hl hdue hu hv
    refine done_settle hl ((if_pos hdue).trans ?_)
    rw [← tempoEdge_begins_or_not, hv, hu]
  case noPulse => exact fun s hl hdue q => done_eq hl (if_neg (by simp [hdue])) q
  case ends => exact endTempo_ends
  case begins =>
    intro v
    obtain ⟨w, hw, e⟩ := beginWork_beg v
    exact ⟨w, hw.begun, e⟩
  case none => exact fun v => ⟨rfl, beginNone_hubs v, beginNone_working v, _, beginNone_cores v⟩
  case waits => exact fun x h => waitCore_waits h

/-! ### Markers -/

/-- What names a copy of a marker among those used: its port, its count and the rest of its payload (R57). -/
def copyKey (p : PortId) (m : BitVec 256) : Nat × Nat × Nat := (p.val, (mkCount m).toNat, bits m 64 128)

/-- The tempo unit once that copy is used. -/
def useCopy (p : PortId) (m : BitVec 256) (x : Tmp) : Tmp := { x with copiesUsed := copyKey p m :: x.copiesUsed }

/-- A good copy of a marker comes in: the module follows pulses, the port carries markers, and the payload is well formed and not used yet. -/
structure GoodCopy (s : State) (p : PortId) (m : BitVec 256) : Prop where
  enabled : bit s.tmp.ctrl 0 = true
  carries : p.val ∈ markerPorts s
  formed : mkFormed m = true
  fresh : s.tmp.copiesUsed.contains (copyKey p m) = false

/-- `v` is `s` with that copy used and sent on. -/
structure SentOn (s v : State) (p : PortId) (m : BitVec 256) : Prop where
  tmp : ∃ l, v.tmp = { useCopy p m s.tmp with forwarded := l }
  spared : Spared s v
  ctxs : v.ctxs = s.ctxs
  saf : v.saf = s.saf
  quiet : Quiet s → Quiet v

theorem forwardMarker_sentOn (s : State) (p : PortId) (m : BitVec 256) : SentOn s (forwardMarker (updTmp s (useCopy p m)) p m) p m := by
  obtain ⟨htmp, hspared, hctxs, hsaf, hdue, hended⟩ := forward_spec (updTmp s (useCopy p m)) p m _ rfl
  exact ⟨htmp, (spared_updTmp s _).trans hspared, hctxs, hsaf, fun q => q.of_eq hdue hended hspared.msgs⟩

section GoodCopies
variable {s : State} {p : PortId} {m : BitVec 256} (h : GoodCopy s p m)
include h

theorem GoodCopy.arrive_periodic (hk : mkKind m = 0) : markerArrive s p true m = periodicArrive (updTmp s (useCopy p m)) p m := by
  rw [good_copy h.enabled h.carries h.formed h.fresh, hk]
  rfl

theorem GoodCopy.arrive_overrun (hk : mkKind m = 1) : markerArrive s p true m =
    overrunArrive (forwardMarker (updTmp s (useCopy p m)) p m) p (mkCount m).toNat := by
  rw [good_copy h.enabled h.carries h.formed h.fresh, hk]
  rfl

theorem GoodCopy.arrive_throttle (hk : mkKind m = 2) : markerArrive s p true m =
    throttleArrive (forwardMarker (updTmp s (useCopy p m)) p m) p (mkCount m).toNat (mkVariant m) := by
  rw [good_copy h.enabled h.carries h.formed h.fresh, hk]
  rfl

theorem GoodCopy.arrive_announce (hk : mkKind m = 3) : markerArrive s p true m =
    announceArrive (forwardMarker (updTmp s (useCopy p m)) p m) p (mkSwitch m) (mkVariant m) := by
  rw [good_copy h.enabled h.carries h.formed h.fresh, hk]
  rfl

end GoodCopies

section SentOn
variable {s v : State} {p : PortId} {m : BitVec 256} (h : SentOn s v p m)
include h

theorem SentOn.tempoEnded_eq (n : Nat) : tempoEnded v n = tempoEnded s n := by
  obtain ⟨l, e⟩ := h.tmp
  simp [tempoEnded, e, useCopy]

theorem SentOn.canFollow_eq (n : Nat) : canFollow v n = canFollow s n := by
  obtain ⟨l, e⟩ := h.tmp
  exact canFollow_congr n (by rw [e]; rfl) h.ctxs

theorem SentOn.overrunFor_eq : v.tmp.overrunFor = s.tmp.overrunFor := by
  obtain ⟨l, e⟩ := h.tmp
  rw [e]; rfl

/-- An overrun marker in time joins those that hold its worked tempo (R60). -/
theorem SentOn.overrunArrive_inTime {n : Nat} (hend : tempoEnded s n = false) (hnew : s.tmp.overrunFor.contains n = false) :
    overrunArrive v p n = updTmp v (fun t => { t with overrunFor := t.overrunFor ++ [n] }) := by
  unfold overrunArrive
  simp only [h.tempoEnded_eq, hend, h.overrunFor_eq, hnew, Bool.false_and, Bool.false_eq_true, if_false]

/-- A throttle marker in time joins those of its worked tempo (R65). -/
theorem SentOn.throttleArrive_inTime {n : Nat} {w : BitVec 2} (hend : tempoEnded s n = false)
    (hcan : canFollow s w.toNat = true) : throttleArrive v p n w = updTmp v (fun t => { t with throttles := t.throttles ++ [(n, w)] }) := by
  unfold throttleArrive
  simp only [h.tempoEnded_eq, hend, h.canFollow_eq, hcan, Bool.not_true, Bool.false_eq_true, if_false]

/-- A switch announcement joins the pending switches (R66). -/
theorem SentOn.announceArrive_joins {n : Nat} {w : BitVec 2} (hcan : canFollow s w.toNat = true) (hroom : s.tmp.switches.length < 16) :
    announceArrive v p n w = updTmp v (fun t => { t with switches := insertSwitch t.switches n w }) := by
  obtain ⟨l, e⟩ := h.tmp
  have hr : switchRoom v = true := by simpa [switchRoom, e, useCopy] using hroom
  unfold announceArrive addSwitch
  rw [if_pos ((h.canFollow_eq _).trans hcan), if_pos hr]

/-- A throttle marker in time that names a variant that the module lacks (R67). -/
theorem SentOn.throttleArrive_lacks {n : Nat} {w : BitVec 2} (hend : tempoEnded s n = false)
    (hcan : canFollow s w.toNat = false) : throttleArrive v p n w = variantUnavailable v p w.toNat (n + lead s) := by
  obtain ⟨l, e⟩ := h.tmp
  have hlead : lead v = lead s := by simp [lead, e, useCopy]
  unfold throttleArrive
  simp only [h.tempoEnded_eq, hend, h.canFollow_eq, hcan, Bool.not_false, if_true, Bool.false_eq_true, if_false, hlead]

theorem SentOn.announceArrive_lacks {n : Nat} {w : BitVec 2} (hcan : canFollow s w.toNat = false) :
    announceArrive v p n w = variantUnavailable v p w.toNat n := if_neg (by rw [h.canFollow_eq, hcan]; exact Bool.false_ne_true)

/-- The command answers with the tempo unit of `s`, the copy used and sent on, changed by `f`. -/
theorem SentOn.answers {copy : Fin 3} {f : Tmp → Tmp} (hl : live s = true) (q : Quiet s) (e : markerArrive s p true m = updTmp v f) :
    ∃ t l, exec (.markerReceive p copy true m) s = .next t ∧ Spared s t ∧ t.tmp = f { useCopy p m s.tmp with forwarded := l } := by
  obtain ⟨l, htmp⟩ := h.tmp
  exact ⟨_, l, done_eq hl e (h.quiet q), (h.spared.trans (spared_updTmp v f)).answer, congrArg f htmp⟩

/-- A variant that the module lacks: the fault at receipt, and where the module leaves the domain (R67). -/
theorem SentOn.answers_unavailable {copy : Fin 3} {w n : Nat} (hl : live s = true) (q : Quiet s)
    (e : markerArrive s p true m = variantUnavailable v p w n) :
    ∃ t l r, exec (.markerReceive p copy true m) s = .next t ∧ Spared s t ∧ t.saf.reports = s.saf.reports ++ [r] ∧ r.code = 0x28 ∧
      t.tmp = { useCopy p m s.tmp with
        forwarded := l, unavailAt := some (match s.tmp.unavailAt with | some u => min u n | none => n) } := by
  obtain ⟨l, htmp⟩ := h.tmp
  have hcalm := raiseAt_calm v 0x28 [] [] 2 p 0 (w * 2 ^ 42 + p * 2 ^ 38)
  obtain ⟨r, hreport, hcode, -⟩ := raiseAt_report v 0x28 [] [] 2 p 0 (w * 2 ^ 42 + p * 2 ^ 38)
  refine ⟨_, l, r, done_eq hl e (hcalm.quiet (h.quiet q)), ((h.spared.trans hcalm.spared).trans (spared_updTmp _ _)).answer, ?_, hcode, ?_⟩
  · rw [← h.saf]
    exact hreport
  · have hpending : (variantUnavailable v p w n).tmp = { v.tmp with
        unavailAt := some (match v.tmp.unavailAt with | some u => min u n | none => n) } := by rw [← hcalm.tmp]; rfl
    rw [answer_tmp, hpending, htmp]
    rfl

end SentOn

section Periodic
variable {s : State} {p : PortId} {m : BitVec 256} {d : Nat} (hfrom : s.tmp.countFromMarker = false) (hseen : s.tmp.pulseSeen = true)
  (hhave : s.tmp.haveCount = true) (hd : d = ((mkPhase m : Int) + (portAt s p).lat.toNat - (phaseSc s : Nat)).natAbs)
include hfrom hseen hhave hd

/-- A periodic marker checks the count and the phase, which is `d` sc off; the skew is noted (R46, R59). -/
theorem periodicArrive_checks : periodicArrive s p m =
    let ns := min (d * 5 / 12) 65535
    let u := if mkCount m = s.tmp.count + 1 then noteSkew s ns else lostFault (noteSkew s ns) 12 0x19 2 p (p * 2 ^ 40)
    if 600 < d then lostFault u 3 0x1A 2 p (p * 2 ^ 40 + ns * 2 ^ 24) else u := by
  have hphase : (((mkPhase m + (portAt s p).lat.toNat : Nat) : Int) - (phaseSc s : Nat)).natAbs = d := by rw [hd]; push_cast; rfl
  unfold periodicArrive
  rw [if_neg (by simp [hfrom]), if_neg (by simp [hseen, hhave])]
  simp only [hphase]
  rfl

/-- A periodic marker whose count and phase agree only measures the skew. -/
theorem periodicArrive_agrees (hin : d ≤ 600) (hcount : mkCount m = s.tmp.count + 1) :
    periodicArrive s p m = noteSkew s (d * 5 / 12) := by
  have hns : min (d * 5 / 12) 65535 = d * 5 / 12 := by omega
  rw [periodicArrive_checks hfrom hseen hhave hd]
  simp only [hns, Nat.not_lt.2 hin, if_false, if_pos hcount]

/-- A periodic marker of the right phase whose count is not that of the coming pulse (R46). -/
theorem periodicArrive_wrongCount (hin : d ≤ 600) (hcount : mkCount m ≠ s.tmp.count + 1) :
    periodicArrive s p m = lostFault (noteSkew s (min (d * 5 / 12) 65535)) 12 0x19 2 p (p * 2 ^ 40) := by
  rw [periodicArrive_checks hfrom hseen hhave hd]
  simp only [Nat.not_lt.2 hin, if_false, if_neg hcount]

/-- A periodic marker of the coming pulse's count, out of phase (R59). -/
theorem periodicArrive_wrongPhase (hout : 600 < d) (hcount : mkCount m = s.tmp.count + 1) :
    periodicArrive s p m = lostFault (noteSkew s (min (d * 5 / 12) 65535)) 3 0x1A 2 p (p * 2 ^ 40 + min (d * 5 / 12) 65535 * 2 ^ 24) := by
  rw [periodicArrive_checks hfrom hseen hhave hd]
  simp only [hout, if_true, if_pos hcount]

end Periodic

/-- A copy on a port that carries no markers, or one used already, is discarded (R57). -/
theorem markerArrive_discards {s : State} {p : PortId} {ok : Bool} {m : BitVec 256}
    (h : p.val ∉ markerPorts s ∨ (ok = true ∧ s.tmp.copiesUsed.contains (copyKey p m) = true)) : markerArrive s p ok m = s := by
  rcases h with hports | ⟨rfl, hused⟩
  · exact if_pos (.inr hports)
  · by_cases hreach : (!(bit s.tmp.ctrl 0)) = true ∨ p.val ∉ markerPorts s
    · exact if_pos hreach
    · refine (if_neg hreach).trans ?_
      simp only [Bool.not_true, Bool.false_eq_true, if_false]
      exact if_pos (.inl hused)

/-- A projection that passes the cutoff asserts overrun, where nothing has ended or held the worked tempo yet (R56). -/
theorem overrun_asserts {s : State} (hpast : projectionPassed s = true) (hlost : s.tmp.lost = false) (hdue : s.tmp.edgeDue = false)
    (hheld : s.tmp.held = false) (hsent : s.tmp.overrunSent = false) : overrun s = raiseMarker (setTmpStatus (updTmp s (fun t =>
      { t with overrunSent := true, overrunFor := t.overrunFor ++ [t.t.toNat] })) 0) s.tmp.t.toNat 1 0 0 := by
  unfold overrun
  rw [if_neg (by simp [hpast, hlost, hdue]), if_neg (by simp [hheld]), if_neg (by simp [hsent])]
  rfl

/-- Settles O25: a good copy is used and sent on, and then acts by its kind. -/
theorem markersAreSentAndTaken : Obligations.MarkersAreSentAndTaken := by
  refine ⟨?periodic, ?overrun, ?badCrc, ?discarded, ?good, ?stretch⟩
  case periodic =>
    intro s hl hk hp
    refine plain_eq hl ?_
    rw [periodicMarker, if_pos hk, if_pos hp]
    rfl
  case overrun =>
    intro s hl hpast hlost hdue hheld hsent
    exact done_settle hl (overrun_asserts hpast hlost hdue hheld hsent)
  case badCrc =>
    intro s p copy m hl hen hp q
    refine done_eq hl (f := fun s => markerArrive s p false m) ?_ (by exact q)
    simp [markerArrive, hen, hp, updPort]
  case discarded => exact fun s p copy ok m hl q h => done_eq hl (markerArrive_discards h) q
  case good =>
    rintro s p copy m _ hl hen hp hf q rfl hnew
    have hgood : GoodCopy s p m := ⟨hen, hp, hf, hnew⟩
    have hsent := forwardMarker_sentOn s p m
    refine ⟨fun hk hend hno => ?hold, fun hk hend hcan => ?throttle, fun hk hcan hroom => ?announce, fun n hcan hkind => ?lacks,
      fun d hk hfrom hseen hhave hd hin hcount => ?phase⟩
    case hold => exact hsent.answers hl q ((hgood.arrive_overrun hk).trans (hsent.overrunArrive_inTime hend hno))
    case throttle => exact hsent.answers hl q ((hgood.arrive_throttle hk).trans (hsent.throttleArrive_inTime hend hcan))
    case announce => exact hsent.answers hl q ((hgood.arrive_announce hk).trans (hsent.announceArrive_joins hcan hroom))
    case lacks =>
      rcases hkind with ⟨hk, hend, rfl⟩ | ⟨hk, rfl⟩
      · exact hsent.answers_unavailable hl q ((hgood.arrive_throttle hk).trans (hsent.throttleArrive_lacks hend hcan))
      · exact hsent.answers_unavailable hl q ((hgood.arrive_announce hk).trans (hsent.announceArrive_lacks hcan))
    case phase => exact done_eq hl ((hgood.arrive_periodic hk).trans (periodicArrive_agrees hfrom hseen hhave hd hin hcount)) q
  case stretch => exact fun s hl => done_live hl _

/-! ### Divergence and stalemate -/

/-- An overrun marker that comes after its worked tempo's end is a hold divergence (R62). -/
theorem SentOn.overrunArrive_late {s v : State} {p : PortId} {m : BitVec 256} (h : SentOn s v p m) {n : Nat}
    (hend : tempoEnded s n = true) (hnew : s.tmp.overrunFor.contains n = false) (hlost : s.tmp.lost = false) :
    overrunArrive v p n = updTmp (diverge v p n) (fun t => { t with overrunFor := t.overrunFor ++ [n] }) := by
  obtain ⟨l, e⟩ := h.tmp
  have hmode : v.tmp.lost = false := by rw [e]; exact hlost
  have hfor : (diverge v p n).tmp.overrunFor = s.tmp.overrunFor := by
    rw [diverge, (lostFault_spec v 4 0x1E 2 p n (by decide)).2.1]
    exact h.overrunFor_eq
  unfold overrunArrive
  simp only [h.tempoEnded_eq, hend, h.overrunFor_eq, hnew, hmode, Bool.not_false, Bool.and_self, if_true, hfor, Bool.false_eq_true, if_false]

/-- What a fault withholds is read from the same marks and counts in a copy's sender and in the machine that has sent it on. -/
theorem SentOn.lost {s v t : State} {p : PortId} {m : BitVec 256} (h : SentOn s v p m) {cause code : Nat} (ht : TempoLost v t cause code) :
    TempoLost s t cause code := by
  obtain ⟨l, e⟩ := h.tmp
  refine ht.after h.spared (by rw [h.saf]) h.ctxs ?_
  rw [e]
  exact ⟨rfl, rfl, rfl, rfl⟩

/-- A change of the tempo unit that leaves its worked tempos as they are does not change what a later fault withholds. -/
theorem TempoLost.beforeTmp {s t : State} {cause code : Nat} {f : Tmp → Tmp} (h : TempoLost (updTmp s f) t cause code)
    (hf : ∀ x, (f x).commitDue = x.commitDue ∧ (f x).lastT = x.lastT ∧ (f x).working = x.working ∧ (f x).t = x.t) : TempoLost s t cause code :=
  h.after (spared_updTmp s f) rfl rfl (hf s.tmp)

/-- A fault that a periodic marker leads to, after the skew is noted. -/
theorem noteSkew_lostFault (s : State) (p : PortId) (m : BitVec 256) (ns : Nat) {cause : Nat} (hc : cause < 32) (code sk si low : Nat) :
    TempoLost s (lostFault (noteSkew (updTmp s (useCopy p m)) ns) cause code sk si low) cause code := by
  have hskew : TempoLost (updTmp s (useCopy p m)) (lostFault (noteSkew (updTmp s (useCopy p m)) ns) cause code sk si low) cause code :=
    (lostFault_spec _ cause code sk si low hc).1.beforeTmp (fun _ => ⟨rfl, rfl, rfl, rfl⟩)
  exact hskew.beforeTmp (fun _ => ⟨rfl, rfl, rfl, rfl⟩)

/-- Nothing in flight signals an object of a stalemate (R69). -/
theorem noSignalFor_of {x : Core} {o : Nat} (hops : ∀ a ∈ x.ops, a.sop = 0 ∨ a.sobj.toNat ≠ o) (hsigs : ∀ g ∈ x.sigs, g.sobj ≠ o) :
    noSignalFor x o = true := by
  simp only [noSignalFor, Bool.and_eq_true, List.all_eq_true, Bool.or_eq_true, decide_eq_true_eq]
  exact ⟨hops, hsigs⟩

theorem stalemate_holds {s : State} {c a e : Nat} (ha : waitObject (coreAt s c) .access = some a) (he : waitObject (coreAt s c) .execute = some e)
    (hla : a < 0xC0) (hle : e < 0xC0) (hna : noSignalFor (coreAt s c) a = true) (hne : noSignalFor (coreAt s c) e = true) :
    stalemate s c = lostFault s 7 0x1D 0 (logicalOf s c) (logicalOf s c * 2 ^ 38 + a * 2 ^ 30 + e * 2 ^ 22) := by
  simp only [stalemate, ha, he]
  exact if_pos ⟨hla, hle, hna, hne⟩

/-- Settles O26: each of the four is one `lostFault`, after changes of the tempo unit alone. -/
theorem divergenceAndStalemateLoseTheTempo : Obligations.DivergenceAndStalemateLoseTheTempo := by
  refine ⟨?hold, ?periodic, ?stalemate⟩
  case hold =>
    intro s p copy m hl hen hp hf hk hnew hend hno hlost q
    have hsent := forwardMarker_sentOn s p m
    have hlate := (GoodCopy.arrive_overrun ⟨hen, hp, hf, hnew⟩ hk).trans (hsent.overrunArrive_late hend hno hlost)
    have hspec := (lostFault_spec (forwardMarker (updTmp s (useCopy p m)) p m) 4 0x1E 2 p (mkCount m).toNat (by decide)).1
    have hthen := hspec.thenTmp (fun t => { t with overrunFor := t.overrunFor ++ [(mkCount m).toNat] }) (fun _ => ⟨rfl, rfl, rfl⟩)
    refine ⟨_, done_eq hl hlate (lostFault_quiet (hsent.quiet q) (by decide) 0x1E 2 p _), (hsent.lost hthen).answer, ?_⟩
    simp
  case periodic =>
    intro s p copy m d hl hen hp hf hk hnew hfrom hseen hhave hd q
    have hgood : GoodCopy s p m := ⟨hen, hp, hf, hnew⟩
    refine ⟨fun hcount hin => ?count, fun hcount hout => ?phase⟩
    case count =>
      have e := (hgood.arrive_periodic hk).trans (periodicArrive_wrongCount (s := updTmp s (useCopy p m)) hfrom hseen hhave hd hin hcount)
      exact ⟨_, done_eq hl e (lostFault_quiet (by exact q) (by decide) _ _ _ _), (noteSkew_lostFault s p m _ (by decide) _ _ _ _).answer⟩
    case phase =>
      have e := (hgood.arrive_periodic hk).trans (periodicArrive_wrongPhase (s := updTmp s (useCopy p m)) hfrom hseen hhave hd hout hcount)
      exact ⟨_, done_eq hl e (lostFault_quiet (by exact q) (by decide) _ _ _ _), (noteSkew_lostFault s p m _ (by decide) _ _ _ _).answer⟩
  case stalemate =>
    intro s c a e hl hc q ha he hla hle hops hsigs
    have hst := stalemate_holds ha he hla hle
      (noSignalFor_of (fun o ho => (hops o ho).imp_right (·.1)) (fun g hg => (hsigs g hg).1))
      (noSignalFor_of (fun o ho => (hops o ho).imp_right (·.2)) (fun g hg => (hsigs g hg).2))
    exact ⟨_, done_eq hl ((if_pos hc).trans hst) (lostFault_quiet q (by decide) _ _ _ _), (lostFault_spec s 7 0x1D 0 _ _ (by decide)).1.answer⟩

/-! ### TMP registers -/

section TmpCtrl
variable {s : State} {v : W32}

/-- A resume that the module takes: EN stands and stays, and the count named is at least 2 above the count kept (R45). -/
theorem writeTmpCtrl_resume (hv : bit v 0 = true) (hen : bit s.tmp.ctrl 0 = true) (hr : bit v 2 = true) (hcount : s.tmp.haveCount = true)
    (hle : s.tmp.count.toNat + 2 ≤ resumeCount s) :
    writeTmpCtrl s v = { s with tmp := { s.tmp with ctrl := v &&& 3, resumeAt := some (resumeCount s) } } := by
  have hok : tmpCtrlBad s v = false := by simp [tmpCtrlBad, keepsCount, hv, hen, hcount, hle]
  simp only [writeTmpCtrl, hok, hv, hen, hr, Bool.not_true, Bool.and_false, Bool.false_and, Bool.false_eq_true, if_false, if_true]
  rfl

/-- A resume without a count, or to one too near, is refused with CFG_ERR (R438). -/
theorem writeTmpCtrl_refused (hr : bit v 2 = true) (h : keepsCount s = false ∨ resumeCount s < s.tmp.count.toNat + 2) :
    writeTmpCtrl s v = tmpCfgErr s := by
  refine if_pos ?_
  rcases h with h | h <;> simp [tmpCtrlBad, hr, h]

/-- EN rises where no epoch alignment is done (GLB_BOOT bit 5). -/
theorem writeTmpCtrl_enable (hv : bit v 0 = true) (hr : bit v 2 = false) (hen : bit s.tmp.ctrl 0 = false) (hboot : bit s.glb.boot 5 = false) :
    writeTmpCtrl s v = updTmp s (fun t => { t with ctrl := v &&& 3 }) := by
  have hok : tmpCtrlBad s v = false := by simp [tmpCtrlBad, hr, hen]
  simp [writeTmpCtrl, hok, hv, hr, hen, hboot]

/-- EN falls while no bolt is loaded (R78). -/
theorem writeTmpCtrl_disable (hv : bit v 0 = false) (hr : bit v 2 = false) (hen : bit s.tmp.ctrl 0 = true) (hbolt : loadedCtxs s = []) :
    writeTmpCtrl s v = tempoOff (updTmp s (fun t => { t with ctrl := v &&& 3 })) := by
  have hok : tmpCtrlBad s v = false := by simp [tmpCtrlBad, hr, hbolt]
  simp [writeTmpCtrl, hok, hv, hr, hen]

end TmpCtrl

/-- TEMPO_RESUME and TEMPO_ENABLE are one register write of the steward PF. -/
theorem exec_writeTmpCtrl {s t : State} {f : FnId} {v : W32} {c : Instr} (hc : c = .tempoResume f v ∨ c = .tempoEnable f v) (hl : live s = true)
    (ho : isSteward s f = true) (e : writeTmpCtrl s v = t) (q : Quiet t) : exec c s = .next (answer s t) := by
  rcases hc with rfl | rfl <;> exact done_eq hl ((stewardDo_steward ho (fun s => writeTmpCtrl s v)).trans e) q

/-- A switch is announced where the module can follow it, keeps a count, has the lead and has room; else it is refused (R66, R67, R438). -/
theorem writeVariantSet_cases (s : State) (v : W32) {n : Nat} (hn : n = (join64 s.tmp.setHi s.tmp.setLo).toNat) : writeVariantSet s v =
    if canFollow s (bits v 0 2) = true ∧ keepsCount s = true ∧ s.tmp.count.toNat + lead s ≤ n ∧ s.tmp.switches.length < 16 then
      raiseMarker (updTmp s (fun t => { t with switches := insertSwitch t.switches n (BitVec.ofNat 2 (bits v 0 2)) }))
        s.tmp.count.toNat 3 (bits v 0 2) n
    else tmpCfgErr s := by
  subst hn
  by_cases h : canFollow s (bits v 0 2) = true ∧ keepsCount s = true ∧ s.tmp.count.toNat + lead s ≤ (join64 s.tmp.setHi s.tmp.setLo).toNat ∧
      s.tmp.switches.length < 16
  · rw [if_pos h]
    obtain ⟨hcan, hkeeps, hlead, hroom⟩ := h
    have hr : switchRoom s = true := decide_eq_true hroom
    unfold writeVariantSet
    rw [if_neg (by simp [hcan, hkeeps, hr, hlead]), addSwitch, if_pos hr]
  · rw [if_neg h]
    refine if_pos ?_
    simpa only [not_and_or, not_le, Bool.not_eq_true, Bool.not_eq_true', switchRoom, decide_eq_false_iff_not] using h

/-- Settles O27: one lemma for each outcome of a TMP_CTRL write, and one for the announcement. -/
theorem tempoRegisters : Obligations.TempoRegisters := by
  refine ⟨?ctrl, ?announce, ?reads⟩
  case ctrl =>
    intro s fn val c hc hl hs q
    refine ⟨fun hv hen hr hcount hle => ?resume, fun hr h => ?refused, fun hv hr hen hboot => ?enable, fun hv hr hen hbolt => ?disable⟩
    case resume => exact exec_writeTmpCtrl hc hl hs (writeTmpCtrl_resume hv hen hr hcount hle) q
    case refused => exact exec_writeTmpCtrl hc hl hs (writeTmpCtrl_refused hr h) q
    case enable => exact exec_writeTmpCtrl hc hl hs (writeTmpCtrl_enable hv hr hen hboot) q
    case disable => exact exec_writeTmpCtrl hc hl hs (writeTmpCtrl_disable hv hr hen hbolt) q
  case announce => exact fun s fn val n hl hs hn => plain_steward hl hs rfl (writeVariantSet_cases s val hn)
  case reads =>
    intro s fn hl hconf
    have hread : ¬ s.glb.unconfigured = true := by simp [hconf]
    exact ⟨plain_eq hl (if_neg hread), plain_eq hl (if_neg hread)⟩

/-! ### Routers -/

/-- An output that does not run, or that has decided both of its nc, does nothing (R220, R227). -/
theorem outputSend_still {s : State} {r out : Nat} (h : outRuns s r out = false ∨ 2 ≤ nextNc s r out) : outputSend s r out = s := by
  refine if_pos ?_
  rwa [Bool.not_eq_true']

theorem sendFreeFlit_none {s : State} {r out : Nat} {lent : Bool} (h : freePick (routerAt s r) out = none) : sendFreeFlit s r out lent = s := by
  simp only [sendFreeFlit, h]

theorem sendFreeFlit_noRoom {s : State} {r out i : Nat} {f : InFlit} {lent : Bool} (hpick : freePick (routerAt s r) out = some i)
    (hf : (routerAt s r).free[i]? = some f) (hroom : outRoom s r out f.flit = false) : sendFreeFlit s r out lent = s := by
  simp only [sendFreeFlit, hpick, hf]
  exact if_pos (by rw [hroom]; rfl)

theorem flitLeaves_link {s : State} {r out n inp : Nat} {f : MeshFlit} (hout : out ≠ 0) (hlink : linkEnd r out = some (n, inp)) :
    flitLeaves s r out f = updRouter s r (fun x => { x with link := tupd [] x.link out (fun l => l ++ [f]) }) := by
  simp only [flitLeaves, hout, if_false, hlink]

theorem seamResult_none {s : State} {r seam : Nat} (h : (routerAt s r).seamOut.find? (fun p => decide (p.1 = seam)) = none) :
    seamResult s r seam = s := by
  simp only [seamResult, h]

/-- A seam's result becomes a flit of its result stream, whose destination is that of the operands' stream. -/
theorem seamResult_some {s : State} {r seam : Nat} {p : Nat × InFlit}
    (h : (routerAt s r).seamOut.find? (fun p => decide (p.1 = seam)) = some p) :
    ∃ d, seamResult s r seam = setRouter (updFab s (fun v => { v with streamTo := d })) r { routerAt s r with
      seamOut := (routerAt s r).seamOut.erase p, weft := (routerAt s r).weft ++ [{ p.2 with at_ := s.now }] } := by
  simp only [seamResult, h]
  exact ⟨_, rfl⟩

/-- What a parity error governs lies in the cores, the routers, the fabric's tables or the tiers. -/
theorem parityMark_keeps (s : State) (h : ParityHit) : (parityMark s h).pending = s.pending ∧ (parityMark s h).saf = s.saf := by
  unfold parityMark
  extract_lets row
  split
  case isTrue cores => split <;> exact ⟨rfl, rfl⟩
  split
  case isTrue routers => split <;> exact ⟨rfl, rfl⟩
  split
  case isTrue fabric => exact ⟨rfl, rfl⟩
  split
  case isTrue tiers => split <;> exact ⟨rfl, rfl⟩
  case isFalse => exact ⟨rfl, rfl⟩

/-- A parity hit raises fault 0x11 on the machine with its router's status bit and its marks set. -/
theorem parityHit_raises (s : State) (h : ParityHit) {u : State}
    (hu : u = parityMark (if h.srcKind = 1 ∧ h.srcIndex.toNat < 88 then
      updRouter s h.srcIndex.toNat (fun x => { x with status := orBit x.status 1 }) else s) h) :
    (u.pending = s.pending ∧ u.saf = s.saf) ∧ ∃ scope low, parityHit s h = raise u 0x11 scope h.srcKind h.srcIndex.toNat h.ctx low := by
  subst hu
  refine ⟨?_, _, _, rfl⟩
  obtain ⟨hpending, hsaf⟩ := parityMark_keeps (if h.srcKind = 1 ∧ h.srcIndex.toNat < 88 then
    updRouter s h.srcIndex.toNat (fun x => { x with status := orBit x.status 1 }) else s) h
  rw [hpending, hsaf]
  split <;> exact ⟨rfl, rfl⟩

/-- Settles O40: an output's three choices, a seam's result, the two times of an RTR_CTRL write and the parity hit. -/
theorem routersSendSumAndCommit : Obligations.RoutersSendSumAndCommit := by
  refine ⟨?still, ?sends, ?noFree, ?noRoom, ?link, ?seam, ?commitNow, ?commitLater, ?parity, ?noHits⟩
  case still =>
    intro s r out hl q h
    refine done_eq hl (f := fun s => if routerExists s r then outputSend s r out else s) ?_ q
    split
    · exact outputSend_still h
    · rfl
  case sends =>
    intro s u r out k hl hruns hk hk2 hu
    refine ⟨fun hres => ?free, fun i st hres hready => ?lent, fun i st f j hres hready hgood hroom => ?weft⟩
    case free => exact out_sends hl hruns hk hk2 hu (by simp only [hres])
    case lent => exact out_sends hl hruns hk hk2 hu (by simp only [hres, hready])
    case weft => exact out_sends hl hruns hk hk2 hu (by simp only [hres, hready, hgood, hroom, Bool.false_eq_true, if_false, if_true])
  case noFree => exact fun s r out lent => sendFreeFlit_none
  case noRoom => exact fun s r out i f => sendFreeFlit_noRoom
  case link => exact fun s r out n inp f => flitLeaves_link
  case seam =>
    intro s r seam hl q
    refine ⟨fun hnone => ?none, fun p hc hsome => ?some⟩
    case none =>
      refine done_eq hl (f := fun s => if enabledCore s r then seamResult s r seam else s) ?_ q
      split
      · exact seamResult_none hnone
      · rfl
    case some =>
      obtain ⟨d, e⟩ := seamResult_some hsome
      exact ⟨_, done_eq hl ((if_pos hc).trans e) q, rfl, rfl⟩
  case commitNow =>
    intro s r v hl hr hw
    refine plain_eq hl ((if_pos hr).trans ?_)
    rw [writeRtrCtrl, accept, if_neg (by simp [hw])]
    rfl
  case commitLater =>
    intro s r v hl hr hw
    refine plain_eq hl ((if_pos hr).trans ?_)
    rw [writeRtrCtrl, accept, if_pos hw]
  case parity =>
    intro s u h hl hu
    obtain ⟨⟨hpending, hsaf⟩, scope, low, e⟩ := parityHit_raises s h hu
    have hspared := (raise_calm u 0x11 scope h.srcKind h.srcIndex.toNat h.ctx low).spared
    obtain ⟨ent, hreport, hcode, -⟩ := raiseAt_report u 0x11 scope (attributed u) h.srcKind h.srcIndex.toNat h.ctx low
    refine ⟨_, plain_eq hl e, { hspared with pending := hpending.symm }, ent, ?_, hcode⟩
    rw [← hsaf]
    exact hreport
  case noHits => exact fun s hl => plain_live hl _

end Sys2Proof.Machine

/-! PROOFS for the matrix engine and its arithmetic (03): the rounding of products, and what a core's units do after an issue. -/

namespace Sys2Proof.Machine

/-! ### Rounding to nearest even (R89) -/

section Rounding
variable {n : Int} {k : Nat}

/-- Below half a unit the floor is nearest. -/
theorem rhe_below_half (h : 2 * (n % 2 ^ k) < 2 ^ k) : rhe n k = n / 2 ^ k := if_pos h

/-- Above half a unit the next multiple is nearest. -/
theorem rhe_above_half (h : 2 ^ k < 2 * (n % 2 ^ k)) : rhe n k = n / 2 ^ k + 1 :=
  (if_neg (Int.not_lt.mpr h.le)).trans (if_pos h)

/-- At half a unit the even one of the two is taken. -/
theorem rhe_half (h : 2 * (n % 2 ^ k) = 2 ^ k) : rhe n k = if n / 2 ^ k % 2 = 0 then n / 2 ^ k else n / 2 ^ k + 1 :=
  (if_neg h.not_lt).trans (if_neg h.not_gt)

theorem rhe_half_even (h : 2 * (n % 2 ^ k) = 2 ^ k) : rhe n k % 2 = 0 := by
  rw [rhe_half h]
  split <;> omega

/-- The residue of the floor is the remainder; that of the multiple above is a unit less. -/
theorem residue_floor (n : Int) (k : Nat) : n - n / 2 ^ k * 2 ^ k = n % 2 ^ k := by
  rw [Int.emod_def, Int.mul_comm]

theorem residue_above (n : Int) (k : Nat) : n - (n / 2 ^ k + 1) * 2 ^ k = n % 2 ^ k - 2 ^ k := by
  rw [Int.emod_def]
  ring

/-- At half a unit the residue is half a unit on one side or the other. -/
theorem residue_half (h : 2 * (n % 2 ^ k) = 2 ^ k) : 2 * (n - rhe n k * 2 ^ k) = 2 ^ k ∨ 2 * (n - rhe n k * 2 ^ k) = -(2 ^ k) := by
  rw [rhe_half h]
  split
  · rw [residue_floor]
    exact .inl h
  · rw [residue_above]
    omega

end Rounding

/-- Settles O12: by which side of half a unit the remainder lies on. -/
theorem productsRoundToNearestEven : Obligations.ProductsRoundToNearestEven := by
  intro n k
  have hunit : (0 : Int) < 2 ^ k := by positivity
  have hnonneg : 0 ≤ n % 2 ^ k := Int.emod_nonneg n hunit.ne'
  have hless : n % 2 ^ k < 2 ^ k := Int.emod_lt_of_pos n hunit
  rcases lt_trichotomy (2 * (n % 2 ^ k)) (2 ^ k) with hbelow | hhalf | habove
  · rw [rhe_below_half hbelow, residue_floor]
    exact ⟨by omega, by omega, by omega⟩
  · have hsides := residue_half hhalf
    exact ⟨by omega, by omega, fun _ _ => rhe_half_even hhalf⟩
  · rw [rhe_above_half habove, residue_above]
    exact ⟨by omega, by omega, by omega⟩

/-! ### Rows of a pass (R82, R91, R96, R97) -/

section PassRows
variable {s : State} {c e t : Nat} {r : PassRow} {vs : List Int} {d : Int}

theorem rowResultStep_waiting (h : 0 < rowsWaiting s c e) :
    rowResultStep s c e d = tickUntil 512 (updCore s c (fun x => updEngine x e (fun g => setDelta g d)))
      (fun u => decide (rowsWaiting u c e < rowsWaiting s c e)) := if_neg h.ne'

theorem rowResultStep_none (h : rowsWaiting s c e = 0) : rowResultStep s c e d = s := if_pos h

/-- A row is not compared before 137 ac after it entered the array (Table 3.8). -/
theorem rowStep_early (hstage : r.stage = 0) (ht : t < r.at_ + 137) : rowStep s c e t r = (s, r) := by
  simp [rowStep, hstage, Nat.not_le.mpr ht]

theorem rowStep_compares (hstage : r.stage = 0) (ht : r.at_ + 137 = t) :
    rowStep s c e t r = (rowCheck s c e r, { r with stage := 1 }) := by
  simp [rowStep, hstage, ← ht]

theorem rowStep_accumulates (hstage : r.stage = 1) (hinto : r.into = some vs) :
    rowStep s c e (r.at_ + 138) r = (accumulate s c e r vs, { r with stage := 2 }) := by
  simp [rowStep, hstage, hinto]

/-- With no product or sum outside its width, the comparison alone can raise a fault. -/
theorem rowCheck_fits (hovers : r.overs = []) (hsums : ∀ v ∈ r.sums, int64Ok v = true) :
    rowCheck s c e r = if (r.check.add ⟨r.delta - r.sums.foldl (· + ·) 0, r.base⟩).isZero then s
      else engineFault s c e 1 (e * 2 ^ 42 + r.row * 2 ^ 34 + r.passIndex % 2 ^ 18 * 2 ^ 16) r.passIndex := by
  simp [rowCheck, hovers, int64_all hsums, forAll]

/-- The first fault of a pass is named. -/
theorem engineFault_first {code low pass : Nat} (h : pass ∉ (engineAt (coreAt s c) e).named) :
    engineFault s c e code low pass =
      raiseCore (updCore s c (fun x => updEngine x e (fun g => { g with named := g.named ++ [pass] }))) c code low := if_neg h

/-- What column `p.2` of the row's accumulator entry takes of its sum `p.1`, and the code of the fault that it raises, 0 for none; `n` is the
occasion of a free value (assumption log 6). -/
def columnTakes (g : Engine) (r : PassRow) (n : Nat) (p : Int × Nat) : Long × Nat :=
  if !r.add then (⟨p.1, r.base⟩, 0)
  else if (g.accAt_ r.row p.2).base ≠ r.base then (g.accAt_ r.row p.2, 4)
  else if longOk ((g.accAt_ r.row p.2).v + p.1) then (⟨(g.accAt_ r.row p.2).v + p.1, r.base⟩, 0)
  else (⟨Config.freeAcc n p.2, r.base⟩, 3)

theorem columnTakes_open (g : Engine) (n : Nat) (p : Int × Nat) (h : r.add = false) : columnTakes g r n p = (⟨p.1, r.base⟩, 0) := by
  simp [columnTakes, h]

theorem columnTakes_add {g : Engine} {p : Int × Nat} (n : Nat) (h : r.add = true) (hbase : (g.accAt_ r.row p.2).base = r.base)
    (hrange : longOk ((g.accAt_ r.row p.2).v + p.1) = true) : columnTakes g r n p = (⟨(g.accAt_ r.row p.2).v + p.1, r.base⟩, 0) := by
  simp [columnTakes, h, hbase, hrange]

/-- Where no column raises a fault, the entry takes the new values and nothing else happens. -/
theorem accumulate_faultless {f : Int × Nat → Long}
    (h : ∀ p ∈ vs.zipIdx, columnTakes (engineAt (coreAt s c) e) r (s.freeCtr + 1) p = (f p, 0)) :
    accumulate s c e r vs = updCore s c (fun x => updEngine x e (fun g => g.setAcc r.row (vs.zipIdx.map f))) := by
  unfold accumulate
  extract_lets g n new s1 s2
  have hnew : new = vs.zipIdx.map (fun p => (f p, 0)) := List.map_congr_left h
  have hvalues : new.map (·.1) = vs.zipIdx.map f := by simp [hnew]
  have hs1 : s1 = s := if_neg (by simp [hnew])
  have hquiet : ∀ p ∈ new, p.2 = 0 := by
    rw [hnew]
    exact List.forall_mem_map.mpr fun _ _ => rfl
  calc
    _ = s2 := forAll_zeros _ _ _ _ fun _ p _ hp => if_pos (hquiet p hp)
    _ = _ := by rw [← hvalues, ← hs1]

/-- The first row of an entry opens it. -/
theorem accumulate_opens (h : r.add = false) :
    accumulate s c e r vs = updCore s c (fun x => updEngine x e (fun g => g.setAcc r.row (vs.map (fun v => ⟨v, r.base⟩)))) := by
  have hcolumns : vs.zipIdx.map (fun p => (⟨p.1, r.base⟩ : Long)) = vs.map (fun v => ⟨v, r.base⟩) := by
    conv_rhs => rw [← List.zipIdx_map_fst 0 vs, List.map_map]
    rfl
  rw [accumulate_faultless fun p _ => columnTakes_open _ _ p h, hcolumns]

end PassRows

/-! ### Activity levels (R104) -/

section RampOut
variable {s : State} {x : Core} {c e n t : Nat}

theorem rampStep_falls (hlevel : 0 < (engineAt (coreAt s c) e).level) (hgated : s.lock.gated = false) :
    rampStep s c e = tickUntil 512 s (fun u => decide ((engineAt (coreAt u c) e).level < (engineAt (coreAt s c) e).level)) :=
  if_neg (by simp [hlevel.ne', hgated])

theorem rampStep_none (h : (engineAt (coreAt s c) e).level = 0 ∨ s.lock.gated = true) : rampStep s c e = s := if_pos h

/-- Without an operation that keeps the engine busy, the time since its last row decides. -/
theorem rampOut_idle (hops : x.ops = []) : rampOut x e t =
    if (engineAt x e).level = 0 ∨ t + 1 < (engineAt x e).lastRowAt + 72 ∨ (t + 1 - (engineAt x e).lastRowAt) % 8 ≠ 0 then x
    else setEngine x e { engineAt x e with level := (engineAt x e).level - 1 } := by
  simp [rampOut, hops]

theorem rampOut_early (hops : x.ops = []) (hn : n < 72) : rampOut x e ((engineAt x e).lastRowAt + n - 1) = x := by
  rw [rampOut_idle hops]
  exact if_pos (.inr (.inl (by omega)))

theorem rampOut_falls (hops : x.ops = []) (hlevel : 0 < (engineAt x e).level) (hn : n = 72 ∨ n = 80 ∨ n = 88 ∨ n = 96) :
    rampOut x e ((engineAt x e).lastRowAt + n - 1) = setEngine x e { engineAt x e with level := (engineAt x e).level - 1 } := by
  rw [rampOut_idle hops]
  exact if_neg (by omega)

end RampOut

/-! ### Units' signals (R115, R116) -/

section Signals
variable {s : State} {c rank due sop sobj : Nat} {u : UnitId}

theorem unitSignal_waits (h : 0 < ((coreAt s c).ops.filter (opOf u)).length) :
    unitSignal s c u = tickUntil 65536 s
      (fun v => decide (((coreAt v c).ops.filter (opOf u)).length < ((coreAt s c).ops.filter (opOf u)).length)) := if_neg h.ne'

theorem unitSignal_none (h : ((coreAt s c).ops.filter (opOf u)).length = 0) : unitSignal s c u = s := if_pos h

/-- The only operation of a core is complete: it is released, and its signal goes out. -/
theorem endOps_single {o : Op} {l : Nat} (hops : (coreAt s c).ops = [o]) (hlast : o.last = some l) (hstep : l < o.step)
    (hagain : o.again = []) (hsignal : o.noSignal = false) :
    endOps s c (fun _ => true) = signalAt (setCore s c { coreAt s c with ops := [] }) c (unitRank o.unit)
      (clk (setCore s c { coreAt s c with ops := [] }) c) o.sop.toNat o.sobj.toNat := by
  have hover : o.over = true := by simp [Op.over, hlast, hstep, hagain]
  simp [endOps, hops, hover, forAll, signalOp, hsignal]

/-- A signal waits for the end of its ac while the array clock runs and the core is in the tempo. -/
theorem signalAt_waits (hsop : sop ≠ 0) (hgated : s.lock.gated = false) (hmaint : (coreAt s c).maint = false) (hsigs : (coreAt s c).sigs = []) :
    signalAt s c rank due sop sobj = setCore s c { coreAt s c with sigs := [⟨16 * due + rank, .signal sop, sobj⟩] } := by
  have hqueue : insertSig ⟨16 * due + rank, .signal sop, sobj⟩ (coreAt s c).sigs = [⟨16 * due + rank, .signal sop, sobj⟩] := by
    rw [hsigs, insertSig]
  rw [← hqueue]
  exact (if_neg hsop).trans (if_neg (by simp [hgated, hmaint]))

/-- At the end of its ac an effect that waits alone is performed. -/
theorem effectsEnd_setCore {x : Core} {eff : SyncEff} (hmaint : x.maint = false) (hsigs : x.sigs = [⟨16 * due + rank, eff, sobj⟩])
    (harrivals : x.arrivals = []) (hrank : rank < 16) :
    effectsEnd due (setCore s c x) c = applyEffs (setCore s c { x with sigs := [] }) c sobj [eff] := by
  rw [effectsEnd_one (coreAt_setCore hmaint) hsigs harrivals hrank, setCore_setCore hmaint]

end Signals

/-- Settles O32: the commands by the rule of each unit's step, the rows, levels and signals by those of the units' functions. -/
theorem unitsGoOnAfterTheIssue : Obligations.UnitsGoOnAfterTheIssue := by
  refine ⟨?result, ?order, ?accumulated, ?check, ?entry, ?ramp, ?levels, ?signal, ?complete, ?performed, ?prefetch⟩
  case result =>
    intro s c e d hl hc
    exact ⟨fun h => done_settle hl ((if_pos hc).trans (rowResultStep_waiting h)),
      fun h q => done_eq hl ((if_pos hc).trans (rowResultStep_none h)) q⟩
  case order => exact fun s c e t r hstage => ⟨rowStep_early hstage, rowStep_compares hstage⟩
  case accumulated => exact fun s c e r vs => rowStep_accumulates
  case check =>
    intro s c e r hovers hsums
    rw [rowCheck_fits hovers hsums]
    refine ⟨fun hagrees => if_pos hagrees, fun hdiffers hfirst => ?_⟩
    rw [hdiffers]
    exact engineFault_first hfirst
  case entry =>
    intro s c e r vs
    refine ⟨accumulate_opens, fun hadd hfits => accumulate_faultless fun p hp => ?_⟩
    obtain ⟨hbase, hrange⟩ := hfits p hp
    exact columnTakes_add _ hadd hbase hrange
  case ramp =>
    intro s c e hl hc
    exact ⟨fun hlevel hgated => done_settle hl ((if_pos hc).trans (rampStep_falls hlevel hgated)),
      fun h q => done_eq hl ((if_pos hc).trans (rampStep_none h)) q⟩
  case levels => exact fun x e n hops hlevel => ⟨rampOut_early hops, rampOut_falls hops hlevel⟩
  case signal =>
    rintro s c u _ hl hc rfl
    exact ⟨fun h => done_settle hl ((if_pos hc).trans (unitSignal_waits h)),
      fun h q => done_eq hl ((if_pos hc).trans (unitSignal_none h)) q⟩
  case complete => exact fun s c l o => endOps_single
  case performed =>
    intro s c rank due sop sobj hsop hgated hmaint hsigs
    have hwaits := signalAt_waits (rank := rank) (due := due) (sobj := sobj) hsop hgated hmaint hsigs
    refine ⟨hwaits, fun hrank harrivals => ?_⟩
    rw [hwaits]
    exact effectsEnd_setCore hmaint rfl harrivals hrank
  case prefetch => exact fun s c hl hc hmaint => done_settle hl (if_pos ⟨hc, hmaint⟩)

end Sys2Proof.Machine

/-! PROOFS for the core instruction streams (04) and their cores' stores (05): how a word issues, is malformed or holds its stream, the control
class, the maintenance port, re-reads, arrivals, gather entries, rings and outside sync writes. -/

namespace Sys2Proof.Machine

/-- What is left to settle stands in the fabric's part of the machine. -/
theorem Quiet.of_fab {s t : State} (q : Quiet s) (h : t.fab = s.fab) : Quiet t :=
  q.of_eq (congrArg Fab.due h) (congrArg Fab.ended h) (congrArg Fab.msgs h)

/-! ### What a word does at issue (R110, R111, R117) -/

section Issue
variable {s u : State} {i : Instr} {c : CoreId} {st : Stream} {w : W128} {op t : Nat} {plan : State → Nat → Plan} {p : Plan}

/-- On a running stream at its schedule time, a command answers what its word does at issue. -/
theorem exec_stream (hi : streamCmd i = some (c, st, w, op, plan)) (ha : AtIssue s c st t) (hu : u = catchUp s t)
    (hg : u.lock.gated = true ∨ t ≤ lockTrc u) (hp : p = plan u t) :
    exec i s = .next (answer s (settle (issueStream u c st w { p with check := wordCheck (coreAt s c) st op w p.check }))) := by
  obtain ⟨m, hexec⟩ := stream_shape s i c st w op plan hi
  rw [hp]
  exact hexec.trans (done_settle ha.1 (onCore_runs ha hu hg op w plan m))

/-- A word of its own opcode and of good parity is issued under its plan alone. -/
theorem exec_stream_own (hi : streamCmd i = some (c, st, w, op, plan)) (ha : AtIssue s c st t) (hu : u = catchUp s t)
    (hg : u.lock.gated = true ∨ t ≤ lockTrc u) (hp : p = plan u t) (hop : wOp w = op) (hparity : badWord (coreAt s c) st = false) :
    exec i s = .next (answer s (settle (issueStream u c st w p))) := by
  rw [exec_stream hi ha hu hg hp, wordCheck_ok hop hparity]

/-- A word that fails a check other than that of its ranges takes its slot as malformed. -/
theorem issueStream_malformed (h : condOk w = false ∨ sopOk w = false ∨ p.streamOk = false ∨ p.check = .malformed) :
    issueStream u c st w p = misissue u c st w 0x0C 0 := by
  rcases h with h | h | h | h <;> simp [issueStream, h]

section Formed
variable (hcond : condOk w = true) (hsop : sopOk w = true) (hstream : p.streamOk = true)
include hcond hsop hstream

/-- A range outside its region takes the slot with an access fault. -/
theorem issueStream_access {a : Nat} (hcheck : p.check = .access a) : issueStream u c st w p = misissue u c st w 0x0D (a % 2 ^ 32) := by
  simp [issueStream, hcond, hsop, hstream, hcheck]

variable (hcheck : p.check = .ok)
include hcheck

theorem issueStream_waits (hwait : waitHolds (coreAt u c) w = false) :
    issueStream u c st w p = holdStream u c st w (if wCond w < 8 then some 2 else none) (decide (8 ≤ wCond w)) := by
  simp [issueStream, hcond, hsop, hstream, hcheck, hwait]

theorem issueStream_blocked {k : Nat} (hwait : waitHolds (coreAt u c) w = true) (hblocked : p.blocked = some k) :
    issueStream u c st w p = holdStream u c st w (some k) false := by
  simp [issueStream, hcond, hsop, hstream, hcheck, hwait, hblocked]

theorem issueStream_issues (hwait : waitHolds (coreAt u c) w = true) (hfree : p.blocked = none) :
    issueStream u c st w p = advance (p.act (setCore u c (consume (coreAt u c) w))) c st w p.next := by
  simp [issueStream, hcond, hsop, hstream, hcheck, hwait, hfree]

end Formed

/-! ### A stream that holds (R75, Table 4.2) -/

section Hold
variable {dev : Option Nat} {decoupled : Bool} {k : Nat}

theorem holdStream_goes_on (h : (streamOf (coreAt u c) st).held = some w ∧ (streamOf (coreAt u c) st).dev = dev.isSome) :
    holdStream u c st w dev decoupled = u := if_pos h

/-- A hold of the schedule begins with its deviation. -/
theorem holdStream_deviates (h : ¬ ((streamOf (coreAt u c) st).held = some w ∧ (streamOf (coreAt u c) st).dev = true)) :
    holdStream u c st w (some k) false = deviate (updStream u c st (fun v => { v with held := some w, dev := true })) c k := if_neg h

/-- A decoupled hold begins with a wait slip. -/
theorem holdStream_slips (h : ¬ ((streamOf (coreAt u c) st).held = some w ∧ (streamOf (coreAt u c) st).dev = false)) :
    holdStream u c st w none true = updCore (updStream u c st (fun v => { v with held := some w, dev := false })) c (fun x =>
      { x with waitSlips := satAdd x.waitSlips 1 }) := if_neg h

end Hold

end Issue

/-- Settles O28: the checks pass, so the word issues under its plan. -/
theorem aStreamInstructionIssues : Obligations.AStreamInstructionIssues := by
  intro s u i c st w op t plan p hi ha hu hg hp hop hcond hsop hparity hstream hcheck hfree hwait
  rw [exec_stream_own hi ha hu hg hp hop hparity, issueStream_issues hcond hsop hstream hcheck hwait hfree]

/-- Settles O29: the failing check decides between the two faults; either way the word takes its slot. -/
theorem aMalformedWordIsNotPerformed : Obligations.AMalformedWordIsNotPerformed := by
  refine ⟨?slot, fun s c code low => (raiseCore_marks s c code low).2.2⟩
  case slot =>
    rintro s u i c st w op t n code low plan p hi ha hu hg hp rfl hfails
    rw [exec_stream hi ha hu hg hp]
    rcases hfails with ⟨rfl, rfl, hmalformed⟩ | ⟨rfl, hcond, hsop, hstream, hop, hparity, a, hcheck, rfl⟩
    · rw [issueStream_malformed]
      · rfl
      · rcases hmalformed with h | h | h | h
        · exact .inl h
        · exact .inr (.inl h)
        · exact .inr (.inr (.inl h))
        · exact .inr (.inr (.inr (wordCheck_bad h)))
    · rw [wordCheck_ok hop hparity, issueStream_access hcond hsop hstream hcheck]
      rfl

/-- Settles O30: by what holds the stream, and whether that hold has begun. -/
theorem anUnsatisfiedWaitHoldsTheStream : Obligations.AnUnsatisfiedWaitHoldsTheStream := by
  rintro s u i c st w op t plan p v hi ha hu hg hp hop hcond hsop hparity hstream hcheck hq rfl
  have answers {y : State} (hy : issueStream u c st w p = y) (hquiet : Quiet y) : exec i s = .next (answer s y) := by
    rw [exec_stream_own hi ha hu hg hp hop hparity, hy, settle_quiet hquiet]
  have waits := issueStream_waits (u := u) (c := c) (st := st) hcond hsop hstream hcheck
  have blocked := fun k => issueStream_blocked (u := u) (c := c) (st := st) (k := k) hcond hsop hstream hcheck
  refine ⟨?scheduled, ?decoupled, ?taken, ?goesOn⟩
  case scheduled =>
    intro hnew hwait hlow
    refine answers ((waits hwait).trans ?_) (hq.of_fab rfl)
    rw [if_pos hlow, decide_eq_false (by omega)]
    exact holdStream_deviates hnew
  case decoupled =>
    intro hnew hwait hhigh
    refine answers ((waits hwait).trans ?_) (hq.of_fab rfl)
    rw [if_neg (by omega), decide_eq_true hhigh]
    exact holdStream_slips hnew
  case taken => exact fun k hnew hwait hk => answers ((blocked k hwait hk).trans (holdStream_deviates hnew)) (hq.of_fab rfl)
  case goesOn =>
    rintro hheld (⟨hwait, hdev⟩ | ⟨hwait, hk, hdev⟩)
    · refine answers ((waits hwait).trans (holdStream_goes_on ⟨hheld, hdev.trans ?_⟩)) hq
      by_cases hlow : wCond w < 8 <;> simp [hlow]
    · obtain ⟨k, hk⟩ := Option.isSome_iff_exists.mp hk
      exact answers ((blocked k hwait hk).trans (holdStream_goes_on ⟨hheld, hdev⟩)) hq

/-! ### The control class in the middle of a frame (R110, R118, R119) -/

theorem catchUp_there {s : State} {t : Nat} (h : s.lock.gated = true ∨ t ≤ lockTrc s) : catchUp s t = s := if_pos h

theorem condOk_always {w : W128} (hcond : wCond w = 0) (hobj : wObj w = 0) : condOk w = true := by simp [condOk, hcond, hobj]

theorem sopOk_none {w : W128} (hsop : wSop w = 0) (hsobj : wSobj w = 0) : sopOk w = true := by simp [sopOk, hsop, hsobj]

theorem signalEnd_none {w : W128} (hsop : wSop w = 0) (st : Stream) (after : Nat) (s : State) (c : Nat) : signalEnd w st after s c = s :=
  if_pos hsop

theorem chkRsv_zero {w : W128} {lo len : Nat} (h : bits w lo len = 0) : chkRsv w lo len = .ok := if_pos (decide_eq_true h)

section MidFrame
variable {s : State} {i : Instr} {c : CoreId} {st : Stream} {w : W128} {op : Nat} {plan : State → Nat → Plan} {x y : Core} {v v' : StreamSt}
  {act : State → State} {next : Nat}
variable (ha : AtIssue s c st v.sched) (hx : x = coreAt s c) (hg : s.lock.gated = true ∨ v.sched ≤ lockTrc s) (hq : Quiet s)
  (hparity : badWord x st = false) (hcond : wCond w = 0) (hobj : wObj w = 0) (hsop : wSop w = 0) (hsobj : wSobj w = 0)
include ha hx hg hq hparity hcond hobj hsop hsobj

/-- In the middle of a frame a word without wait and signal makes core `y` of its core `x`, whose stream then takes the slot. -/
theorem exec_midFrame (hi : streamCmd i = some (c, st, w, op, plan)) (hop : wOp w = op) (hp : plan s v.sched = control .ok act next)
    (hact : act (setCore s c x) = setCore s c y) (hmaint : y.maint = false) (hv' : streamOf y st = v') (hinner : v'.index % 64 ≠ 0)
    (hgoes : v'.index + 1 < v'.len ∨ v'.done = true) :
    exec i s = .next (answer s (setCore s c (setStream y st { v' with held := none, dev := false, index := v'.index + 1, sched := next }))) := by
  obtain ⟨hwait, hconsume⟩ := waits_always (x := x) hcond
  have hissue : issueStream s c st w (control .ok act next) = advance (setCore s c y) c st w next := by
    have h := issueStream_issues (u := s) (c := c) (st := st) (p := control .ok act next) (condOk_always hcond hobj) (sopOk_none hsop hsobj) rfl rfl
      (hx ▸ hwait) rfl
    rwa [← hx, hconsume, show (control .ok act next).act (setCore s c x) = setCore s c y from hact] at h
  rw [exec_stream_own hi ha (catchUp_there hg).symm hg hp.symm hop (hx ▸ hparity), hissue,
    advance_mid (coreAt_setCore hmaint) hmaint hv' hinner hgoes, setCore_setCore hmaint, settle_quiet]
  exact hq.of_fab rfl

end MidFrame

section SyncAction
variable {s : State} {c : Nat} {x : Core} {o n : Nat}

theorem streamOf_setSync (x : Core) (o : Nat) (v : SyncObj) (st : Stream) : streamOf (setSync x o v) st = streamOf x st := by cases st <;> rfl

/-- One effect of good parity on an object, within its range. -/
theorem applyEffs_single {v : Nat} {e : SyncEff} (hx : coreAt s c = x) (hgood : x.badSync.contains o = false)
    (hv : effVal (boundRelease x o) (syncAt x o).val.toNat e = v) (hrange : v < 2 ^ 32) :
    applyEffs s c o [e] = setCore s c (setSync x o ⟨BitVec.ofNat 32 v, effThr (syncAt x o).thr e⟩) := by
  have hmem : o ∉ x.badSync := by simpa using hgood
  have hok : v < 4294967296 := hrange
  simp [applyEffs, hx, hmem, hv, hok]

theorem applyEffs_add (hx : coreAt s c = x) (hgood : x.badSync.contains o = false) (hrange : (syncAt x o).val.toNat + n < 2 ^ 32) :
    applyEffs s c o [.add n] = setCore s c (setSync x o { syncAt x o with val := BitVec.ofNat 32 ((syncAt x o).val.toNat + n) }) :=
  applyEffs_single hx hgood rfl hrange

end SyncAction

/-- The core that a SYNC makes of its core (Table 4.8). -/
def syncActed (x : Core) (w : W128) : Core :=
  match syAct w with
  | 0 => setSync x (syObj w) { syncAt x (syObj w) with thr := BitVec.ofNat 32 (syVal w) }
  | 1 => setSync x (syObj w) { syncAt x (syObj w) with val := BitVec.ofNat 32 (syVal w) }
  | 2 => setSync x (syObj w) { syncAt x (syObj w) with val := BitVec.ofNat 32 ((syncAt x (syObj w)).val.toNat + syVal w) }
  | _ => setSync x (syObj w) { syncAt x (syObj w) with val := 0 }

theorem syncActed_maint (x : Core) (w : W128) : (syncActed x w).maint = x.maint := by
  unfold syncActed
  split <;> rfl

theorem streamOf_syncActed (x : Core) (w : W128) (st : Stream) : streamOf (syncActed x w) st = streamOf x st := by
  unfold syncActed
  split <;> exact streamOf_setSync _ _ _ _

/-- Where a sum stays within its range, SYNC acts at once. -/
theorem syncAct_eq {s : State} {c : Nat} {x : Core} {w : W128} {st : Stream} (hx : coreAt s c = x)
    (hadd : syAct w = 2 → (syncAt x (syObj w)).val.toNat + syVal w < 2 ^ 32 ∧ x.badSync.contains (syObj w) = false) :
    syncAct st w s c = setCore s c (syncActed x w) := by
  unfold syncAct syncActed
  rw [hx]
  generalize syAct w = a at hadd
  match a with
  | 0 | 1 | _ + 3 => rfl
  | 2 =>
    obtain ⟨hrange, hgood⟩ := hadd rfl
    exact (if_pos hrange).trans (applyEffs_add hx hgood hrange)

theorem nopPlan_formed {w : W128} (h : bits w 0 96 = 0) (c : Nat) (st : Stream) (s : State) (t : Nat) :
    nopPlan c st w s t = control .ok (fun s => signalEnd w st 0 s c) (t + 1) := by rw [nopPlan, chkRsv_zero h]

theorem timePlan_formed {w : W128} (h : bits w 24 72 = 0) (c : Nat) (st : Stream) (s : State) (t : Nat) :
    timePlan c st w s t = control .ok (fun s => signalEnd w st 0 (if bits w 0 24 ≤ t then deviate s c 8 else s) c) (max (bits w 0 24) (t + 1)) := by
  rw [timePlan, chkRsv_zero h]

theorem syncPlan_formed {w : W128} (h : chkSync w = .ok) (c : Nat) (st : Stream) (s : State) (t : Nat) :
    syncPlan c st w s t = control .ok (fun s => signalEnd w st 0 (syncAct st w s c) c) (t + 1) := by rw [syncPlan, h]

/-- BOUNDARY waits for nothing at a core without operations. -/
theorem boundaryPlan_formed {w : W128} {s : State} {c : Nat} (h : bits w 0 96 = 0) (hsop : wSop w = 0) (hops : (coreAt s c).ops = []) (st : Stream)
    (t : Nat) : boundaryPlan c st w s t = control .ok (fun s => enterBoundary (updStream s c st (fun v => { v with done := true })) c) t := by
  have hfree : boundaryBlocked (coreAt s c) = false := by simp [boundaryBlocked, hasOp, hops]
  simp [boundaryPlan, control, chkRsv_zero h, hsop, hfree, mustBe_true, and_ok]

/-- The first of a core's two BOUNDARY ends its own stream's work and no more. -/
theorem enterBoundary_first {s : State} {c : Nat} (h : ((coreAt s c).a.done && (coreAt s c).x.done) = false) : enterBoundary s c = s := by
  simp [enterBoundary, h]

theorem setStream_first_done {x : Core} (hdone : x.a.done = false) (hdone' : x.x.done = false) (st : Stream) (v : StreamSt) :
    ((setStream x st v).a.done && (setStream x st v).x.done) = false := by
  cases st <;> simp [setStream, hdone, hdone']

/-- Settles O31: each of the four is a word in the middle of a frame, with its own effect on the core. -/
theorem theControlClassTakesItsSlots : Obligations.TheControlClassTakesItsSlots := by
  intro s c st w x v ha hx hv hg hq hparity hcond hobj hsop hsobj hinner hlen
  obtain ⟨-, -, hm, -, -⟩ := id ha
  have hmaint : x.maint = false := hx ▸ hm
  have hcore : coreAt (setCore s c x) c = x := coreAt_setCore hmaint
  have slot {i op plan y v' act next} :=
    @exec_midFrame s i c st w op plan x y v v' act next ha hx hg hq hparity hcond hobj hsop hsobj
  refine ⟨?nop, ?time, ?sync, ?boundary⟩
  case nop =>
    exact fun hop hrsv => slot rfl hop (nopPlan_formed hrsv c st s _) (signalEnd_none hsop st 0 _ c) hmaint hv.symm hinner (.inl hlen)
  case time =>
    intro hop hrsv hlater
    have hplan := timePlan_formed hrsv c st s v.sched
    rw [Nat.max_eq_left (Nat.succ_le_of_lt hlater)] at hplan
    refine slot rfl hop hplan ?_ hmaint hv.symm hinner (.inl hlen)
    rw [signalEnd_none hsop, if_neg (Nat.not_le.mpr hlater)]
  case sync =>
    rintro hop hcheck hadd _ rfl
    have hact : signalEnd w st 0 (syncAct st w (setCore s c x) c) c = setCore s c (syncActed x w) := by
      rw [signalEnd_none hsop, syncAct_eq hcore hadd, setCore_setCore hmaint]
    exact slot rfl hop (syncPlan_formed hcheck c st s _) hact ((syncActed_maint x w).trans hmaint)
      ((streamOf_syncActed x w st).trans hv.symm) hinner (.inl hlen)
  case boundary =>
    intro hop hrsv hops hdone hdone'
    have hact : enterBoundary (updStream (setCore s c x) c st (fun v => { v with done := true })) c =
        setCore s c (setStream x st { v with done := true }) := by
      have hended : updStream (setCore s c x) c st (fun v => { v with done := true }) = setCore s c (setStream x st { v with done := true }) := by
        rw [updStream, updCore, hcore, ← hv, setCore_setCore hmaint]
      rw [hended]
      refine enterBoundary_first ?_
      rw [coreAt_setCore ((setStream_maint x st _).trans hmaint)]
      exact setStream_first_done hdone hdone' st _
    have hslot := slot (i := .boundary c st w none) rfl hop (boundaryPlan_formed hrsv hsop (hx ▸ hops) st _) hact
      ((setStream_maint x st _).trans hmaint) (streamOf_setStream x st _) hinner (.inr rfl)
    rwa [setStream_setStream] at hslot

/-! ### The maintenance port (R137, R345) -/

section Port
variable {s : State} {i : Instr} {c : CoreId} {st : Stream} {w : W128} {op : Nat} {act m : State → State} {plan : State → Nat → Plan}

/-- On a core in maintenance mode a stream's word comes to the port. -/
theorem onCore_maint (hc : enabledCore s c = true) (hm : (coreAt s c).maint = true) :
    onCore op s c st w plan m = maintPort s c w (if wOp w = op then m else fun s => setMstat s c 4) := by
  simp [onCore, hc, hm]

theorem atPort_enabled (hc : enabledCore s c = true) :
    atPort op s c w act = maintPort s c w (if wOp w = op then act else fun s => setMstat s c 4) := if_pos hc

theorem maintPort_outside (hm : (coreAt s c).maint = false) :
    maintPort s c w act = updCore s c (fun x => { x with mpErr := orBit x.mpErr 1 }) := if_pos (by simp [hm])

theorem maintPort_busy (hm : (coreAt s c).maint = true) (hbusy : (coreAt s c).mnext.isSome = true) :
    maintPort s c w act = updCore s c (fun x => { x with mpErr := orBit x.mpErr 0 }) :=
  (if_neg (by simp [hm])).trans (if_pos hbusy)

/-- The opcodes that the port takes (Table 4.22). -/
def portOp (op : Nat) : Bool := decide (op = 0) || decide (op = 0x20) || (decide (0xE0 ≤ op) && decide (op ≤ 0xE8))

theorem maintPort_free (hp : AtPort s c) :
    maintPort s c w act = if bits w 104 24 ≠ 0 ∨ !(portOp (wOp w)) then setMstat s c 4 else act s := by
  obtain ⟨-, -, hm, hfree, hstore⟩ := hp
  simp only [maintPort, hm, hfree, hstore]
  rfl

theorem maintPort_takes (hp : AtPort s c) (hzero : bits w 104 24 = 0) (hop : portOp (wOp w) = true) : maintPort s c w act = act s := by
  rw [maintPort_free hp, if_neg (by simp [hzero, hop])]

/-- Nonzero wait or signal fields, and another opcode, are refused, whatever the port would do for the command's own. -/
theorem maintPort_refuses (hp : AtPort s c) (h : bits w 104 24 ≠ 0 ∨ wOp w ≠ op) :
    maintPort s c w (if wOp w = op then act else fun s => setMstat s c 4) = setMstat s c 4 := by
  rw [maintPort_free hp]
  split
  · rfl
  · rename_i hform
    rw [if_neg (h.resolve_left fun hw => hform (.inl hw))]

/-- A maintenance instruction at the free port does its work. -/
theorem exec_maint (hi : maintCmd i = some (c, w, op, act)) (hp : AtPort s c) (hop : wOp w = op) (hzero : bits w 104 24 = 0) :
    exec i s = .next (answer s (act s)) :=
  (maint_shape s i c w op act hi).trans (plain_eq hp.1 (maint_run hp hop (maint_op i c w op act hi) hzero act))

/-- A stream command at the free port of its core. -/
theorem onCore_port (hp : AtPort s c) (hop : wOp w = op) (hport : portOp op = true) (hzero : bits w 104 24 = 0) :
    onCore op s c st w plan m = m s := by
  obtain ⟨-, hc, hm, -, -⟩ := id hp
  rw [onCore_maint hc hm, maintPort_takes hp hzero (hop ▸ hport), if_pos hop]

/-! What the port refuses -/

/-- A field that holds a nonzero one is not zero. -/
theorem bits_low_ne_zero {n k : Nat} (hle : k ≤ n) (h : bits w 0 k ≠ 0) : bits w 0 n ≠ 0 := by
  intro hz
  refine h ?_
  simp only [bits, pow_zero, Nat.div_one] at hz ⊢
  exact Nat.mod_eq_zero_of_dvd ((Nat.pow_dvd_pow 2 hle).trans (Nat.dvd_of_mod_eq_zero hz))

theorem maintForm_formed {n : Nat} (h : bits w 0 n = 0) : maintForm (rsvZero w n) s c act = act s := if_pos (decide_eq_true h)

theorem maintForm_reserved {n k : Nat} (hle : k ≤ n) (h : bits w 0 k ≠ 0) : maintForm (rsvZero w n) s c act = setMstat s c 4 :=
  if_neg (by simp [rsvZero, bits_low_ne_zero hle h])

/-- The low 52 bits are reserved in each of the nine. -/
theorem maintCmd_reserved (hi : maintCmd i = some (c, w, op, act)) (h : bits w 0 52 ≠ 0) : act s = setMstat s c 4 := by
  cases i with
  | mrdl _ _ | mwrl _ _ | mclr _ _ | mcrc _ _ | mtrb _ _ | mtwb _ _ | mmap _ _ | msig _ _ | msyn _ _ =>
    cases hi
    exact maintForm_reserved (by decide) h
  | _ => cases hi

theorem mclrOp_beyond (hrsv : bits w 0 62 = 0) (h : 131072 < bits w 79 17 + (bits w 62 17 + 1)) : mclrOp c w s = setMstat s c 2 :=
  (maintForm_formed hrsv).trans (if_pos h)

theorem mcrcOp_beyond (hrsv : bits w 0 62 = 0) (h : 131072 < bits w 79 17 + (bits w 62 17 + 1)) : mcrcOp c w s = setMstat s c 2 :=
  (maintForm_formed hrsv).trans (if_pos h)

/-- The two instructions over a range of lines. -/
theorem maintCmd_lines (hi : maintCmd i = some (c, w, op, act)) (hop : op = 0xE2 ∨ op = 0xE3) : act = mclrOp c w ∨ act = mcrcOp c w := by
  cases i with
  | mclr _ _ => cases hi; exact .inl rfl
  | mcrc _ _ => cases hi; exact .inr rfl
  | mrdl _ _ | mwrl _ _ | mtrb _ _ | mtwb _ _ | mmap _ _ | msig _ _ | msyn _ _ =>
    cases hi
    exact absurd hop (by decide)
  | _ => cases hi

end Port

/-- WIN at the port writes the shadow word of the one engine that its mask names. -/
theorem winMaint_shadow {s : State} {c : Nat} {w : W128} (hcheck : chkWin w = .ok) (hword : winOk (wiWord w) = true) (heng : wiEng w = 1)
    (htgt : wiTgt w = false) : winMaint c w s =
      setMstat (updCore s c (fun x => updEngine x 0 (fun g => { g with shadowWin := wiWord w }))) c 0 := by
  have hwrite : winWrite s c w = updCore s c (fun x => updEngine x 0 (fun g => { g with shadowWin := wiWord w })) := by
    rw [winWrite, heng, htgt]
    rfl
  simp only [winMaint, hcheck, hword, hwrite]
  rfl

/-- Settles O33: at the free port every word does its work at once. -/
theorem aMaintenanceInstructionRuns : Obligations.AMaintenanceInstructionRuns := by
  refine ⟨fun s i c w op act hi hp hop hzero => exec_maint hi hp hop hzero, ?stream, ?completes, ?cleared⟩
  case stream =>
    intro s c st w hp hzero hq
    refine ⟨fun hop hrsv => done_eq hp.1 ((onCore_port hp hop rfl hzero).trans ?_) (hq.of_fab rfl),
      fun hop hcheck hword heng htgt => done_eq hp.1 ((onCore_port hp hop rfl hzero).trans (winMaint_shadow hcheck hword heng htgt))
        (hq.of_fab rfl)⟩
    rw [if_pos hrsv]
    rfl
  case completes =>
    intro s c v hl hnext
    refine plain_eq hl ?_
    rw [hnext]
  case cleared => exact fun s c hl hc hclearing => plain_eq hl (if_pos (by rw [hc, hclearing]; rfl))

/-- Settles O34: by the port's checks, and by those of the instruction itself. -/
theorem theMaintenancePortRefuses : Obligations.TheMaintenancePortRefuses := by
  intro s i c w op act hi hl hc
  have port {y : State} (hy : maintPort s c w (if wOp w = op then act else fun s => setMstat s c 4) = y) : exec i s = .next (answer s y) :=
    (maint_shape s i c w op act hi).trans (plain_eq hl ((atPort_enabled hc).trans hy))
  refine ⟨fun hm => port (maintPort_outside hm), fun hm hbusy => port (maintPort_busy hm hbusy), fun hp h => port (maintPort_refuses hp h),
    ?reserved, ?beyond⟩
  case reserved =>
    intro hp hzero hop hrsv
    rw [exec_maint hi hp hop hzero, maintCmd_reserved hi hrsv]
    rfl
  case beyond =>
    intro hp hzero hop hlines hrsv hrange
    rw [exec_maint hi hp hop hzero]
    rcases maintCmd_lines hi hlines with rfl | rfl
    · rw [mclrOp_beyond hrsv hrange]
      rfl
    · rw [mcrcOp_beyond hrsv hrange]
      rfl

/-! ### Lines and sync objects at the port (R139, R152, R154) -/

/-- A core without fences fences no line of its store. -/
theorem fenceOf_nil {x : Core} {l : Nat} (hfences : x.fences = []) (hl : l < 2 ^ 17) : fenceOf x l = none := by
  rw [fenceOf, hfences, List.find?_eq_none]
  intro k _
  have hword : (0 : W32) ≠ BitVec.ofNat 32 (2 ^ 31 + l) := by
    intro h
    have hvalue : 0 = (2 ^ 31 + l) % 2 ^ 32 := congrArg BitVec.toNat h
    omega
  exact fun h => hword (of_decide_eq_true h)

/-- Without a fence on it, a line written is its data and a fresh CRC. -/
theorem putLine_unfenced {x : Core} {l : Nat} (h : fenceOf x l = none) (bs : List Byte) :
    putLine x l bs = { x with store := writeBytes x.store (64 * l) bs, lcrc := tset 0 x.lcrc l 0 } := by
  have h' : fenceOf { x with store := writeBytes x.store (64 * l) bs, lcrc := tset 0 x.lcrc l 0 } l = none := h
  simp only [putLine, h']

theorem putLineRaw_unfenced {x : Core} {l : Nat} (h : fenceOf x l = none) (bs : List Byte) (mask : W16) :
    putLineRaw x l bs mask = { x with store := writeBytes x.store (64 * l) bs, lcrc := tset 0 (tset 0 x.lcrc l 0) l mask } := by
  rw [putLineRaw, putLine_unfenced h]

/-- The FENCE word `k` names one of `n` lines from `a`. -/
def fenceWithin (x : Core) (a n k : Nat) : Bool :=
  bit (tget 0 x.fences k) 31 && decide (a ≤ bits (tget 0 x.fences k) 0 17) && decide (bits (tget 0 x.fences k) 0 17 < a + n)

theorem clearFences_eq (x : Core) (a n : Nat) : clearFences x a n = { x with
    fences := (List.range 8).foldl (fun t k => if fenceWithin x a n k then tset 0 t k 0 else t) x.fences
    unfenced := if (List.range 8).any (fenceWithin x a n) then [] else x.unfenced } := rfl

/-- Where no FENCE word is in use there is no fence to end. -/
theorem clearFences_none {x : Core} {a n : Nat} (h : ∀ k < 8, tget 0 x.fences k = 0) : clearFences x a n = x := by
  have hmiss : ∀ k ∈ List.range 8, fenceWithin x a n k = false := by
    intro k hk
    rw [fenceWithin, h k (List.mem_range.mp hk)]
    rfl
  have hkept : (List.range 8).foldl (fun t k => if fenceWithin x a n k then tset 0 t k 0 else t) x.fences = x.fences :=
    List.foldlRecOn (motive := fun t => t = x.fences) _ _ rfl fun t ht k hk => by rw [if_neg (by simp [hmiss k hk]), ht]
  have hnone : (List.range 8).any (fenceWithin x a n) = false := List.any_eq_false.mpr fun k hk => by simp [hmiss k hk]
  rw [clearFences_eq, hkept, hnone]
  rfl

theorem bits_lt {n : Nat} (w : BitVec n) (lo len : Nat) : bits w lo len < 2 ^ len := Nat.mod_lt _ (Nat.two_pow_pos len)

/-- Settles O35: the instruction's own check passes, and its work is as its definition says. -/
theorem maintenanceResults : Obligations.MaintenanceResults := by
  rintro s c w _ hp hzero rfl
  refine ⟨?mrdl, ?mwrl, ?mclr, ?msyn⟩
  case mrdl =>
    intro hop hrsv
    rw [exec_maint rfl hp hop hzero, mrdlOp, maintForm_formed hrsv]
    rfl
  case mwrl =>
    intro hop hrsv hfences
    have hfree : fenceOf (coreAt s c) (maLine w) = none := fenceOf_nil hfences (bits_lt w 79 17)
    rw [exec_maint rfl hp hop hzero, mwrlOp, maintForm_formed hrsv, updCore, putLineRaw_unfenced hfree]
    rfl
  case mclr =>
    intro hop hrsv hrange hfences
    have hwithin : ¬ Config.storeLines < maLine w + maLines w := Nat.not_lt.mpr hrange
    rw [exec_maint rfl hp hop hzero, mclrOp, maintForm_formed hrsv, if_neg hwithin, updCore, clearFences_none]
    · rfl
    · exact hfences
  case msyn =>
    rintro _ hop hrsv rfl
    rw [exec_maint rfl hp hop hzero, msynOp, maintForm_formed hrsv]
    simp only [isFlag, decide_eq_true_eq]
    rfl

/-! ### Re-reads (R152, R153, R180, R181) -/

section Rereads
variable {s u : State} {c l b i : Nat} {second sched : Bool}

theorem slipWhere_fab (s : State) (c n : Nat) (sched : Bool) : (if sched = true then slipAc s c n else s).fab = s.fab := by cases sched <;> rfl

theorem zeroLine_fab (s : State) (c l : Nat) : (zeroLine s c l).fab = s.fab :=
  forAll_eq State.fab _ _ _ fun s k => by dsimp only; split <;> rfl

/-- Where no operation is outstanding, none holds the line. -/
theorem zeroLine_idle (h : ∀ k < 72, (coreAt s k).ops = []) : zeroLine s c l = s :=
  forAll_same _ _ _ fun k hk => if_pos (by simp [h k (List.mem_range.mp (List.mem_of_mem_filter hk))])

/-- A line that is fenced already is not read again. -/
theorem storeRereadOp_fenced (h : (fenceOf (coreAt s c) l).isSome = true) : storeRereadOp s c l second sched = s := if_pos (.inr (.inr h))

theorem storeRereadOp_reads (hc : enabledCore s c = true) (hl : l < 131072) (hf : fenceOf (coreAt s c) l = none) :
    storeRereadOp s c l second sched = lineReread (if second = true then s else zeroLine s c l) c l second sched :=
  if_neg (by simp [hc, hf, Config.storeLines, hl])

/-- With a FENCE word free, the line is fenced in it and CRC_FENCE is set. -/
theorem fenceLine_free (h : freeFence (coreAt s c) = some i) : fenceLine s c l =
    setStoreFault (updCore s c (fun x => { x with
      fences := tset 0 x.fences i (BitVec.ofNat 32 (2 ^ 31 + l)), unfenced := x.unfenced.filter (fun n => decide (n ≠ l)) })) c 1 := by
  simp only [fenceLine, h]
  rfl

/-- A second mismatch counts, fences the line and raises its fault. -/
theorem lineReread_fences (hu : u = updCore (if sched = true then slipAc s c 3 else s) c (fun x => { x with rereads := satAdd x.rereads 1 }))
    (h : freeFence (coreAt u c) = some i) : lineReread s c l false sched =
    raiseCore (setStoreFault (updCore u c (fun x => { x with
      fences := tset 0 x.fences i (BitVec.ofNat 32 (2 ^ 31 + l)), unfenced := x.unfenced.filter (fun n => decide (n ≠ l)) })) c 1) c 0x09
      (l * 2 ^ 27) := by
  rw [← fenceLine_free h, hu]
  rfl

/-- A block that is fenced already is not read again. -/
theorem tierRereadOp_fenced (h : (fenceEntry s.tiers c b).isSome = true) : tierRereadOp s c b second sched = s := if_pos (.inr (.inr h))

theorem tierRereadOp_delivers (hc : enabledCore s c = true) (hb : b < 393216) (hf : fenceEntry s.tiers c b = none) :
    tierRereadOp s c b true sched = blockReread s c b true sched := if_neg (by simp [hc, hf, Config.columnBlocks, hb])

end Rereads

/-- Settles O36: what a re-read of each kind does, and that a fence keeps it from being made. -/
theorem rereadsAreCountedAndFence : Obligations.RereadsAreCountedAndFence := by
  refine ⟨?delivers, ?fences, fun s c l => zeroLine_idle, ?tier, ?fenced⟩
  case delivers =>
    intro s c l sched hl hc hline hf hq
    exact done_eq hl (storeRereadOp_reads hc hline hf) (hq.of_fab (slipWhere_fab s c 3 sched))
  case fences =>
    intro s u c l sched i hl hc hline hf hq hu hfree
    have hfab : u.fab = s.fab := by
      rw [hu]
      exact (slipWhere_fab _ c 3 sched).trans (zeroLine_fab s c l)
    exact done_eq hl ((storeRereadOp_reads hc hline hf).trans (lineReread_fences hu hfree)) ((raiseCore_calm _ _ _ _).quiet (hq.of_fab hfab))
  case tier => exact fun s c b sched hl hc hb hf => done_settle hl (tierRereadOp_delivers hc hb hf)
  case fenced =>
    exact fun s c n second sched hl hq =>
      ⟨fun h => done_eq hl (storeRereadOp_fenced h) hq, fun h => done_eq hl (tierRereadOp_fenced h) hq⟩

/-! ### Arrivals (R116, R155) -/

section Arrivals
variable {s : State} {c lim o : Nat} {e : SyncEff} {x : Core}

theorem applyAll_single : applyAll s c [(e, o)] = applyEffs s c o [e] := by simp [applyAll, forAll]

/-- With no other effect due, the end of an ac brings the first four arrivals. -/
theorem effectsEnd_arrivals (hsigs : (coreAt s c).sigs = []) (harrivals : (coreAt s c).arrivals ≠ []) :
    effectsEnd lim s c = forAll ((coreAt s c).arrivals.take 4)
      (applyAll (setCore s c { coreAt s c with arrivals := (coreAt s c).arrivals.drop 4 }) c
        (((coreAt s c).arrivals.take 4).map (fun a => (.arrival, a.obj.toNat))))
      (fun s a => oweStatus s c a.reply 0) := by
  have hsome : ¬ (((coreAt s c).sigs.isEmpty && (coreAt s c).arrivals.isEmpty) = true) := by simp [harrivals]
  refine (if_neg hsome).trans ?_
  simp only [hsigs, List.takeWhile_nil, List.length_nil, List.drop_nil, List.map_nil, List.nil_append]

theorem effectsEnd_idle (hsigs : (coreAt s c).sigs = []) (harrivals : (coreAt s c).arrivals = []) : effectsEnd lim s c = s :=
  if_pos (by simp [hsigs, harrivals])

theorem applyEffs_arrival (hx : coreAt s c = x) (hgood : x.badSync.contains o = false) (hrange : (syncAt x o).val.toNat + 1 < 2 ^ 32) :
    applyEffs s c o [.arrival] = setCore s c (setSync x o { syncAt x o with val := (syncAt x o).val + 1 }) := by
  have hnext : BitVec.ofNat 32 ((syncAt x o).val.toNat + 1) = (syncAt x o).val + 1 := by
    rw [BitVec.ofNat_add, BitVec.ofNat_toNat, BitVec.setWidth_eq]
    rfl
  rw [applyEffs_single hx hgood rfl hrange, hnext]
  rfl

end Arrivals

/-! ### Gather entries (R158, R159, Table 5.6) -/

section Gather
variable {s u : State} {c i : Nat} {e : GEntry} (hentry : gatherAt (coreAt s c) i = some e)

theorem tickUntil_there {n : Nat} {p : State → Bool} (h : p s = true) : tickUntil n s p = s := by
  cases n with
  | zero => rfl
  | succ n => exact if_pos (.inl h)

include hentry

/-- A whole line goes to its bank in one write. -/
theorem flushEntry_whole (hmask : e.mask = BitVec.allOnes 64) : flushEntry s c i = resumeHeld (forAll e.notes
    (writeLine (setCore s c (setGather (coreAt s c) i none)) c e.line e.data) (fun s id => noteFlushed s c false id)) c := by
  simp only [flushEntry, hentry, hmask, if_true]

/-- A part of a line that reads well is merged into it. -/
theorem flushEntry_merges (hmask : e.mask ≠ BitVec.allOnes 64) (hfence : fenceOf (coreAt s c) e.line = none)
    (hcrc : tget 0 (coreAt s c).lcrc e.line = 0) : flushEntry s c i = resumeHeld (forAll e.notes
      (updCore (setCore s c (setGather (coreAt s c) i none)) c (fun x =>
        putLine x e.line (mergeBytes e.mask (bytesOfLine e.data) (lineBytes x e.line))))
      (fun s id => noteFlushed s c false id)) c := by
  simp only [flushEntry, hentry, hmask, hfence, hcrc, if_false, Option.isSome_none, Bool.false_eq_true, ne_eq, not_true]

theorem gatherFlushOp_due (h : flushDue e = true) : gatherFlushOp s c i = flushEntry s c i := by simp only [gatherFlushOp, hentry, h, if_true]

theorem gatherFlushOp_early (hmask : e.mask ≠ BitVec.allOnes 64) (hother : e.other = false) : gatherFlushOp s c i = s := by
  have hearly : flushDue e = false := by rw [flushDue, decide_eq_false hmask, hother, Bool.or_self]
  simp [gatherFlushOp, hentry, hearly]

/-- An entry with bytes of another source, or with none of the service complex, has no time limit. -/
theorem gatherIdle_untimed (h : e.other = true ∨ e.svc = false) : gatherIdle s c i = s := by
  rcases h with h | h <;> simp [gatherIdle, hentry, h]

/-- An entry of service-complex bytes alone is flushed when its 32 ac have passed. -/
theorem gatherIdle_flushes (hother : e.other = false) (hsvc : e.svc = true)
    (hu : u = tickUntil 32 s (fun s => decide (e.at_ + gatherWait s ≤ s.now))) (htime : e.at_ + gatherWait u ≤ u.now)
    (hstill : gatherAt (coreAt u c) i = some e) : gatherIdle s c i = flushEntry u c i := by
  subst hu
  simp [gatherIdle, hentry, hother, hsvc, htime, hstill]

end Gather

/-! ### Held ring writes (R162) -/

section Rings
variable {s : State} {c r : Nat} {h : RingHeld} {rest : List RingHeld} (hheld : (ringAt (coreAt s c) r).heldWrites = h :: rest)
include hheld

theorem ringResume_fills (hroom : ringFilled (coreAt s c) r < ringSlots (coreAt s c) r) : ringResume s c r =
    ringFill (setCore s c (updRing (coreAt s c) r (fun g => { g with heldWrites := rest }))) c r h.data h.src h.reply := by
  simp only [ringResume, hheld, if_pos hroom]

theorem ringResume_full (hfull : ringSlots (coreAt s c) r ≤ ringFilled (coreAt s c) r) : ringResume s c r = s := by
  simp only [ringResume, hheld, if_neg (Nat.not_lt.mpr hfull)]

end Rings

/-! ### Sync objects written from outside (R170) -/

section SyncWrites
variable {s : State} {rq : Requester} {c : CoreId} {o off rank due : Nat} {v : W32} {e : SyncEff}

theorem syncWriteOp_refused (h : mayWriteSync s rq c = false) : syncWriteOp s rq c off v = s := if_neg (by simp [h])

theorem syncWriteOp_taken (hc : enabledCore s c = true) (hmay : mayWriteSync s rq c = true) (hword : isSyncWord off = true) (haligned : off % 4 = 0) :
    syncWriteOp s rq c off v = (writeSync s c off v).1 := if_pos (by simp [hc, hmay, hword, haligned])

/-- SYNC_VAL of object `o`, with a value of its kind. -/
theorem syncWriteOp_value (hc : enabledCore s c = true) (hmay : mayWriteSync s rq c = true) (ho : o < 256) (hkind : o < 128 → v.toNat ≤ 1) :
    syncWriteOp s rq c (0x1000 + 8 * o) v = effectAt s c 15 (clk s c) (.value v) o := by
  have hobject : (0x1000 + 8 * o - 0x1000) / 8 = o := by omega
  have hflag : ¬ (isFlag o = true ∧ 1 < v.toNat) := by
    rintro ⟨hlow, hbig⟩
    exact Nat.not_lt.mpr (hkind (of_decide_eq_true hlow)) hbig
  rw [syncWriteOp_taken hc hmay (by simp [isSyncWord]; omega) (by omega)]
  simp only [writeSync, hobject, if_neg hflag, show (0x1000 + 8 * o) % 8 = 0 by omega, if_true]

/-- SYNC_THR of object `o`, which is no flag. -/
theorem syncWriteOp_threshold (hc : enabledCore s c = true) (hmay : mayWriteSync s rq c = true) (ho : o < 256) (hkind : 128 ≤ o) :
    syncWriteOp s rq c (0x1004 + 8 * o) v = effectAt s c 15 (clk s c) (.threshold v) o := by
  have hobject : (0x1004 + 8 * o - 0x1000) / 8 = o := by omega
  have hflag : isFlag o = false := decide_eq_false (Nat.not_lt.mpr hkind)
  have hodd : ¬ (0x1004 + 8 * o) % 8 = 0 := by omega
  rw [syncWriteOp_taken hc hmay (by simp [isSyncWord]; omega) (by omega)]
  simp only [writeSync, hobject, hflag, if_neg hodd, Bool.false_eq_true, if_false]

/-- In the tempo an effect waits for the end of its ac. -/
theorem effectAt_waits (hgated : s.lock.gated = false) (hmaint : (coreAt s c).maint = false) :
    effectAt s c rank due e o = updCore s c (fun x => { x with sigs := insertSig ⟨16 * due + rank, e, o⟩ x.sigs }) :=
  if_neg (by simp [hgated, hmaint])

/-- Outside it an effect comes at once. -/
theorem effectAt_now (h : s.lock.gated = true ∨ (coreAt s c).maint = true) : effectAt s c rank due e o = applyEffs s c o [e] :=
  if_pos (by simpa using h)

theorem applyEffs_value (hgood : (coreAt s c).badSync.contains o = false) :
    applyEffs s c o [.value v] = setCore s c (setSync (coreAt s c) o { syncAt (coreAt s c) o with val := v }) := by
  rw [applyEffs_single rfl hgood rfl v.isLt, BitVec.ofNat_toNat, BitVec.setWidth_eq]
  rfl

theorem applyEffs_threshold (hgood : (coreAt s c).badSync.contains o = false) :
    applyEffs s c o [.threshold v] = setCore s c (setSync (coreAt s c) o { syncAt (coreAt s c) o with thr := v }) := by
  rw [applyEffs_single rfl hgood rfl (syncAt (coreAt s c) o).val.isLt, BitVec.ofNat_toNat, BitVec.setWidth_eq]
  rfl

end SyncWrites

/-- Settles O37: each command by what its event does. -/
theorem arrivalsGatherEntriesAndRings : Obligations.ArrivalsGatherEntriesAndRings := by
  refine ⟨?step, ?none, ?one, ?flush, ?idle, fun s c hl => done_settle hl rfl, ?ring, ?write⟩
  case step =>
    rintro s c _ hl hsigs harrivals rfl
    exact done_settle hl (effectsEnd_arrivals hsigs harrivals)
  case none => exact fun s c hl hsigs harrivals hq => done_eq hl (effectsEnd_idle hsigs harrivals) hq
  case one =>
    intro s c a x hx _ hgood hrange
    exact applyAll_single.trans (applyEffs_arrival hx.symm hgood hrange)
  case flush =>
    intro s c i e hl hentry
    refine ⟨fun hmask => done_settle hl ?_, fun hmask hother hfence hcrc => done_settle hl ?_,
      fun hmask hother hq => done_eq hl (gatherFlushOp_early hentry hmask hother) hq⟩
    · exact (gatherFlushOp_due hentry (by simp [flushDue, hmask])).trans (flushEntry_whole hentry hmask)
    · exact (gatherFlushOp_due hentry (by simp [flushDue, hother])).trans (flushEntry_merges hentry hmask hfence hcrc)
  case idle =>
    intro s c i e hl hentry
    refine ⟨fun h hq => done_eq hl (gatherIdle_untimed hentry h) hq, fun hother hsvc htime => done_settle hl ?_,
      fun u hother hsvc hu htime hstill => done_settle hl (gatherIdle_flushes hentry hother hsvc hu htime hstill)⟩
    exact gatherIdle_flushes hentry hother hsvc (tickUntil_there (decide_eq_true htime)).symm htime hentry
  case ring =>
    intro s c r h rest hl hheld
    exact ⟨fun hroom => done_settle hl (ringResume_fills hheld hroom), fun hfull hq => done_eq hl (ringResume_full hheld hfull) hq⟩
  case write =>
    intro s rq c o v hl hc ho hq
    have written {off : Nat} {y : State} (hy : syncWriteOp s rq c off v = y) (hfab : y.fab = s.fab) :
        exec (.syncObjectWrite rq c off v) s = .next (answer s y) :=
      done_eq hl hy (hq.of_fab hfab)
    refine ⟨fun hwho hkind => ?taken, fun hwho => written (syncWriteOp_refused ?_) rfl⟩
    case taken =>
      have hmay : mayWriteSync s rq c = true := by
        rcases hwho with rfl | ⟨k, rfl, hk⟩
        · rfl
        · exact decide_eq_true hk
      have value := syncWriteOp_value hc hmay ho hkind
      have threshold := fun h => syncWriteOp_threshold (v := v) hc hmay ho h
      refine ⟨fun hgated hmaint => ⟨written (value.trans (effectAt_waits hgated hmaint)) rfl,
          fun h => written ((threshold h).trans (effectAt_waits hgated hmaint)) rfl⟩,
        fun hnow hgood => ⟨written ((value.trans (effectAt_now hnow)).trans (applyEffs_value hgood)) rfl,
          fun h => written (((threshold h).trans (effectAt_now hnow)).trans (applyEffs_threshold hgood)) rfl⟩⟩
    · rcases hwho with ⟨k, rfl⟩ | ⟨k, rfl, hk⟩
      · rfl
      · exact decide_eq_false hk

end Sys2Proof.Machine

/-! PROOFS for the weight tiers (06): the boundary-wait queue, the weak list, slice substitutions and scrub. -/

namespace Sys2Proof.Machine

/-! ### The boundary-wait queue (R185) -/

section BoundaryQueue
variable {s : State} {c : Nat} {o : BqOp} {os : List BqOp}

theorem boundaryQueueStep_takes (hqueue : (coreAt s c).bq = o :: os)
    (hwaits : (coreAt s c).boundary = true ∨ (coreAt s c).maint = true ∨ (coreAt s c).barred = true) :
    boundaryQueueStep s c = boundaryOp (setCore s c (refillBq { coreAt s c with bq := os })) c o := by
  refine (if_pos ?_).trans (by rw [hqueue])
  simpa only [Bool.or_eq_true, or_assoc] using hwaits

theorem boundaryQueueStep_keeps (hboundary : (coreAt s c).boundary = false) (hmaint : (coreAt s c).maint = false)
    (hbarred : (coreAt s c).barred = false) : boundaryQueueStep s c = s :=
  if_neg (by simp [hboundary, hmaint, hbarred])

/-- A repair of a block that is no longer fenced discards its data. -/
theorem boundaryOp_repair_unfenced {b : Nat} {data : BitVec 4096} {fromHost : Bool} (h : fenceEntry s.tiers c b = none) :
    boundaryOp s c (.repair b data fromHost) = s := by
  simp only [boundaryOp, h]

end BoundaryQueue

/-! ### Slice substitutions (R174) -/

section Substitution
variable {s : State} {native sub nt st i : Nat}

theorem subOk_refuses (h : enabledCore s sub = true ∨ enabledCore s native = false ∨ nt ≠ st) : subOk s native nt sub st = false := by
  rcases h with h | h | h <;> simp [subOk, h]

theorem addSub_refused (h : subOk s native nt sub st = false) : addSub s native nt sub st = s := by
  unfold addSub
  split
  · exact if_neg (by simp [h])
  · rfl

/-- A new entry takes the first free place. -/
theorem addSub_adds (hok : subOk s native nt sub st = true)
    (hfree : (List.range 16).find? (fun i => !(bit (tget 0 s.tiers.subs i) 31)) = some i) :
    addSub s native nt sub st = { s with
      tiers := { s.tiers with subs := tset 0 s.tiers.subs i (BitVec.ofNat 32 (2 ^ 31 + nt * 2 ^ 16 + native * 2 ^ 8 + sub)) }.keep } := by
  simp only [addSub, hfree, hok, if_true, subWord, updTiers]

end Substitution

/-! ### Scrub (R189, R190, Table 6.6) -/

section Scrub
variable {s u : State} {loc : BlockLoc} {res : ReadResult}

theorem scrubStep_off (h : bit s.tiers.ctrl 0 = false) : scrubStep s loc res = s := if_pos (.inl (by rw [h]; rfl))

/-- What a sweep has read does not change what it has to read. -/
theorem sweepBlocks_seen (s : State) (seen : Tiers → List Nat) :
    sweepBlocks (updTiers s (fun t => { t with sweepSeen := seen t })) = sweepBlocks s := rfl

/-- A clean read of a good block only counts towards its sweep, which it may end. -/
theorem scrubStep_clean (hon : bit s.tiers.ctrl 0 = true) (hloc : locOk s loc = true)
    (hunfenced : ∀ c b, ownerOf s (locBlock s loc) = some (c, b) → fenceEntry s.tiers c b = none)
    (hcrc : tget 0 s.tiers.crc (locBlock s loc) = 0)
    (hu : u = updTiers s (fun t => { t with
      sweepSeen := (if locBlock s loc ∈ t.sweepSeen then t.sweepSeen else locBlock s loc :: t.sweepSeen) })) :
    scrubStep s loc .clean = if sweepBlocks s ≤ u.tiers.sweepSeen.length then sweepEnd u else u := by
  have hread : ¬ ((!(bit s.tiers.ctrl 0)) = true ∨ (!(locOk s loc)) = true) := by simp [hon, hloc]
  have hgood : (decide (tget 0 s.tiers.crc (locBlock s loc) ≠ 0) || decide (ReadResult.clean = .persistent)) = false := by
    rw [hcrc]
    rfl
  have hblocks : sweepBlocks s = sweepBlocks u := by rw [hu, sweepBlocks_seen]
  rw [hblocks]
  cases howner : ownerOf s (locBlock s loc) with
  | none => simp only [scrubStep, if_neg hread, howner, hgood, ← hu, Bool.false_eq_true, if_false]
  | some p =>
    simp only [scrubStep, if_neg hread, howner, hunfenced p.1 p.2 howner, Option.isSome_none, hgood, ← hu, Bool.false_eq_true, if_false]

/-- The period that follows a sweep (Table 6.6). -/
def nextPeriod (t : Tiers) : Nat :=
  if t.sweepBad = true ∨ bits t.scrubCfg 0 8 ≤ t.sweepRereads then max (t.scrubPeriod.toNat / 2) t.scrubMin.toNat
  else if t.sweepRereads = 0 ∧ 4 ≤ t.cleanSweeps + 1 then min (t.scrubPeriod.toNat * 2) t.scrubMax.toNat
  else t.scrubPeriod.toNat

/-- After a sweep without a persistent failure, four clean sweeps in a row have passed just when this one had no re-read and ends a run of
four. -/
theorem four_le_run_iff {t : Tiers} (h : ¬ t.sweepBad = true) :
    4 ≤ (if (decide (t.sweepRereads = 0) && !t.sweepBad) = true then t.cleanSweeps + 1 else 0) ↔
      t.sweepRereads = 0 ∧ 4 ≤ t.cleanSweeps + 1 := by
  by_cases hrereads : t.sweepRereads = 0 <;> simp [h, hrereads]

/-- The next period by the count of clean sweeps as the end of a sweep leaves it. -/
theorem nextPeriod_eq (t : Tiers) : nextPeriod t =
    if t.sweepBad = true ∨ bits t.scrubCfg 0 8 ≤ t.sweepRereads then max (t.scrubPeriod.toNat / 2) t.scrubMin.toNat
    else if 4 ≤ (if (decide (t.sweepRereads = 0) && !t.sweepBad) = true then t.cleanSweeps + 1 else 0) then
      min (t.scrubPeriod.toNat * 2) t.scrubMax.toNat
    else t.scrubPeriod.toNat :=
  if_ctx_congr Iff.rfl (fun _ => rfl) fun h => if_congr (four_le_run_iff (not_or.mp h).1).symm rfl rfl

/-- The end of a sweep starts the next one with its period; besides, it may set SCRUB_LATE. -/
theorem sweepEnd_tiers (s : State) : ∃ (status : W32) (run : Nat), (sweepEnd s).tiers = { s.tiers with
    status := status, scrubPeriod := BitVec.ofNat 32 (nextPeriod s.tiers), scrubSweeps := s.tiers.scrubSweeps + 1, sweepRereads := 0,
    sweepBad := false, cleanSweeps := run, sweepSeen := [], sweepAt := s.now } := by
  rw [nextPeriod_eq]
  unfold sweepEnd
  extract_lets _ _ _ _ _ late
  cases late
  · exact ⟨_, _, rfl⟩
  · exact ⟨_, _, rfl⟩

end Scrub

/-- Settles O38: each event of the tiers by what it does, and by what keeps it from doing anything. -/
theorem tierEventsFollowTheirRules : Obligations.TierEventsFollowTheirRules := by
  refine ⟨?queue, fun s c b d h => boundaryOp_repair_unfenced, fun s loc hl => plain_live hl _, ?substitution,
    fun s loc r hl hoff => plain_eq hl (scrubStep_off hoff), ?scrub, ?sweep⟩
  case queue =>
    intro s c o os hl hqueue
    exact ⟨fun hwaits => done_settle hl (boundaryQueueStep_takes hqueue hwaits),
      fun hboundary hmaint hbarred hq => done_eq hl (boundaryQueueStep_keeps hboundary hmaint hbarred) hq⟩
  case substitution =>
    intro s c d t u hl
    refine ⟨fun i hmaint hok hfree => plain_eq hl ((if_pos hmaint).trans (addSub_adds hok hfree)), fun h => plain_eq hl ?_⟩
    rcases h with hmaint | hrule
    · exact if_neg (by simp [hmaint])
    · exact ite_eq_right_iff.mpr fun _ => addSub_refused (subOk_refuses (hrule.imp_right (Or.imp_right Fin.val_ne_of_ne)))
  case scrub =>
    intro s u loc hl hon hloc hunfenced hcrc hu
    have hstep := scrubStep_clean hon hloc hunfenced hcrc hu
    exact ⟨fun hmore => plain_eq hl (hstep.trans (if_neg hmore.not_ge)), fun hwhole => plain_eq hl (hstep.trans (if_pos hwhole))⟩
  case sweep =>
    rintro s _ rfl
    obtain ⟨status, run, htiers⟩ := sweepEnd_tiers s
    rw [htiers]
    exact ⟨rfl, rfl, rfl, rfl⟩

end Sys2Proof.Machine

/-! PROOFS for the on-die mesh (08): flits at a router. -/

namespace Sys2Proof.Machine

/-! ### A flit off its link (R215, R216) -/

theorem routerAt_updRouter_same {s : State} (h : Rising s.routers) (r : Nat) (g : Router → Router) :
    routerAt (updRouter s r g) r = g (routerAt s r) :=
  tget_tset_same _ h r _

/-- The flit that stands next on its link leaves the others there. -/
theorem takeLink_link {s : State} {r inp n o : Nat} {f : MeshFlit} {fs : List MeshFlit} (hend : linkEnd r inp = some (n, o))
    (hrouters : twf {} s.routers) (hlinks : twf [] (routerAt s n).link) (hlink : tget [] (routerAt s n).link o = f :: fs) :
    tget [] (routerAt (takeLink s r inp f) n).link o = fs := by
  rw [takeLink, hend]
  dsimp only
  rw [routerAt_updRouter_same hrouters.1, tupd, tget_tset_same _ hlinks.1, hlink]
  exact if_pos rfl

/-- A flit on a port that leads nowhere, or at a core router that stands still, is not taken (R220). -/
theorem flitComes_not_taken {s : State} {r inp : Nat} {f : MeshFlit}
    (h : routerExists s r = false ∨ portLeads s r inp = false ∨ (r < 72 ∧ meshStopped s = true)) : flitComes s r inp f = s :=
  if_pos (by simpa only [Bool.not_eq_true'] using h)

/-- Which routers exist depends on the module's card alone. -/
theorem routerExists_of_card {s t : State} (h : t.card = s.card) (r : Nat) : routerExists t r = routerExists s r := by
  rw [routerExists, routerExists, enabledCore, enabledCore, h]

theorem routerExists_takeLink (s : State) (r inp : Nat) (f : MeshFlit) : routerExists (takeLink s r inp f) r = routerExists s r :=
  routerExists_of_card (takeLink_card s r inp f) r

theorem takeLink_quiet {s : State} (q : Quiet s) (r inp : Nat) (f : MeshFlit) : Quiet (takeLink s r inp f) := by
  rwa [Quiet, takeLink_fab]

theorem updRouter_quiet {s : State} (q : Quiet s) (r : Nat) (g : Router → Router) : Quiet (updRouter s r g) := q

/-- A flit that a router takes leaves nothing to settle where its way through the tables leaves nothing. -/
theorem flit_comes_quiet {s u t : State} {r : RouterId} {inp : RPort} {f : MeshFlit} (hl : live s = true) (hr : routerExists s r = true)
    (hp : portLeads s r inp = true) (hm : 72 ≤ r.val ∨ meshStopped s = false) (hu : u = takeLink s r inp f)
    (hway : routerReceive u r inp f = t) (q : Quiet t) : exec (.flitReceive r inp f) s = .next (answer s t) := by
  rw [flit_comes hl hr hp hm hu hway, settle_quiet q]

/-! ### A good flit takes its table's way (R218, R225, R226) -/

section GoodFlit
variable {s : State} {r inp : Nat} {f : MeshFlit}

/-- A good free flit goes by the routing entry `e` of its destination. -/
theorem routerReceive_free {e : Byte} (hr : routerExists s r = true) (hcrc : flitCrc f.payload f.side = f.crc)
    (hfree : sideWeft f.side = false) (hparity : badEntry s r (sideDest f.side) = false)
    (he : e = tget 0 (routerAt s r).route (sideDest f.side)) :
    routerReceive s r inp f = if bit e 7 = true then updRouter s r (fun x => { x with free := x.free ++ [⟨inp, bits e 0 3, f, 0, s.now⟩] })
      else unroutable s r (sideCtx f.side) (sideDest f.side) := by
  simp only [routerReceive, ← he, hr, hcrc, hfree, hparity, decide_true, Bool.not_true, Bool.false_eq_true, if_false, if_true]

/-- A good weft flit goes by the entry `e` of its stream. -/
theorem routerReceive_weft {e : W32} (hr : routerExists s r = true) (hcrc : flitCrc f.payload f.side = f.crc)
    (hweft : sideWeft f.side = true) (hparity : badEntry s r (128 + sideStream f.side) = false)
    (he : e = tget 0 (routerAt s r).stream (sideStream f.side)) :
    routerReceive s r inp f =
      if weftActive s r = false ∨ bit e 31 = false ∨ bits e 26 4 ≠ sideCtx f.side ∨ bits e 23 3 ≠ inp then strayFlit s r f
      else if bit e 30 = true then seamOperand s r (bits e 9 6) inp f
      else updRouter s r (fun x => { x with weft := x.weft ++ [⟨inp, 0, f, BitVec.ofNat 8 (bits e 15 8), s.now⟩] }) := by
  simp only [routerReceive, ← he, hr, hcrc, hweft, hparity, decide_true, Bool.not_true, Bool.not_eq_true', Bool.false_eq_true, if_false,
    if_true]

/-- A flit that its stream entry expects here, and for no seam, waits for the entry's outputs. -/
theorem routerReceive_expected {e : W32} (hr : routerExists s r = true) (hcrc : flitCrc f.payload f.side = f.crc)
    (hweft : sideWeft f.side = true) (hparity : badEntry s r (128 + sideStream f.side) = false)
    (he : e = tget 0 (routerAt s r).stream (sideStream f.side)) (hactive : weftActive s r = true) (hvalid : bit e 31 = true)
    (hseam : bit e 30 = false) (hctx : bits e 26 4 = sideCtx f.side) (hinp : bits e 23 3 = inp) :
    routerReceive s r inp f =
      updRouter s r (fun x => { x with weft := x.weft ++ [⟨inp, 0, f, BitVec.ofNat 8 (bits e 15 8), s.now⟩] }) :=
  (routerReceive_weft hr hcrc hweft hparity he).trans
    ((if_neg (by simp [hactive, hvalid, hctx, hinp])).trans (if_neg (by simp [hseam])))

theorem strayFlit_quiet (q : Quiet s) (r : Nat) (f : MeshFlit) : Quiet (strayFlit s r f) :=
  meshFault_calm _ _ _ _ _ _ (updRouter_quiet q _ _)

end GoodFlit

/-! ### A flit with a wrong CRC goes on poisoned (R218, Table 8.10) -/

theorem poisoned_crc (f : MeshFlit) : flitCrc (poisoned f).payload (poisoned f).side = (poisoned f).crc := rfl

theorem sideCtx_poisoned (f : MeshFlit) : sideCtx (poisoned f).side = sideCtx f.side := bits_orBit _ _ _ _ (.inr (by decide))

/-- The fault of a wrong CRC, counted at the router and in the context that the flit names. -/
def crcFault (s : State) (r inp : Nat) (f : MeshFlit) : State :=
  meshFault (updRouter s r (fun x => { x with crcCount := satAdd x.crcCount 1 })) r 0x10 (sideCtx f.side) (inp * 2 ^ 41) 0

theorem routerExists_crcFault (s : State) (r inp : Nat) (f : MeshFlit) : routerExists (crcFault s r inp f) r = routerExists s r :=
  routerExists_of_card (raise_calm _ _ _ _ _ _ _).card r

theorem routerReceive_poisons {s : State} {r : Nat} (inp : Nat) {f : MeshFlit} (hr : routerExists s r = true)
    (hcrc : flitCrc f.payload f.side ≠ f.crc) : routerReceive s r inp f = routerReceive (crcFault s r inp f) r inp (poisoned f) := by
  have hr' := (routerExists_crcFault s r inp f).trans hr
  simp only [routerReceive, hr, hr', hcrc, poisoned_crc, sideCtx_poisoned, decide_true, decide_false, Bool.not_true, Bool.false_eq_true,
    if_false, if_true]
  rfl

/-- Settles O39: a good flit by the entry of its table, a bad one by its poisoned form, and what is not taken by the input's conditions. -/
theorem flitsTakeTheirTablesWay : Obligations.FlitsTakeTheirTablesWay := by
  refine ⟨?good, ?bad, fun s r inp f hl h q => done_eq hl (flitComes_not_taken h) q, fun s r inp n o f fs => takeLink_link⟩
  case good =>
    intro s u r inp f hl hr hp hm hu hcrc
    have hru : routerExists u r = true := by rw [hu, routerExists_takeLink, hr]
    have hnow : u.now = s.now := hu ▸ takeLink_now s r inp f
    have hquiet (q : Quiet s) : Quiet u := hu ▸ takeLink_quiet q r inp f
    refine ⟨fun hfree hparity => ⟨fun e he hvalid q => ?free, fun hvalid => ?unroutable⟩,
      fun hweft hparity => ⟨fun e he hactive hvalid hseam hctx hinp q => ?weft, fun e he hstray q => ?stray⟩⟩
    case free =>
      rw [← hnow]
      exact flit_comes_quiet hl hr hp hm hu ((routerReceive_free hru hcrc hfree hparity he).trans (if_pos hvalid))
        (updRouter_quiet (hquiet q) _ _)
    case unroutable =>
      exact flit_comes hl hr hp hm hu ((routerReceive_free hru hcrc hfree hparity rfl).trans (if_neg (Bool.eq_false_iff.mp hvalid)))
    case weft =>
      rw [← hnow]
      exact flit_comes_quiet hl hr hp hm hu (routerReceive_expected hru hcrc hweft hparity he hactive hvalid hseam hctx hinp)
        (updRouter_quiet (hquiet q) _ _)
    case stray =>
      exact flit_comes_quiet hl hr hp hm hu ((routerReceive_weft hru hcrc hweft hparity he).trans (if_pos hstray))
        (strayFlit_quiet (hquiet q) r f)
  case bad =>
    intro s u r inp f hl hr hp hm hcrc hu
    refine flit_comes hl hr hp hm rfl ?_
    rw [routerReceive_poisons _ ((routerExists_takeLink s r inp f).trans hr) hcrc, hu]
    rfl

end Sys2Proof.Machine

/-! PROOFS for the HanorLink fabric and verdicts (09, 13): sequenced flits, the end of messages, and verdict frames. -/

namespace Sys2Proof.Machine

/-! ### The link layer takes a sequenced flit (R243) -/

/-- A REPLY is a sequenced flit at an HL3 port, and on an older port a flit of that part's own link layer (R247, R248). -/
theorem exec_replyReceive (s : State) (p : PortId) (rx : LinkRx) (r : ReplyRx) (d : List Byte) : exec (.replyReceive p rx r d) s =
    done s (fun s => opposeDrain (if (portAt s p).gen = 3 then linkRx s p rx.seq
      (controlGood rx 9 (BitVec.ofNat 12 (gaChip r.saddr)) (replyPayload r.msgid r.status r.saddr)) (.reply r.saddr r.msgid r.status)
      else legacyReply s p r d)) := rfl

/-- What is received where no OPPOSE frame is left undelivered. -/
theorem opposeDrain_none {s : State} (h : s.fab.oppRx = []) : opposeDrain s = s := by
  rw [opposeDrain, h, List.foldl_nil, updFab, ← h]

theorem flitArrive_data {s : State} {p : Nat} {f : FabFlit} (h : f.typ = 0) : flitArrive s p f = linkRx s p f.seq (flitGood f) (.data f) := if_pos h

theorem flitArrive_reserved {s : State} {p : Nat} {f : FabFlit} (h : f.typ ≠ 0) (ht : trained (portAt s p)) :
    flitArrive s p f = setPort s p { portAt s p with crcN := satAdd (portAt s p).crcN 1 } := (if_neg h).trans (if_pos ht)

/-- The condition under which the link layer takes no sequenced flit. -/
theorem linkClosed_iff (x : Port) : (x.st < 2 ∨ 5 < x.st ∨ x.gen ≠ 3) ↔ ¬ trained x ∨ x.gen ≠ 3 := by
  rw [trained, not_and_or, not_le, not_le, or_assoc]

theorem linkRx_closed {s : State} {p : Nat} (seq : BitVec 12) (ok : Bool) (it : RxItem) (h : ¬ trained (portAt s p) ∨ (portAt s p).gen ≠ 3) :
    linkRx s p seq ok it = s := if_pos ((linkClosed_iff _).mpr h)

section OpenLink
variable {s : State} {p : Nat} {seq : BitVec 12} {it : RxItem} {x : Port} {d : Nat}
variable (hx : x = portAt s p) (hd : d = gapSeq seq x.rxSeq) (ht : trained x) (hg : x.gen = 3)

include ht hg in
theorem not_linkClosed : ¬ (x.st < 2 ∨ 5 < x.st ∨ x.gen ≠ 3) := fun h => ((linkClosed_iff x).mp h).elim (· ht) (· hg)

include hx hd ht hg

theorem linkRx_wrongCrc : linkRx s p seq false it =
    let u := setPort s p { x with crcN := satAdd x.crcN 1 }
    if d < 256 then sendAck u p [seq] else u := by
  subst hx hd
  exact (if_neg (not_linkClosed ht hg)).trans (if_pos rfl)

theorem linkRx_next (hnext : d = 0) : linkRx s p seq true it =
    ackIfDue (drainReorder 256 (deliverItem (setPort s p (takeItem x it)) p it) p) p := by
  subst hx hd
  exact (if_neg (not_linkClosed ht hg)).trans ((if_neg Bool.false_ne_true).trans (if_pos hnext))

theorem linkRx_repeat (h : 256 ≤ d ∨ (0 < d ∧ x.reorder.any (fun e => decide (e.1 = seq)) = true)) : linkRx s p seq true it = s := by
  subst hx hd
  have hother : gapSeq seq (portAt s p).rxSeq ≠ 0 := by omega
  refine (if_neg (not_linkClosed ht hg)).trans ((if_neg Bool.false_ne_true).trans ((if_neg hother).trans ?_))
  rcases h with hfar | ⟨-, hheld⟩
  · exact if_neg (by omega)
  · exact ite_eq_right_iff.mpr fun _ => if_pos hheld

/-- The first flit from ahead: each number before it is missing. -/
theorem linkRx_ahead (hpos : 0 < d) (hnear : d < 256) (hempty : x.reorder = []) : linkRx s p seq true it =
    sendAck (setPort s p { x with reorder := [(seq, it)] }) p ((List.range d).map (fun k => x.rxSeq + BitVec.ofNat 12 k)) := by
  have hmissing : ((List.range d).map (fun k => x.rxSeq + BitVec.ofNat 12 k)).isEmpty = false := by
    simpa [List.range_eq_nil] using hpos.ne'
  subst hx hd
  refine (if_neg (not_linkClosed ht hg)).trans ((if_neg Bool.false_ne_true).trans ((if_neg hpos.ne').trans ((if_pos hnear).trans ?_)))
  simp [hempty, hmissing]

end OpenLink

/-- Settles O41: the commands by the flit that they carry, and the flit by its distance from the next number in sequence. -/
theorem sequencedFlitsComeInOrder : Obligations.SequencedFlitsComeInOrder := by
  refine ⟨?command, ?reply, ?message, fun s p f => ⟨flitArrive_data, flitArrive_reserved⟩, ?link, fun s => opposeDrain_none⟩
  case command =>
    intro s i p seq ok it hi hl
    rw [link_shape s i p seq ok it hi, done_live hl]
  case reply =>
    intro s p rx r d hl hg
    rw [exec_replyReceive, done_live hl, if_pos hg]
  case message => exact fun s p fs hl => done_live hl _
  case link =>
    intro s p seq ok it x d hx hd
    refine ⟨fun h => linkRx_closed seq ok it (hx ▸ h), fun ht hg => ⟨?wrongCrc, ?next, ?again, ?ahead⟩⟩
    case wrongCrc =>
      rintro rfl
      exact linkRx_wrongCrc hx hd ht hg
    case next =>
      rintro rfl hnext
      exact linkRx_next hx hd ht hg hnext
    case again =>
      rintro rfl h
      exact linkRx_repeat hx hd ht hg h
    case ahead =>
      rintro rfl hpos hnear hempty
      exact linkRx_ahead hx hd ht hg hpos hnear hempty

/-! ### How a message ends (R262, R264, Table 9.9) -/

section Messages
variable {s : State} {src : Nat} {id : W32} {st : BitVec 4} {m : Msg}

/-- A status for a core of this module ends a message of its own. -/
theorem replyTo_own {a : W64} (hown : ownModule s (gaChip a) = true) (hcore : gaCore a ≠ 0xFE) (hsrc : sourceOf s a id = some src) :
    replyTo s ⟨a, id, st, 0⟩ = answerMsg s src id st [] := by
  simp only [replyTo, hown, hcore, hsrc, if_true, if_false]

theorem answerMsg_unknown {d : List Byte} (hm : findMsg s src id = none) : answerMsg s src id st d = s := by simp only [answerMsg, hm]

theorem answerMsg_copy {d : List Byte} (hm : findMsg s src id = some m) (hstarted : m.started = true) (hcopies : 1 < m.copies) :
    answerMsg s src id st d = setMsg s { m with copies := m.copies - 1, status := if m.status = 0 then st else m.status } := by
  simp only [answerMsg, hm, hstarted, hcopies, Bool.not_true, Bool.false_eq_true, if_false, if_true]

/-- The last copy of a message ends it under the first nonzero status. -/
theorem answerMsg_last {d : List Byte} (hm : findMsg s src id = some m) (hstarted : m.started = true) (hcopies : m.copies ≤ 1) :
    answerMsg s src id st d = finishMsg s m (if m.status = 0 then st else m.status) d := by
  simp only [answerMsg, hm, hstarted, hcopies.not_gt, Bool.not_true, Bool.false_eq_true, if_false]

/-- A core's message that brings no data completes its operation, and a nonzero status is a message fault (R262). -/
theorem finishMsg_core (st : BitVec 4) (d : List Byte) (hdead : m.dead = false) (hsrc : m.src < 72) (hop : m.op ≠ 1) :
    finishMsg s m st d = snapDone
      (if st = 0 then readyOp (dropMsg s m.src m.msgid) m.src (.message m.msgid.toNat) false
       else messageFault (readyOp (dropMsg s m.src m.msgid) m.src (.message m.msgid.toNat) false) m st) := by
  simp only [finishMsg, hdead, hsrc.not_ge, hop, false_and, Bool.false_eq_true, if_false]

theorem messageExpire_started (hm : findMsg s src id = some m) (hstarted : m.started = true) : messageExpire s src id = finishMsg s m 8 [] := by
  simp only [messageExpire, hm, hstarted, if_true]

theorem messageExpire_unknown (hm : findMsg s src id = none) : messageExpire s src id = s := by simp only [messageExpire, hm]

end Messages

theorem legacyReply_own {s : State} {p src : Nat} {r : ReplyRx} (d : List Byte) (ht : trained (portAt s p))
    (hown : ownModule s (gaChip r.saddr) = true) (hsrc : sourceOf s r.saddr r.msgid = some src) : legacyReply s p r d = answerMsg s src r.msgid r.status d := by
  have hcarries : ¬ ((portAt s p).st < 2 ∨ 5 < (portAt s p).st) := by rw [not_or, not_lt, not_lt]; exact ht
  simp only [legacyReply, hcarries, hown, hsrc, if_false, if_true]

/-! ### Requests of older parts (R249) -/

section Legacy
variable {s : State} {p : Nat} {op a n : Nat} {d : List Byte}

theorem legacyRequest_closed (h : (portAt s p).st ≠ 4 ∨ (portAt s p).gen = 3) : legacyRequest s p op a n d = s :=
  if_pos (h.imp_right fun hgen => .inr (.inl hgen))

variable (hst : (portAt s p).st = 4) (hup : portIsUp (portAt s p) = true) (hgen : (portAt s p).gen ≠ 3) (hopen : (portAt s p).gen ≠ 0)
include hst hup hgen hopen

/-- A port of an older generation that is up takes requests. -/
theorem legacyOpen : ¬ ((portAt s p).st ≠ 4 ∨ (!portIsUp (portAt s p)) = true ∨ (portAt s p).gen = 3 ∨ (portAt s p).gen = 0) := by
  rintro (h | h | h | h)
  · exact h hst
  · exact absurd hup (by simpa using h)
  · exact hgen h
  · exact hopen h

/-- An atomic is refused, whatever it names. -/
theorem legacyRequest_atomic (hop : 2 ≤ op) : legacyRequest s p op a n d = legacyAnswer s p 3 [] := by
  refine (if_neg (legacyOpen hst hup hgen hopen)).trans ?_
  split
  case h_1 => exact if_pos (.inl hop)
  case h_2 => rfl

theorem legacyRequest_write {c off : Nat} (hc : physicalOf s (a / 2 ^ 28 % 64) = some c) (hoff : aperLocal (a % 2 ^ 28) = some off)
    (hroute : routes s (72 + p) c = true) {k : Nat} {b : Byte} (hk : k = bits (portAt s p).legacy 16 4)
    (hb : b = BitVec.ofNat 8 (bits (portAt s p).legacy 8 8)) : legacyRequest s p 0 a n d =
      deliverCore s (legacyHdr s p k off d.length (some b)) c off d (some k) ((physicalOf s (bits (portAt s p).legacy 20 6)).map (fun x => (x, b))) := by
  subst hk hb
  refine (if_neg (legacyOpen hst hup hgen hopen)).trans ?_
  rw [hc, hoff]
  exact (if_neg (by simp [hroute])).trans (if_pos rfl)

end Legacy

/-- Settles O45: a status by the message that it names, a timeout as the status 0x8, and an older part's request by what its port is open for. -/
theorem messagesEndOnce : Obligations.MessagesEndOnce := by
  refine ⟨?reply, fun s src id st a => replyTo_own, ?answer, ?timeout, ?legacy⟩
  case reply =>
    intro s p rx r d hl
    refine ⟨fun hnext hgood => ⟨fun u hu => reply_next hl hnext hgood u hu, fun src m hown hcore hsrc hm hstarted hcopies => ?copy⟩,
      fun ht hgen hdrained hown src hsrc => ?older⟩
    case copy =>
      obtain ⟨-, -, -, hreorder, hunacked, hopp⟩ := id hnext
      have hanswer := (replyTo_own (s := flitTaken s p) (st := r.status) hown hcore hsrc).trans (answerMsg_copy hm hstarted hcopies)
      exact reply_next hl hnext hgood _ (hanswer.symm.trans (if_pos hown).symm) ((congrArg Port.reorder (taken_port s p)).trans hreorder)
        ((congrArg Port.unacked (taken_port s p)).trans_lt (Nat.succ_lt_succ hunacked)) hopp
    case older => rw [exec_replyReceive, done_live hl, if_neg hgen, legacyReply_own d ht hown hsrc]
  case answer =>
    intro s src id st d
    refine ⟨answerMsg_unknown, fun m => answerMsg_copy, fun m hm hstarted hcopies hdead hcore hop hstatus hst => ?last⟩
    rw [answerMsg_last hm hstarted hcopies, hstatus, hst, if_pos rfl, finishMsg_core 0 d hdead hcore hop, if_pos rfl]
  case timeout =>
    intro s src id hl
    refine ⟨fun m hm hstarted hdead hcore hop => done_settle hl ?_, fun hm q => done_eq hl (messageExpire_unknown hm) q⟩
    exact (messageExpire_started hm hstarted).trans ((finishMsg_core 8 [] hdead hcore hop).trans (congrArg snapDone (if_neg (by decide))))
  case legacy =>
    intro s p op a n d hl
    refine ⟨fun h q => done_eq hl (legacyRequest_closed h) q, fun hst hup hgen hopen => ⟨?atomic, ?write⟩⟩
    case atomic =>
      rintro rfl q
      exact done_eq hl (legacyRequest_atomic hst hup hgen hopen le_rfl) q
    case write =>
      rintro c off k b rfl hk hb hc hoff hroute
      exact done_settle hl (legacyRequest_write hst hup hgen hopen hc hoff hroute hk hb)

/-! ### Verdict frames (R370, R371) -/

theorem opposeArrive_verdict {f : Flit256} (h : bits f 64 8 = 3) (s : State) (p : Nat) :
    opposeArrive s p f = if portIsUp (portAt s p) ∧ (portAt s p).gen = 3 then verdictArrive s p f else s := by
  simp only [opposeArrive, h]

/-- `u` is `s` but for frames queued at its ports and for what it remembers to have forwarded or acted on. -/
structure Relayed (s u : State) : Prop where
  tmp : u.tmp = s.tmp
  ctxs : u.ctxs = s.ctxs
  saf : u.saf = s.saf
  job : u.fab.job = s.fab.job

theorem Relayed.ctxAt {s u : State} (h : Relayed s u) (k : Nat) : ctxAt u k = ctxAt s k := by rw [Machine.ctxAt, Machine.ctxAt, h.ctxs]

theorem Relayed.jobTag {s u : State} (h : Relayed s u) (k : Nat) : jobTag u k = jobTag s k := by rw [Machine.jobTag, Machine.jobTag, h.job]

theorem Relayed.ctxCounts {s u : State} (h : Relayed s u) (k : Nat) (l : List W64) : ctxCounts u k l = ctxCounts s k l :=
  ctxCounts_congr h.tmp (by rw [h.ctxAt]) l

/-- The first frame of its tag and count goes on; a further one does not. -/
def verdictForward (s : State) (p : Nat) (f : Flit256) (tag : Nat) (key : W16 × W64) : State :=
  if s.fab.verdicts.contains key then s
  else sendControlAll { s with fab := { s.fab with verdicts := key :: s.fab.verdicts } } ((hl3UpPorts s).filter (fun q => decide (q ≠ p))) 0xA
    (verdictPayload (opCount f) (opArg f / 65536) tag)

/-- Noting a verdict as acted on. -/
def verdictNoted (u : State) (key : W16 × W64) : State := updFab u (fun x => { x with verdictSeen := key :: x.verdictSeen })

theorem verdictForward_relayed (s : State) (p : Nat) (f : Flit256) (tag : Nat) (key : W16 × W64) :
    Relayed s (verdictForward s p f tag key) ∧ (verdictForward s p f tag key).fab.verdictSeen = s.fab.verdictSeen := by
  unfold verdictForward
  split
  case isTrue => exact ⟨⟨rfl, rfl, rfl, rfl⟩, rfl⟩
  case isFalse =>
    exact forAll_keeps (fun t => Relayed s t ∧ t.fab.verdictSeen = s.fab.verdictSeen) _ _ _ ⟨⟨rfl, rfl, rfl, rfl⟩, rfl⟩
      fun _ _ _ h => ⟨⟨h.1.tmp, h.1.ctxs, h.1.saf, h.1.job⟩, h.2⟩

theorem verdictArrive_eq {s : State} {p : Nat} {f : Flit256} {tag : Nat} {key : W16 × W64} (htag : tag = opArg f % 65536)
    (hkey : key = (BitVec.ofNat 16 tag, opCount f)) : verdictArrive s p f =
      if bit s.saf.ctrl 1 = true ∧ key ∉ s.fab.verdictSeen then
        verdictActs (verdictNoted (verdictForward s p f tag key) key) (opArg f / 65536) tag (opCount f)
      else verdictForward s p f tag key := by
  subst htag hkey
  obtain ⟨hrelayed, hseen⟩ := verdictForward_relayed s p f (opArg f % 65536) (BitVec.ofNat 16 (opArg f % 65536), opCount f)
  rw [← hrelayed.saf, ← hseen]
  exact if_congr (by simp [verdictForward, updFab, otherHl3]) rfl rfl

/-- The bound contexts of a tag. -/
def verdictCtxs (s : State) (tag : Nat) : List Nat :=
  (List.range 16).filter (fun k => decide (jobTag s k = some tag) && decide ((ctxAt s k).st ≠ .unbound))

theorem mem_verdictCtxs {s : State} {tag k : Nat} :
    k ∈ verdictCtxs s tag ↔ k < 16 ∧ jobTag s k = some tag ∧ (ctxAt s k).st ≠ .unbound := by
  simp only [verdictCtxs, List.mem_filter, List.mem_range, Bool.and_eq_true, decide_eq_true_eq]

theorem Relayed.verdictCtxs {s u : State} (h : Relayed s u) (tag : Nat) : verdictCtxs u tag = verdictCtxs s tag := by
  simp only [Machine.verdictCtxs, h.jobTag, h.ctxAt]

theorem used_of_bound {s : State} {k : Nat} (h : (ctxAt s k).st ≠ .unbound) : Used s k := fun e => h (by rw [e])

/-- The count is withheld under 0x22 in each of a list of contexts. -/
def verdictWithhold (s : State) (sender tag : Nat) (count : W64) (ks : List Nat) : State :=
  forAll ks s (fun s k => raiseAt s 0x22 [k] [count] 3 0 k (sender % 4096 * 2 ^ 32 + tag * 2 ^ 16))

theorem verdictWithhold_spec (sender tag : Nat) (count : W64) (ks : List Nat) {s : State} (hks : ∀ k ∈ ks, Used s k) :
    Calm s (verdictWithhold s sender tag count ks) ∧ Marked s (verdictWithhold s sender tag count ks) ∧
    ∀ k ∈ ks, ∀ n ∈ ctxCounts s k [count], ∃ m ∈ (ctxAt (verdictWithhold s sender tag count ks) k).marks, m.1 = n := by
  induction ks generalizing s with
  | nil => exact ⟨Calm.refl s, Marked.refl s, fun k hk => absurd hk List.not_mem_nil⟩
  | cons a ks ih =>
    have hcalm := raiseAt_calm s 0x22 [a] [count] 3 0 a (sender % 4096 * 2 ^ 32 + tag * 2 ^ 16)
    obtain ⟨hmarked, hfirst, -⟩ := raiseAt_marks s 0x22 [a] (fun k hk => hks k (List.mem_cons.2 (.inl (List.mem_singleton.1 hk)))) [count] 3 0 a
      (sender % 4096 * 2 ^ 32 + tag * 2 ^ 16)
    obtain ⟨hcalm', hmarked', hrest⟩ := ih fun k hk => hmarked.used k (hks k (List.mem_cons_of_mem a hk))
    refine ⟨hcalm.trans hcalm', hmarked.trans hmarked', fun k hk n hn => ?_⟩
    rcases List.mem_cons.1 hk with rfl | hk
    · obtain ⟨m, hm, e⟩ := hfirst k (List.mem_singleton_self k) n hn
      exact ⟨m, hmarked'.more k m hm, e⟩
    · exact hrest k hk n (by rwa [ctxCounts_congr hcalm.tmp (hmarked.ran k)])

section Acts
variable (s : State) (sender tag : Nat) (count : W64)

/-- The machine when the contexts of the tag that have not committed the count have withheld it. -/
def verdictWithheld : State :=
  verdictWithhold s sender tag count ((verdictCtxs s tag).filter (fun k => !((ctxAt s k).commits.contains count)))

theorem verdictActs_eq : verdictActs s sender tag count =
    if (verdictCtxs s tag).any (fun k => (ctxAt s k).commits.contains count) then
      enterLost (raiseAt (verdictWithheld s sender tag count) 0x27 [] [] 3 0 0 (tag * 2 ^ 28 + count.toNat % 2 ^ 28)) [14]
    else verdictWithheld s sender tag count := rfl

theorem verdictWithheld_spec : Calm s (verdictWithheld s sender tag count) ∧ ∀ k ∈ verdictCtxs s tag, count ∉ (ctxAt s k).commits →
    ∀ n ∈ ctxCounts s k [count], ∃ m ∈ (ctxAt (verdictWithheld s sender tag count) k).marks, m.1 = n := by
  obtain ⟨hcalm, -, hmarks⟩ := verdictWithhold_spec (s := s) sender tag count
    ((verdictCtxs s tag).filter (fun k => !((ctxAt s k).commits.contains count)))
    fun k hk => used_of_bound (mem_verdictCtxs.1 (List.mem_of_mem_filter hk)).2.2
  exact ⟨hcalm, fun k hk hnew => hmarks k (List.mem_filter.2 ⟨hk, by simpa using hnew⟩)⟩

/-- A late verdict takes no mark away. -/
theorem verdictActs_marked : Marked (verdictWithheld s sender tag count) (verdictActs s sender tag count) := by
  rw [verdictActs_eq]
  split
  case isTrue =>
    have hraise := (raiseAt_marks (verdictWithheld s sender tag count) 0x27 [] (fun _ hk => absurd hk List.not_mem_nil) [] 3 0 0
      (tag * 2 ^ 28 + count.toNat % 2 ^ 28)).1
    exact hraise.trans (enterLost_spec _ 14).1
  case isFalse => exact Marked.refl _

variable {s tag count}

theorem verdictActs_withholds {k : Nat} (hk : k ∈ verdictCtxs s tag) (hnew : count ∉ (ctxAt s k).commits) :
    ∀ n ∈ ctxCounts s k [count], ∃ m ∈ (ctxAt (verdictActs s sender tag count) k).marks, m.1 = n := by
  intro n hn
  obtain ⟨m, hm, e⟩ := (verdictWithheld_spec s sender tag count).2 k hk hnew n hn
  exact ⟨m, (verdictActs_marked s sender tag count).more k m hm, e⟩

theorem verdictActs_late (h : ∃ k ∈ verdictCtxs s tag, count ∈ (ctxAt s k).commits) :
    (verdictActs s sender tag count).tmp = { s.tmp with status := orBit (orBit s.tmp.status 11) 14, lost := true, resumeAt := none } ∧
    ∃ e ∈ (verdictActs s sender tag count).saf.reports, e.code = 0x27 ∧ e.valid = true := by
  rw [verdictActs_eq, if_pos (by simpa using h)]
  have hcalm := (verdictWithheld_spec s sender tag count).1.trans
    (raiseAt_calm (verdictWithheld s sender tag count) 0x27 [] [] 3 0 0 (tag * 2 ^ 28 + count.toNat % 2 ^ 28))
  obtain ⟨e, hreports, hcode, hvalid⟩ := raiseAt_report (verdictWithheld s sender tag count) 0x27 [] [] 3 0 0 (tag * 2 ^ 28 + count.toNat % 2 ^ 28)
  obtain ⟨-, hsaf, -, -, -, -, htmp⟩ := enterLost_spec
    (raiseAt (verdictWithheld s sender tag count) 0x27 [] [] 3 0 0 (tag * 2 ^ 28 + count.toNat % 2 ^ 28)) 14
  refine ⟨by rw [htmp, hcalm.tmp], e, ?_, hcode, hvalid⟩
  rw [hsaf, hreports]
  exact List.mem_append_right _ (List.mem_singleton_self e)

theorem verdictActs_inTime (h : ∀ k ∈ verdictCtxs s tag, count ∉ (ctxAt s k).commits) : (verdictActs s sender tag count).tmp = s.tmp := by
  rw [verdictActs_eq, if_neg (by simpa using h)]
  exact (verdictWithheld_spec s sender tag count).1.tmp

end Acts

/-- Settles O46: an OPPOSE flit as the link layer's next one, and a verdict by the contexts of its tag that have committed its count. -/
theorem verdictsWithholdOrLoseTheTempo : Obligations.VerdictsWithholdOrLoseTheTempo := by
  refine ⟨fun s p o i hi hl hnext hgood => oppose_next hi hl hnext hgood, ?verdict⟩
  rintro s p f tag key _ hkind htag hkey rfl
  refine ⟨fun hdown => ?down, fun hup hgen => ?up⟩
  case down =>
    rw [opposeArrive_verdict hkind, if_neg (by simpa [imp_iff_not_or] using hdown)]
  case up =>
    have harrive := (opposeArrive_verdict hkind s p).trans ((if_pos ⟨hup, hgen⟩).trans (verdictArrive_eq htag hkey))
    refine ⟨fun hdone => ?done, fun hrx hnew t ht => ?acts⟩
    case done => exact harrive.trans (if_neg (by simpa [imp_iff_not_or] using hdone))
    case acts =>
      rw [harrive, if_pos ⟨hrx, hnew⟩] at ht
      subst ht
      obtain ⟨⟨htmp, hctxs, hsaf, hjob⟩, -⟩ := verdictForward_relayed s p f tag key
      have h : Relayed s (verdictNoted (verdictForward s p f tag key) key) := ⟨htmp, hctxs, hsaf, hjob⟩
      have hbound {k : Nat} (hk : k < 16) (hjobTag : jobTag s k = some tag) (hst : (ctxAt s k).st ≠ .unbound) :
          k ∈ verdictCtxs (verdictNoted (verdictForward s p f tag key) key) tag := by
        rw [h.verdictCtxs]
        exact mem_verdictCtxs.2 ⟨hk, hjobTag, hst⟩
      refine ⟨fun k hk hj hst hnot n hn => ?withheld, fun ⟨k, hk, hj, hst, hin⟩ => ?late, fun hnone => ?inTime⟩
      case withheld =>
        exact verdictActs_withholds _ (hbound hk hj hst) (by rwa [h.ctxAt]) n (by rwa [h.ctxCounts])
      case late =>
        rw [← h.tmp]
        exact verdictActs_late _ ⟨k, hbound hk hj hst, by rwa [h.ctxAt]⟩
      case inTime =>
        rw [← h.tmp]
        refine verdictActs_inTime _ fun k hk => ?_
        rw [h.verdictCtxs] at hk
        obtain ⟨hlt, hj, hst⟩ := mem_verdictCtxs.1 hk
        rw [h.ctxAt]
        exact hnone k hlt hj hst

end Sys2Proof.Machine

/-! PROOFS for the serving engine (10): the selection of a token. -/

namespace Sys2Proof.Machine

/-! ### The best candidate of a line (R296) -/

/-- Candidate `p` has a larger score than `q`, or the same and no larger a vocabulary index. -/
def Beats (p q : Int × Nat) : Prop := q.1 < p.1 ∨ (q.1 = p.1 ∧ p.2 ≤ q.2)

theorem Beats.refl (p : Int × Nat) : Beats p p := .inr ⟨rfl, le_rfl⟩

theorem Beats.trans {p q r : Int × Nat} (hpq : Beats p q) (hqr : Beats q r) : Beats p r := by
  unfold Beats at *
  omega

/-- The better of a candidate and what was best so far is one of the two, and is beaten by neither. -/
theorem better_some (b : Option (Int × Nat)) (c : Int × Nat) : ∃ q, better b (some c) = some q ∧ Beats q c ∧ (∀ p ∈ b, Beats q p) ∧
    (b = some q ∨ q = c) := by
  cases b with
  | none => exact ⟨c, rfl, Beats.refl c, by simp, .inr rfl⟩
  | some p =>
    by_cases h : p.1 < c.1 ∨ (p.1 = c.1 ∧ c.2 < p.2)
    · refine ⟨c, if_pos h, Beats.refl c, ?_, .inr rfl⟩
      simpa [Beats] using h.imp_right (And.imp_right le_of_lt)
    · refine ⟨p, if_neg h, ?_, by simpa using Beats.refl p, .inl rfl⟩
      unfold Beats
      omega

/-- The best of a list of candidates and of what was best before. -/
theorem foldl_better (l : List (Int × Nat)) {b : Option (Int × Nat)} {r : Int × Nat} (h : l.foldl (fun b c => better b (some c)) b = some r) :
    (∀ p ∈ b, Beats r p) ∧ (∀ c ∈ l, Beats r c) ∧ (b = some r ∨ r ∈ l) := by
  induction l generalizing b with
  | nil =>
    obtain rfl : b = some r := h
    exact ⟨by simpa using Beats.refl r, by simp, .inl rfl⟩
  | cons c l ih =>
    obtain ⟨q, hq, hqc, hqb, hfrom⟩ := better_some b c
    rw [List.foldl_cons, hq] at h
    obtain ⟨hrq, hrest, hin⟩ := ih h
    have hr : Beats r q := hrq q rfl
    refine ⟨fun p hp => hr.trans (hqb p hp), List.forall_mem_cons.mpr ⟨hr.trans hqc, hrest⟩, ?_⟩
    rcases hin with hr | hr
    · obtain rfl := Option.some.inj hr
      exact hfrom.imp_right fun hrc => List.mem_cons.mpr (.inl hrc)
    · exact .inr (List.mem_cons_of_mem c hr)

/-- The candidates of a line: its logits whose vocabulary index exists. -/
def lineCands (key : SelKey) (vocab base : Nat) (d : Line) : List (Int × Nat) :=
  ((List.range 32).filter (fun i => decide (base + i < vocab))).map
    (fun i => (score key (base + i) (BitVec.ofNat 16 (bits d (16 * i) 16)), base + i))

theorem mem_lineCands {key : SelKey} {vocab base : Nat} {d : Line} {c : Int × Nat} : c ∈ lineCands key vocab base d ↔
    ∃ i < 32, base + i < vocab ∧ (score key (base + i) (BitVec.ofNat 16 (bits d (16 * i) 16)), base + i) = c := by
  simp only [lineCands, List.mem_map, List.mem_filter, List.mem_range, decide_eq_true_eq, and_assoc]

theorem lineBest_eq (key : SelKey) (vocab base : Nat) (d : Line) (b : Option (Int × Nat)) :
    lineBest key vocab base d b = (lineCands key vocab base d).foldl (fun b c => better b (some c)) b := by
  simp only [lineBest, lineCands, List.foldl_map, List.foldl_filter, decide_eq_true_eq]

/-! ### Selection lanes (R295) -/

theorem coreId_of_physicalOf {s : State} {n c : Nat} (h : physicalOf s n = some c) : ∃ i : CoreId, i.val = c :=
  ⟨⟨c, lt_of_enabledCore (enabledCore_of_physicalOf h)⟩, rfl⟩

section SelectionLanes
variable {s : State} {k n c : Nat} {e : SelEntry}

theorem selStart_takes (he : selEntry s k n = some e) (hc : physicalOf s e.core = some c) (hrun : (ctxAt s k).st = .running)
    (htrig : (syncAt (coreAt s c) e.trig).val ≠ 0) (hnew : selId k n ∉ s.srv.selRun) : selStart s k n =
      updSrv (effectAt s c 14 (clk s c) (.value 0) e.trig) (fun x => { x with selRun := x.selRun ++ [selId k n] }) := by
  simp only [selStart, he, hc, hrun, htrig, hnew, ne_eq, not_false_eq_true, and_self, if_true]

theorem selStart_idle (he : selEntry s k n = some e) (hc : physicalOf s e.core = some c)
    (h : (ctxAt s k).st ≠ .running ∨ (syncAt (coreAt s c) e.trig).val = 0 ∨ selId k n ∈ s.srv.selRun) : selStart s k n = s := by
  simp only [selStart, he, hc]
  exact if_neg fun ⟨hrun, htrig, hnew⟩ => h.elim (· hrun) fun h => h.elim htrig hnew

variable {d : ServDecl} {r : GroupRec} (he : selEntry s k n = some e) (hd : servDecl s k = some d) (hc : physicalOf s e.core = some c)
  (hr : d.groups[e.group]? = some r)
include he hd hc hr

theorem selDone_sends {u : State} (hu : u = forAll (List.range e.rows) s (fun s i => selRow s k c d e.group r e (e.row0 + i)))
    (hrun : selId k n ∈ s.srv.selRun) : selDone s k n =
      let v := updSrv u (fun x => { x with
        selRun := x.selRun.filter (fun i => decide (i ≠ selId k n)), selDone := x.selDone ++ [selId k n] })
      effectAt v c 14 (clk v c) (.value 1) e.done := by
  simp only [selDone, he, hd, hc, hr, hrun, if_true, hu]

theorem selDone_idle (hrun : selId k n ∉ s.srv.selRun) : selDone s k n = s := by
  simp only [selDone, he, hd, hc, hr, hrun, if_false]

end SelectionLanes

/-- Settles O49: a lane starts and ends by the lemmas above, and the candidate of a line is the best of its list. -/
theorem selectionTakesTheBestCandidate : Obligations.SelectionTakesTheBestCandidate := by
  refine ⟨?start, ?done, ?best⟩
  case start =>
    intro s k n e c hl q he hc
    refine ⟨fun hrun htrig hnew => ?_, fun h => done_eq hl (selStart_idle he hc h) q⟩
    have hstart := selStart_takes he hc hrun htrig hnew
    obtain ⟨c, rfl⟩ := coreId_of_physicalOf hc
    refine ⟨fun hgated hmaint => done_eq hl (hstart.trans ?_) q, fun hnow hgood => done_eq hl (hstart.trans ?_) q⟩
    · rw [effectAt_waits hgated hmaint]
      rfl
    · rw [effectAt_now hnow, applyEffs_value hgood]
      rfl
  case done =>
    intro s k n e c d r hl he hd hc hr
    exact ⟨fun hrun => done_settle hl (selDone_sends he hd hc hr rfl hrun), fun hrun q => done_eq hl (selDone_idle he hd hc hr hrun) q⟩
  case best =>
    intro key vocab base d b sc v h
    obtain ⟨-, hall, hfrom⟩ := foldl_better _ ((lineBest_eq key vocab base d b).symm.trans h)
    refine ⟨fun i hi hvocab => ?_, hfrom.imp_right fun hin => ?_⟩
    · have hbeats : Beats (sc, v) (score key (base + i) (BitVec.ofNat 16 (bits d (16 * i) 16)), base + i) :=
        hall _ (mem_lineCands.mpr ⟨i, hi, hvocab, rfl⟩)
      unfold Beats at hbeats
      omega
    · obtain ⟨i, hi, hvocab, hcand⟩ := mem_lineCands.mp hin
      obtain ⟨rfl, rfl⟩ := Prod.mk.inj hcand
      exact ⟨i, hi, hvocab, rfl, rfl⟩

end Sys2Proof.Machine

/-! PROOFS for the serving engine (10): the decision of a group, token doorbells, SRV_GROUPS, prompts and patch images. -/

namespace Sys2Proof.Machine

/-! ### The decision of a group (R297, R375) -/

section Decisions
variable {s : State} {k g : Nat} {d : ServDecl} {r : GroupRec}

theorem groupDecision_eq (hk : groupCtx s g = some k) (hd : servDecl s k = some d) (hr : groupRec s k g = some r) (twin : Option (Fin 4)) :
    groupDecision s g twin =
      if s.tmp.working && (ctxAt s k).ranNow && !(ctxAt s k).parked then decideGroup s k d g r twin else s := by
  simp only [groupDecision, hk, hd, hr]

/-- What a group's decision does once its rows have their candidates. -/
def groupDecided (s : State) (k : Nat) (d : ServDecl) (g : Nat) (r : GroupRec) (rows : List Nat) : State :=
  let u := updSrv s (fun x => { x with
    decided := x.decided ++ [g], sigToks := rows.foldl (fun (t : Tbl W32) row => tset 0xFFFFFFFF t (g * 2048 + row) (rowToken s g row)) x.sigToks })
  if following u then setSelFlag u r
  else prepGroup (setSelFlag (if (ctxAt u k).discardNext then u else forAll (List.range r.lanes) u (fun s i => decideLane s k g r i)) r) k d g r

/-- The fault of a difference between twins, in its context. -/
def twinFault (s : State) (k g : Nat) (twin : Fin 4) : State := raise s 0x25 [k] 3 0 k (twin.val * 2 ^ 40 + 128 * g * 2 ^ 31)

theorem decideGroup_idle (h : g ∈ s.srv.decided ∨ groupReady s k d g (sampledRows s d g r) = false) (twin : Option (Fin 4)) :
    decideGroup s k d g r twin = s := if_pos (by simpa using h)

theorem decideGroup_none (hnew : g ∉ s.srv.decided) (hready : groupReady s k d g (sampledRows s d g r) = true) :
    decideGroup s k d g r none = groupDecided s k d g r (sampledRows s d g r) := if_neg (by simp [hnew, hready])

theorem decideGroup_some (hnew : g ∉ s.srv.decided) (hready : groupReady s k d g (sampledRows s d g r) = true) (twin : Fin 4) :
    decideGroup s k d g r (some twin) = groupDecided (twinFault s k g twin) k d g r (sampledRows s d g r) := if_neg (by simp [hnew, hready])

/-- What selects rows is the serving engine's own, and, on a FOLLOW, what the LEAD has mirrored. -/
theorem sampledRows_congr {t : State} (hsrv : t.srv = s.srv) (hrole : following t = following s) (hmirror : t.saf.mirrorNow = s.saf.mirrorNow) :
    sampledRows t d g r = sampledRows s d g r := by
  simp only [sampledRows, stepRow, hsrv, hrole, hmirror]

theorem groupReady_congr {t : State} (hsrv : t.srv = s.srv) (rows : List Nat) : groupReady t k d g rows = groupReady s k d g rows := by
  simp only [groupReady, hsrv]

theorem twinFault_calm (s : State) (k g : Nat) (twin : Fin 4) : Calm s (twinFault s k g twin) := raise_calm s _ _ _ _ _ _

theorem sampledRows_twinFault (s : State) (k g : Nat) (twin : Fin 4) : sampledRows (twinFault s k g twin) d g r = sampledRows s d g r := by
  obtain ⟨_, _, _, _, _, _, hsaf⟩ := raiseAt_saf s 0x25 [k] (attributed s) 3 0 k (twin.val * 2 ^ 40 + 128 * g * 2 ^ 31)
  change (twinFault s k g twin).saf = _ at hsaf
  exact sampledRows_congr (twinFault_calm s k g twin).srv (by rw [following, hsaf, following]) (by rw [hsaf])

/-- A difference between twins is raised first; the decision is that of the machine after it. -/
theorem decideGroup_twin (hnew : g ∉ s.srv.decided) (hready : groupReady s k d g (sampledRows s d g r) = true) (twin : Fin 4) :
    decideGroup s k d g r (some twin) = decideGroup (twinFault s k g twin) k d g r none := by
  have hsrv := (twinFault_calm s k g twin).srv
  have hrows : sampledRows (twinFault s k g twin) d g r = sampledRows s d g r := sampledRows_twinFault s k g twin
  rw [decideGroup_some hnew hready, decideGroup_none (by rwa [hsrv]) (by rwa [hrows, groupReady_congr hsrv]), hrows]

end Decisions

/-! ### Accepted drafts (R300) -/

/-- The accepted drafts are those up to the first draft that differs from its selection, or to the end of either list. -/
theorem accepted_eq {ds ts : List W32} {m : Nat} (hd : m ≤ ds.length) (ht : m ≤ ts.length) (htake : ds.take m = ts.take m)
    (hstop : m = ds.length ∨ m = ts.length ∨ ds[m]? ≠ ts[m]?) : accepted ds ts = m := by
  induction m generalizing ds ts with
  | zero =>
    match ds, ts with
    | [], _ | _ :: _, [] => rfl
    | d :: ds, t :: ts => exact if_neg (by simpa using hstop)
  | succ m ih =>
    match ds, ts with
    | d :: ds, t :: ts =>
      obtain ⟨rfl, hrest⟩ := List.cons.inj htake
      have haccepted := ih (Nat.le_of_succ_le_succ hd) (Nat.le_of_succ_le_succ ht) hrest (by simpa using hstop)
      exact (if_pos rfl).trans (congrArg (· + 1) haccepted)

/-! ### Token doorbells (R303, R329) -/

section TokenDoorbells
variable {s : State} {f off size : Nat} {val : W64}

theorem tokenTail_malformed (h : size ≠ 8 ∨ off % 8 ≠ 0 ∨ 4096 ≤ off) : tokenTail s f off size val = s := if_pos h

variable (hsize : size = 8) (halign : off % 8 = 0) (hoff : off < 4096)
include hsize halign hoff

theorem tokenTail_sets (hgroup : (groupCtx s (off / 8 / 128)).isSome = true) (hown : groupCtx s (off / 8 / 128) = fnCtx s f)
    (hlane : (laneAt s (off / 8)).st ≠ .free) (hlow : (laneAt s (off / 8)).tail.toNat ≤ val.toNat)
    (hhigh : val.toNat ≤ (laneAt s (off / 8)).head.toNat) :
    tokenTail s f off size val = setLane s (off / 8) { laneAt s (off / 8) with tail := val } := by
  refine (if_neg (by omega)).trans (if_neg ?_)
  rintro (h | h | h | h | h)
  · simp [Option.isNone_iff_eq_none.mp h] at hgroup
  · exact h hown
  · exact hlane h
  · exact h.not_ge hlow
  · exact h.not_ge hhigh

theorem tokenTail_ignored (h : groupCtx s (off / 8 / 128) ≠ fnCtx s f ∨ (laneAt s (off / 8)).st = .free ∨
    val.toNat < (laneAt s (off / 8)).tail.toNat ∨ (laneAt s (off / 8)).head.toNat < val.toNat) :
    tokenTail s f off size val = tailIgnored s f := (if_neg (by omega)).trans (if_pos (.inr h))

end TokenDoorbells

theorem tailIgnored_counts {s : State} {f k : Nat} (h : fnCtx s f = some k) : tailIgnored s f =
    updSrvCtx { s with srv := { s.srv with status := orBit s.srv.status 1 } } k (fun y => { y with tailIgn := satAdd y.tailIgn 1 }) := by
  have hctx : fnCtx (setSrvStatus s 1) f = some k := h
  simp only [tailIgnored, hctx]
  rfl

/-! ### SRV_GROUPS (R279) -/

section Groups
variable {s : State} {k : Nat} {v : W32}

/-- The write would take a group with a lane that is not FREE. -/
def groupLost (s : State) (k : Nat) (v : W32) : Prop :=
  ∃ g < 4, ∃ i < 128, bit (tget {} s.srv.groups k).eff g = true ∧ bit v g = false ∧ (laneAt s (128 * g + i)).st ≠ .free

/-- The write would give a group that another context owns. -/
def groupClash (s : State) (k : Nat) (v : W32) : Prop :=
  ∃ g < 4, ∃ o < 16, bit v g = true ∧ o ≠ k ∧ (bit (tget {} s.srv.groups o).acc g = true ∨ bit (tget {} s.srv.groups o).eff g = true)

theorem groupLost_iff : ((List.range 4).any (fun g => bit (tget {} s.srv.groups k).eff g && !(bit v g) &&
    (List.range 128).any (fun i => !(laneFree s (128 * g + i))))) = true ↔ groupLost s k v := by
  simp only [List.any_eq_true, List.mem_range, Bool.and_eq_true, Bool.not_eq_true', laneFree, decide_eq_false_iff_not, groupLost, ne_eq,
    and_assoc, ← exists_and_left, and_left_comm]

theorem groupClash_iff : ((List.range 4).any (fun g => bit v g && (List.range 16).any (fun o => decide (o ≠ k) &&
    (bit (tget {} s.srv.groups o).acc g || bit (tget {} s.srv.groups o).eff g)))) = true ↔ groupClash s k v := by
  simp only [List.any_eq_true, List.mem_range, Bool.and_eq_true, Bool.or_eq_true, decide_eq_true_eq, groupClash, ne_eq,
    ← exists_and_left, and_left_comm]

theorem writeGroups_refused (h : groupLost s k v ∨ groupClash s k v) :
    writeGroups s k v = { s with srv := { s.srv with status := orBit s.srv.status 3 } } :=
  if_pos (Bool.or_eq_true_iff.mpr (h.imp groupLost_iff.mpr groupClash_iff.mpr))

theorem writeGroups_accepts (hkeep : ¬ groupLost s k v) (hfree : ¬ groupClash s k v) : writeGroups s k v = { s with srv := { s.srv with
    groups := tset {} s.srv.groups k { tget {} s.srv.groups k with acc := v &&& 0xF } } } :=
  if_neg fun h => (Bool.or_eq_true_iff.mp h).elim (hkeep ∘ groupLost_iff.mp) (hfree ∘ groupClash_iff.mp)

end Groups

/-! ### Prompts (R284, R294) -/

theorem promptRead_eq {s : State} {l f : Nat} {ok : Bool} (hf : ctxFn s (laneAt s l).ctx = some f) : promptRead s l ok =
    if (laneAt s l).st = .feeding ∧ (laneAt s l).fed = false ∧ ok = true then
      let toks := (List.range (laneAt s l).feedLen).map (fun i => BitVec.ofNat 32 (readLe (hostMem s f) ((laneAt s l).feedAddr.toNat + 4 * i) 4))
      setLane s l { laneAt s l with com := ⟨0, toks, last16 toks⟩, fed := true }
    else s := by
  simp only [promptRead, hf]

/-! ### Patch images (R310, R311) -/

section PatchImages
variable {s : State} {i : Nat}

theorem patchEnd_idle (h : (patchAt s i).st ≠ .loading ∨ (patchAt s i).verified = true) (ok : Bool) : patchEnd s i ok = s := if_pos h

/-- A failed image: its destination becomes zeros, its slot is empty, and its command ends. -/
def patchFailed (s : State) (i n id status : Nat) : State :=
  finishCmd (setPatch (writePatch s (patchAt s i).ctx i (List.replicate n 0)) i {}) id status 0 (countNow s)

/-- An image whose signature is good is written, and its slot waits for the next edge. -/
def patchVerified (s : State) (i n id : Nat) (data block : List Byte) : State :=
  updCmd (setPatch (writePatch s (patchAt s i).ctx i data) i { patchAt s i with verified := true }) id (fun c => { c with
    started := true, good := some (digestOf (logRecord block (signedMessage block data) 2 i 0 0 n)) })

theorem patchEnd_loading {id : Nat} {c : Cmd} {j : Nat} {gen : W16} {h : W64} {n : Nat} {key : PubKey} {sig : W64}
    (hst : (patchAt s i).st = .loading) (hnew : (patchAt s i).verified = false) (hcmd : (patchAt s i).cmd = some id)
    (hfind : findCmd s id = some c) (hkind : c.kind = .patchLoad j gen h n key sig) (ok : Bool) : patchEnd s i ok =
      if ok = false then patchFailed s i n c.id 0x15
      else
        let data := readBytes (hostMem s c.fn) h.toNat n
        let block := sigBlock s c.fn sig
        if loadVerifies ⟨2, n, (patchAt s i).ident.toNat, gen.toNat, keyDigest key⟩ key block data = false then patchFailed s i n c.id 9
        else patchVerified s i n c.id data block := by
  have hbind : (patchAt s i).cmd.bind (findCmd s) = some c := by rw [hcmd]; exact hfind
  unfold patchEnd
  dsimp only
  rw [if_neg (by simp [hst, hnew]), hbind]
  dsimp only
  rw [hkind]
  simp only [Bool.not_eq_true']
  rfl

end PatchImages

/-- Settles O50: a decision once the group is ready, and each other command by what makes it act or be ignored. -/
theorem decisionsAndTokenRings : Obligations.DecisionsAndTokenRings := by
  refine ⟨?decision, fun ds ts m => accepted_eq, ?doorbell, ?groups, ?prompt,
    fun s i ok hl q h => done_eq hl (patchEnd_idle h ok) q, ?patch⟩
  case decision =>
    rintro s g k d r _ hl hk hd hr rfl
    have hdecision (twin : Option (Fin 4)) := groupDecision_eq hk hd hr twin
    refine ⟨fun h twin q => done_eq hl ((hdecision twin).trans ?idle) q,
      fun hwork hran hparked hnew hready hfollow hdiscard => done_settle hl ((hdecision none).trans ?decides),
      fun hwork hran hparked hnew hready twin => ?twin⟩
    case idle =>
      refine ite_eq_right_iff.mpr fun hruns => decideGroup_idle ?_ twin
      simp only [Bool.and_eq_true, Bool.not_eq_true'] at hruns
      obtain ⟨⟨hwork, hran⟩, hparked⟩ := hruns
      simpa [hwork, hran, hparked] using h
    case decides =>
      rw [if_pos (by simp [hwork, hran, hparked]), decideGroup_none hnew hready]
      exact (if_neg (Bool.eq_false_iff.mp hfollow)).trans
        (congrArg (fun t => prepGroup (setSelFlag t r) k d g r) (if_neg (Bool.eq_false_iff.mp hdiscard)))
    case twin =>
      have hused : Used s k := fun h => by rw [h] at hran; cases hran
      obtain ⟨-, hmarks, hreport⟩ := raiseAt_marks s 0x25 [k] (by simpa using hused) (attributed s) 3 0 k
        (twin.val * 2 ^ 40 + 128 * g.val * 2 ^ 31)
      have hdecided := (hdecision (some twin)).trans
        ((if_pos (by simp [hwork, hran, hparked])).trans (decideGroup_twin hnew hready twin))
      exact ⟨_, done_settle hl hdecided, twinFault s k g twin, hreport, hmarks k (List.mem_singleton_self k), rfl⟩
  case doorbell =>
    intro s fn off size val hl
    refine ⟨fun hreach => plain_eq hl (if_neg (Bool.eq_false_iff.mp hreach)), ?_⟩
    rintro hreach _ rfl
    refine ⟨fun hsize halign hoff hgroup hown hlane hlow hhigh => ?sets, fun h => ?malformed, fun k hsize halign hoff hk h => ?ignored⟩ <;>
      refine plain_eq hl ((if_pos hreach).trans ?_)
    case sets => exact tokenTail_sets hsize halign hoff hgroup hown hlane hlow hhigh
    case malformed => exact tokenTail_malformed h
    case ignored => exact (tokenTail_ignored hsize halign hoff h).trans (tailIgnored_counts hk)
  case groups =>
    rintro s fn v _ hl hsteward rfl
    refine ⟨fun h => plain_eq hl ((stewardDo_steward hsteward _).trans (writeGroups_refused h)),
      fun hkeep hfree => plain_eq hl ((stewardDo_steward hsteward _).trans (writeGroups_accepts ?_ ?_))⟩
    · rintro ⟨g, hg, i, hi, heff, hv, hlane⟩
      exact hlane (hkeep g hg i hi heff hv)
    · rintro ⟨g, hg, o, ho, hv, hne, howns⟩
      obtain ⟨hacc, heff⟩ := hfree g hg o ho hv hne
      exact howns.elim (Bool.eq_false_iff.mp hacc) (Bool.eq_false_iff.mp heff)
  case prompt =>
    rintro s l f _ _ hl rfl hf rfl
    refine ⟨fun hst hfed => plain_eq hl ((promptRead_eq hf).trans (if_pos ⟨hst, hfed, rfl⟩)),
      fun h ok => plain_eq hl ((promptRead_eq hf).trans (if_neg ?_)), plain_eq hl ((promptRead_eq hf).trans (if_neg (by simp)))⟩
    rintro ⟨hst, hfed, -⟩
    exact h.elim (· hst) (Bool.eq_false_iff.mp hfed)
  case patch =>
    intro s i id c j gen h n key sig hl hst hnew hcmd hfind hkind zeroed data block good
    have hend := patchEnd_loading hst hnew hcmd hfind hkind
    refine ⟨done_settle hl ((hend false).trans (if_pos rfl)), fun hbad => done_settle hl ((hend true).trans ?_),
      fun hgood => done_settle hl ((hend true).trans ?_)⟩
    · exact (if_neg (by decide)).trans (if_pos hbad)
    · exact (if_neg (by decide)).trans (if_neg (hgood.trans_ne (by decide)))

end Sys2Proof.Machine

/-! PROOFS for the serving engine (10): the steps of a shuttle. -/

namespace Sys2Proof.Machine

/-! ### OFFER (Table 10.14, steps 2 and 3) -/

section Offers
variable {s : State} {l : Nat} {d : ServDecl} {o : Offer}

/-- An OFFER that passes its checks: its blocks are allocated, and the GRANT names them. -/
def offerGranted (s : State) (l : Nat) (d : ServDecl) (o : Offer) : State :=
  let x := laneAt s l
  let u := forAll (List.range d.shards) s (fun s sh => forAll (List.range (shipBlocks d o.kvlen)) s (fun s b => kvAllocate s x.ctx d x sh b))
  let addrs := (List.range (shipCount d o.kvlen)).map (shuttleBlock u d x o.kvlen)
  sendGrant (setLane u l { x with
    com := { x.com with kvlen := o.kvlen }
    shuttle := { x.shuttle with step := 5, grants := addrs, todo := if d.coded then List.range (shipCount d o.kvlen) else [] } }) l d addrs

theorem takeOffer_eq (hd : servDecl s (laneAt s l).ctx = some d) : takeOffer s l o =
    if shuttleTag s l o.job = false ∨ o.kvfmt ≠ d.kvfmt then shuttleAbort s l 0x0B
    else if (laneAt s l).limit ≤ o.kvlen then shuttleAbort s l 4 else offerGranted s l d o := by
  simp only [takeOffer, hd]
  exact if_congr (by simp) rfl rfl

theorem offerArrive_early (h : shuttleLane s .landing o.chip.toNat o.ident = none) :
    offerArrive s o = { s with srv := { s.srv with offers := s.srv.offers ++ [o] } } := by
  unfold offerArrive
  simp only [h]
  rfl

theorem offerArrive_landing (h : shuttleLane s .landing o.chip.toNat o.ident = some l) :
    offerArrive s o = if (laneAt s l).shuttle.step = 2 then takeOffer s l o else s := by
  unfold offerArrive
  simp only [h]

end Offers

/-! ### GRANT (step 3) -/

section Grants
variable {s : State} {l chip : Nat} {d : ServDecl} {job : W16} {ident : W64} {addrs : List W64}

theorem grantArrive_none (h : shuttleLane s .shipping chip ident = none) : grantArrive s chip job ident addrs = s := by
  unfold grantArrive
  simp only [h]

/-- A GRANT of the right number of blocks starts the puts, or leaves them to the bindings of a coded shuttle. -/
def grantTaken (s : State) (l : Nat) (d : ServDecl) (n : Nat) (addrs : List W64) : State :=
  let u := setLane s l { laneAt s l with shuttle := { (laneAt s l).shuttle with
    grants := addrs, step := 4, putsLeft := if d.coded then 0 else n, todo := if d.coded then List.range n else [] } }
  if d.coded then u else forAll (List.range n) u (fun s o => putBlock s l d o)

theorem grantArrive_shipping {n : Nat} (h : shuttleLane s .shipping chip ident = some l) (hd : servDecl s (laneAt s l).ctx = some d)
    (hn : n = shipCount d (laneAt s l).com.kvlen) : grantArrive s chip job ident addrs =
      if (laneAt s l).shuttle.step ≠ 3 then s
      else if shuttleTag s l job = false then shuttleAbort s l 0x0B
      else if addrs.length ≠ n then s else grantTaken s l d n addrs := by
  subst hn
  unfold grantArrive
  simp only [h, hd, Bool.not_eq_true']
  rfl

end Grants

/-! ### The state record (steps 5 and 6) -/

section Records
variable {s : State} {l chip : Nat} {d : ServDecl} {job : W16} {ident : W64} {record : BitVec 1024} {puts : Nat}

theorem recordArrive_none (h : shuttleLane s .landing chip ident = none) : recordArrive s chip job ident record puts = s := by
  unfold recordArrive
  simp only [h]

/-- A record that passes its checks is kept, and the shuttle lands once its blocks have been put. -/
def recordTaken (s : State) (l : Nat) (d : ServDecl) (record : BitVec 1024) (puts : Nat) : State :=
  shuttleLanded (setLane s l { laneAt s l with shuttle := { (laneAt s l).shuttle with
    record := some (recordState (leBytes 128 record.toNat), puts), puts := if d.coded then (laneAt s l).shuttle.puts else puts } }) l

theorem recordArrive_landing {cause : Nat} (h : shuttleLane s .landing chip ident = some l) (hd : servDecl s (laneAt s l).ctx = some d)
    (hpeer : legacyPeer s chip = false) (hcause : cause = recordCause (laneAt s l) d (leBytes 128 record.toNat) puts) :
    recordArrive s chip job ident record puts =
      if (laneAt s l).shuttle.step ≠ 5 then s
      else if shuttleTag s l job = false then shuttleAbort s l 0x0B
      else if cause = 0 then recordTaken s l d record puts else shuttleAbort s l cause := by
  unfold recordArrive
  simp only [h, hd, hpeer, ← hcause, Bool.false_eq_true, if_false, Bool.not_eq_true']
  cases cause <;> rfl

end Records

/-! ### ACK and time-out (R305, R306) -/

section Ends
variable {s : State} {l chip : Nat} {job : W16} {ident : W64} {st : Nat}

theorem shuttleAckIn_none (hship : shuttleLane s .shipping chip ident = none) (hland : shuttleLane s .landing chip ident = none) :
    shuttleAckIn s chip job ident st = s := by
  unfold shuttleAckIn
  simp only [hship, hland]

theorem shuttleAckIn_shipping (h : shuttleLane s .shipping chip ident = some l) (htag : shuttleTag s l job = true) :
    shuttleAckIn s chip job ident st = if st ≠ 0 then shuttleFail s l st
      else if (laneAt s l).shuttle.step = 6 then setLane s l { laneAt s l with st := .ending, ended := true, shuttle := {} } else s := by
  unfold shuttleAckIn
  simp only [h, htag, Bool.not_true, Bool.false_eq_true, if_false]

/-- The source's last record is an END with cause 5. -/
theorem shuttleFail_shipping (h : (laneAt s l).st = .shipping) : shuttleFail s l st = setLane (dropAnswers s l) l { laneAt s l with
    st := .ending, recs := (laneAt s l).recs ++ [endRecord 5 (afterLast (laneAt s l))], ended := true, shuttle := {} } := by
  simp only [shuttleFail, h]

/-- The destination's lane ends without a record, and its ADMIT completes. -/
theorem shuttleFail_landing {id : Nat} (h : (laneAt s l).st = .landing) (hcmd : (laneAt s l).cmd = some id) : shuttleFail s l st =
    let u := setLane (dropAnswers s l) l { laneAt s l with st := .ending, recs := [], ended := true, shuttle := {}, cmd := none }
    finishCmd { u with srv := { u.srv with segs := u.srv.segs.filter (fun e => decide (e.1 ≠ (laneAt s l).shuttle.ident)) } }
      id st l (countNow s) := by
  simp only [shuttleFail, h, hcmd]
  rfl

end Ends

/-- Settles O51: each message by the lane that waits for it and that lane's step, a time-out and a failure by the side they meet. -/
theorem shuttlesTakeTheirSteps : Obligations.ShuttlesTakeTheirSteps := by
  refine ⟨?offer, ?grant, ?record, ?ack, ?timeout, ?fail⟩
  case offer =>
    intro s chip job ident kvfmt kvlen hl
    refine ⟨fun hnone q => done_eq hl (offerArrive_early hnone) q, fun l d hlane hd => ?_⟩
    have harrive := offerArrive_landing (o := ⟨chip, ident, job, kvfmt, kvlen.toNat, s.now⟩) hlane
    refine ⟨fun hstep q => done_eq hl (harrive.trans (if_neg hstep)) q, fun hstep => ?_⟩
    have htake := harrive.trans ((if_pos hstep).trans (takeOffer_eq hd))
    refine ⟨fun h => done_settle hl (htake.trans (if_pos h)), fun htag hfmt hlimit => ?_, fun htag hfmt hlimit => ?_⟩ <;>
      replace htake := htake.trans (if_neg (by simp [htag, hfmt]))
    · exact done_settle hl (htake.trans (if_pos hlimit))
    · exact done_settle hl (htake.trans (if_neg hlimit.not_ge))
  case grant =>
    intro s chip job ident addrs hl
    refine ⟨fun hnone q => done_eq hl (grantArrive_none hnone) q, fun l d n hlane hd hn => ?_⟩
    have hgrant := grantArrive_shipping (job := job) (addrs := addrs) hlane hd hn
    refine ⟨fun hstep q => done_eq hl (hgrant.trans (if_pos hstep)) q, fun hstep htag => ?_, fun hstep htag hlen => ?_⟩ <;>
      replace hgrant := hgrant.trans (if_neg (not_not.mpr hstep))
    · exact done_settle hl (hgrant.trans (if_pos htag))
    · exact done_settle hl (hgrant.trans ((if_neg (by simp [htag])).trans (if_neg (not_not.mpr hlen))))
  case record =>
    intro s chip job ident record puts hl
    refine ⟨fun hnone q => done_eq hl (recordArrive_none hnone) q, fun l d cause hlane hd hpeer hstep hcause => ?_⟩
    have hrecord := (recordArrive_landing (job := job) hlane hd hpeer hcause).trans (if_neg (not_not.mpr hstep))
    refine ⟨fun htag => done_settle hl (hrecord.trans (if_pos htag)), fun htag hbad => ?_, fun htag hgood => ?_⟩ <;>
      replace hrecord := hrecord.trans (if_neg (by simp [htag]))
    · exact done_settle hl (hrecord.trans (if_neg hbad))
    · exact done_settle hl (hrecord.trans (if_pos hgood))
  case ack =>
    intro s chip job ident st hl
    refine ⟨fun hship hland q => done_eq hl (shuttleAckIn_none hship hland) q, fun l hlane htag => ?_⟩
    have hack := shuttleAckIn_shipping (st := st.toNat) hlane htag
    refine ⟨fun hst => done_settle hl (hack.trans (if_pos ?_)), fun hst hstep q => done_eq hl (hack.trans ?_) q⟩
    · simpa [← BitVec.toNat_inj] using hst
    · rw [if_neg (by simp [hst]), if_pos hstep]
  case timeout =>
    intro s l hl
    refine ⟨fun h => done_settle hl (if_pos h), fun hship hland q => done_eq hl (if_neg ?_) q⟩
    rintro (hs | ⟨hs, hstep⟩)
    · exact hship hs
    · exact hland.elim (· hs) hstep
  case fail =>
    rintro s l status _ rfl
    exact ⟨shuttleFail_shipping, fun id => shuttleFail_landing⟩

end Sys2Proof.Machine

/-! PROOFS for host commands (11): what an accepted command checks, and in which order. -/

namespace Sys2Proof.Machine

/-! ### The context of a command, and its groups (R279, R326) -/

section Context
variable {s : State} {id k none_ : Nat}

theorem forCtx_refuses {ok : CtxSt → Bool} {run : State → Nat → State} (h : ok (ctxAt s k).st = false) :
    forCtx s id (some k) none_ ok run = finishCmd s id 0x11 0 0 := if_neg (Bool.eq_false_iff.mp h)

theorem forCtx_runs {ok : CtxSt → Bool} {run : State → Nat → State} (h : ok (ctxAt s k).st = true) :
    forCtx s id (some k) none_ ok run = run (unpark (updCmd s id (fun c => { c with ctx := k })) k) k := if_pos h

variable {follow : Bool} {run : State → State}

theorem forServing_groupless (h : ctxGroups s k = []) : forServing s id k follow run = finishCmd s id 1 0 (countNow s) :=
  if_pos (List.isEmpty_iff.mpr h)

theorem forServing_owner (h : ctxGroups s k ≠ []) : forServing s id k follow run =
    if follow && following s then finishCmd s id 0x11 0 (countNow s) else run s := if_neg (by simpa using h)

end Context

/-! ### RUN and STOP (R323, R356) -/

section RunStop
variable {s : State} {b : BitVec 1536} {id k : Nat}

theorem runRun_eq : runRun s b id k =
    if keepsCount s = false ∨ bits b 0 64 < s.tmp.count.toNat + 2 ∨ (ctxAt s k).runAt ≠ none ∨ boltLoading s k = true then
      finishCmd s id 0x11 0 0
    else setCtx s k { ctxAt s k with runAt := some (bits b 0 64), runCmd := some id } :=
  if_congr (by simp [or_assoc, Option.isSome_iff_ne_none]) rfl rfl

/-- The worked tempo at which STOP acts: 0 names the one in progress. -/
def stopCount (s : State) (b : BitVec 1536) : Nat := if bits b 0 64 = 0 then s.tmp.t.toNat else bits b 0 64

theorem stopCount_past_iff (s : State) (b : BitVec 1536) :
    stopCount s b < s.tmp.t.toNat ↔ bits b 0 64 ≠ 0 ∧ bits b 0 64 < s.tmp.t.toNat := by
  unfold stopCount
  split <;> simp [*]

theorem stopRun_eq {x : Bolt} (hx : (ctxAt s k).bolt = some x) : stopRun s b id k =
    if x.carry = true ∨ stopCount s b < s.tmp.t.toNat ∨ (ctxAt s k).stopAt ≠ none then finishCmd s id 0x11 0 0
    else setCtx s k { ctxAt s k with stopAt := some (stopCount s b), stopCmd := some id } :=
  if_congr (by simp [hx, stopCount, or_assoc, Option.isSome_iff_ne_none]) rfl rfl

theorem stopRun_waits {x : Bolt} {n : Nat} (hx : (ctxAt s k).bolt = some x) (hcarry : x.carry = false) (hfree : (ctxAt s k).stopAt = none)
    (hn : stopCount s b = n) (hcount : s.tmp.t.toNat ≤ n) :
    stopRun s b id k = setCtx s k { ctxAt s k with stopAt := some n, stopCmd := some id } := by
  subst hn
  exact (stopRun_eq hx).trans (if_neg (by simp [hcarry, hfree, hcount]))

end RunStop

/-! ### WLOAD and RDOUT (R333, R334) -/

section Loads
variable {s : State} {b : BitVec 1536} {f id k c : Nat}

theorem wloadRun_outside (h : inCtx s k (wlCore b) = none) : wloadRun s b id k = finishCmd s id 0x13 0 0 := by
  simp only [wloadRun, h]

theorem wloadRun_closed (hc : inCtx s k (wlCore b) = some c) (h : storeOpen s c (wlKind b) = false) :
    wloadRun s b id k = finishCmd s id 0x13 0 0 := by
  simp only [wloadRun, hc, h, Bool.not_false, if_true]

theorem wloadRun_range (hc : inCtx s k (wlCore b) = some c) (hopen : storeOpen s c (wlKind b) = true)
    (h : (wlKind b < 2 ∧ inRegion (wlKind b) (wlAddr b) (wlLen b) = false) ∨ (wlKind b = 2 ∧ wlLen b % 1024 ≠ 0)) :
    wloadRun s b id k = finishCmd s id 0x12 0 0 := by
  simp only [wloadRun, hc, hopen, Bool.not_true, Bool.false_eq_true, if_false]
  exact if_pos h

/-- A destination in range, of a core of the context: the length, then the key. -/
theorem wloadRun_inRange (hc : inCtx s k (wlCore b) = some c) (hopen : storeOpen s c (wlKind b) = true)
    (hregion : wlKind b < 2 → inRegion (wlKind b) (wlAddr b) (wlLen b) = true) (hchunks : wlKind b = 2 → wlLen b % 1024 = 0) :
    wloadRun s b id k = if wlLen b = 0 then finishCmd s id 0 0 0 else
      match ctxKey s k (wlKey b) with
      | none => finishCmd s id 0x14 0 0
      | some key => updCmd s id (fun x => { x with
          kind := .wload (wlKind b) c (wlAddr b) (wlLen b) (BitVec.ofNat 64 (wlHost b)) key (BitVec.ofNat 64 (wlSig b))
            (if wlAen b then some (BitVec.ofNat 8 (wlArrive b)) else none) }) := by
  simp only [wloadRun, hc, hopen, Bool.not_true, Bool.false_eq_true, if_false]
  refine (if_neg ?_).trans (by rfl)
  rintro (⟨hkind, hout⟩ | ⟨hkind, hlen⟩)
  · exact absurd (hregion hkind) (by simp [hout])
  · exact hlen (hchunks hkind)

theorem rdoutRun_outside (h : inCtx s k (rdCore b) = none) : rdoutRun s b f id k = finishCmd s id 0x13 0 0 := by
  simp only [rdoutRun, h]

theorem rdoutRun_closed (hc : inCtx s k (rdCore b) = some c) (h : storeOpen s c (rdKind b) = false) :
    rdoutRun s b f id k = finishCmd s id 0x13 0 0 := by
  simp only [rdoutRun, hc, h, Bool.not_false, if_true]

theorem rdoutRun_range (hc : inCtx s k (rdCore b) = some c) (hopen : storeOpen s c (rdKind b) = true)
    (h : inRegion (rdKind b) (rdAddr b) (rdLen b) = false) : rdoutRun s b f id k = finishCmd s id 0x12 0 0 := by
  simp only [rdoutRun, hc, hopen, h, Bool.not_true, Bool.false_eq_true, if_false, if_true]

theorem rdoutRun_empty (hc : inCtx s k (rdCore b) = some c) (hopen : storeOpen s c (rdKind b) = true)
    (hregion : inRegion (rdKind b) (rdAddr b) (rdLen b) = true) (h : rdLen b = 0) : rdoutRun s b f id k = finishCmd s id 0 0 0 := by
  simp only [rdoutRun, hc, hopen, Bool.not_true, hregion, Bool.true_eq_false, Bool.false_eq_true, if_false]
  exact if_pos h

theorem rdoutRun_reads {d : List Byte} {bad : Option Nat} {t u : State} (hc : inCtx s k (rdCore b) = some c)
    (hopen : storeOpen s c (rdKind b) = true) (hregion : inRegion (rdKind b) (rdAddr b) (rdLen b) = true) (hlen : rdLen b ≠ 0)
    (hread : rdoutBytes s c (rdKind b) (rdAddr b) (rdLen b) = (d, bad, t)) (hu : u = setHostMem t f (writeBytes (hostMem t f) (rdHost b) d)) :
    rdoutRun s b f id k = finishCmd u id (if bad.isSome then 0x18 else 0) (bad.getD 0) 0 := by
  simp only [rdoutRun, hc, hopen, Bool.not_true, hregion, Bool.true_eq_false, Bool.false_eq_true, hlen, hread, ← hu, if_false]
  cases bad <;> rfl

end Loads

/-! ### BOLT_LOAD, PATCH_LOAD and PATCH_DROP (R311, R326) -/

section Bolts
variable {s : State} {b : BitVec 1536} {id k : Nat}

theorem boltRun_refused (h : (∃ l ∈ ctxLanes s k, laneFree s l = false) ∨ (ctxAt s k).runAt ≠ none ∨ boltLoading s k = true) :
    boltRun s b id k = finishCmd s id 0x11 0 (countNow s) :=
  if_pos (by simpa [or_assoc, Option.isSome_iff_ne_none] using h)

theorem boltRun_keys (hlanes : ∀ l ∈ ctxLanes s k, laneFree s l = true) (hrun : (ctxAt s k).runAt = none) (hload : boltLoading s k = false) :
    boltRun s b id k = match ctxKey s k (bits b 128 3) with
      | none => finishCmd s id 0x14 0 (countNow s)
      | some key => updCmd s id (fun x => { x with
          kind := .boltLoad (BitVec.ofNat 64 (bits b 64 64)) (bits b 0 32) key (BitVec.ofNat 64 (bits b 192 64)) }) :=
  (if_neg (by simpa [hrun, hload] using hlanes)).trans (by rfl)

end Bolts

section Patches
variable {s : State} {b : BitVec 1536} {id k i : Nat}

theorem patchLoadRun_empty (h : plLen b = 0) : patchLoadRun s b id k = finishCmd s id 0 0 (countNow s) := if_pos h

theorem patchLoadRun_full (hlen : plLen b ≠ 0) (h : ∀ i ∈ poolSlots s k, (patchAt s i).st ≠ .free) :
    patchLoadRun s b id k = finishCmd s id 7 0 (countNow s) := by
  have hnone : (poolSlots s k).find? (fun i => decide ((patchAt s i).st = .free)) = none := List.find?_eq_none.mpr (by simpa using h)
  simp only [patchLoadRun, hlen, hnone, if_false]

section Slot
variable (hlen : plLen b ≠ 0) (hslot : (poolSlots s k).find? (fun i => decide ((patchAt s i).st = .free)) = some i)
include hlen hslot

theorem patchLoadRun_old (h : ∃ j ∈ slotsOf s k (plId b), plGen b ≤ (patchAt s j).gen.toNat) :
    patchLoadRun s b id k = finishCmd s id 8 0 (countNow s) := by
  simp only [patchLoadRun, hlen, hslot, if_false]
  exact if_pos (by simpa using h)

/-- A generation that is newer than every other one of its ID: the size, then the key. -/
theorem patchLoadRun_newer (h : ∀ j ∈ slotsOf s k (plId b), (patchAt s j).gen.toNat < plGen b) :
    patchLoadRun s b id k = if patchSlotBytes (srvCtxAt s k) < plLen b then finishCmd s id 4 0 (countNow s) else
      match ctxKey s k (plKey b) with
      | none => finishCmd s id 0x14 0 (countNow s)
      | some key => updCmd
          (setPatch s i { st := .loading, ctx := k, ident := BitVec.ofNat 16 (plId b), gen := BitVec.ofNat 16 (plGen b), cmd := some id }) id
          (fun c => { c with
            kind := .patchLoad i (BitVec.ofNat 16 (plGen b)) (BitVec.ofNat 64 (bits b 64 64)) (plLen b) key (BitVec.ofNat 64 (bits b 192 64)) }) := by
  simp only [patchLoadRun, hlen, hslot, if_false]
  exact (if_neg (by simpa using h)).trans (by rfl)

end Slot

theorem patchDropRun_none (h : ∀ i ∈ slotsOf s k (bits b 0 16), (patchAt s i).st ≠ .ready) :
    patchDropRun s b id k = finishCmd s id 0x0A 0 (countNow s) := by
  have hnone : (slotsOf s k (bits b 0 16)).find? (fun i => decide ((patchAt s i).st = .ready)) = none := List.find?_eq_none.mpr (by simpa using h)
  simp only [patchDropRun, hnone]

end Patches

/-! ### HOSTCOPY (R331) -/

section HostCopies
variable {s : State} {b : BitVec 1536} {f id : Nat}

theorem hostcopyRun_other (h : isSteward s f = false) : hostcopyRun s b f id = finishCmd s id 0x10 0 0 := if_pos (by simp [h])

theorem hostcopyRun_steward (h : isSteward s f = true) : hostcopyRun s b f id = match findTag s (bits b 0 16) with
    | none => finishCmd s id 0x17 0 0
    | some h => repairAnswer (finishCmd (dropTag s (bits b 0 16)) id 0 0 0) h.block 2 (some (readBytes (hostMem s f) (bits b 64 64) 512)) :=
  (if_neg (by simp [h])).trans (by rfl)

end HostCopies

/-- Settles O53: each command's checks in their order, by the lemma on the first of them that fails and that on none failing. -/
theorem hostCommandsFollowTheirChecks : Obligations.HostCommandsFollowTheirChecks := by
  refine ⟨fun s id k none_ ok run => ⟨rfl, forCtx_refuses, forCtx_runs⟩, ?serving, ?runStop, ?wload, ?rdout, ?bolt, ?patch, ?rest⟩
  case serving =>
    intro s id k follow run
    refine ⟨forServing_groupless, fun howner hfollow hrole => (forServing_owner howner).trans (if_pos (by simp [hfollow, hrole])),
      fun howner h => (forServing_owner howner).trans (if_neg ?_)⟩
    rcases h with h | h <;> simp [h]
  case runStop =>
    intro s b id k
    refine ⟨fun h => runRun_eq.trans (if_pos h),
      fun hkeeps hcount hfree hload => runRun_eq.trans (if_neg (by simp [hkeeps, hcount, hfree, hload])),
      fun x hx => ⟨fun h => (stopRun_eq hx).trans (if_pos (h.imp_right (.imp_left (stopCount_past_iff s b).mpr))),
        fun hcarry hfree hzero => stopRun_waits hx hcarry hfree (if_pos hzero) le_rfl,
        fun hcarry hfree hcount hn => stopRun_waits hx hcarry hfree (if_neg hn) hcount⟩⟩
  case wload =>
    intro s b id k
    refine ⟨wloadRun_outside, fun c => wloadRun_closed, fun c hc hopen => ⟨wloadRun_range hc hopen, fun hregion hchunks => ?_⟩⟩
    rw [wloadRun_inRange hc hopen hregion hchunks]
    refine ⟨fun hlen => if_pos hlen, fun hlen hkey => ?_, fun key hlen hkey => ?_⟩ <;> rw [if_neg hlen, hkey]
  case rdout =>
    intro s b f id k
    refine ⟨rdoutRun_outside, fun c => rdoutRun_closed, fun c hc hopen => ⟨rdoutRun_range hc hopen, rdoutRun_empty hc hopen,
      fun d bad t u hregion hlen hread hu => ?_⟩⟩
    rw [rdoutRun_reads hc hopen hregion hlen hread hu]
    exact ⟨fun hbad => by rw [hbad]; rfl, fun o hbad => by rw [hbad]; rfl⟩
  case bolt =>
    intro s b id k
    refine ⟨boltRun_refused, fun hlanes hrun hload => ?_⟩
    rw [boltRun_keys hlanes hrun hload]
    exact ⟨fun hkey => by rw [hkey], fun key hkey => by rw [hkey]⟩
  case patch =>
    intro s b id k
    refine ⟨patchLoadRun_empty, patchLoadRun_full, fun i hlen hslot => ⟨patchLoadRun_old hlen hslot, fun hnewer => ?_⟩⟩
    rw [patchLoadRun_newer hlen hslot hnewer]
    refine ⟨fun hbig => if_pos hbig, fun hfits hkey => ?_, fun key hfits hkey => ?_⟩ <;> rw [if_neg hfits.not_gt, hkey]
  case rest =>
    intro s b id k f
    refine ⟨patchDropRun_none, hostcopyRun_other, fun hsteward htag => ?_, fun h hsteward htag => ?_⟩ <;>
      rw [hostcopyRun_steward hsteward, htag]

end Sys2Proof.Machine

/-! PROOFS for host ports and rings (11): the acceptance of the commands of a submission ring. -/

namespace Sys2Proof.Machine

section Acceptance
variable {s : State} {f q : Nat} {hdr : BitVec 512} {op : Nat} {ok : Bool} {run : State → Nat → State}

/-- The machine that has fetched a command: its ring's head has moved, its completion is reserved, and it stands under the next number (R326). -/
def cmdFetched (s : State) (f q : Nat) (hdr : BitVec 512) : State :=
  { updQp s f q (fun p => { p with sqHead := (p.sqHead + 1) % sqSize p, open_ := p.open_ + 1 }) with
    cmds := s.cmds ++ [⟨s.nextCmd, f, q, BitVec.ofNat 16 (bits hdr 0 16), bit hdr 31, (fnCtx s f).getD 16, .other, false, none, false⟩]
    nextCmd := s.nextCmd + 1 }

theorem hdrOk_iff : hdrOk hdr op = true ↔ bits hdr 16 8 = op ∧ bits hdr 24 7 = 0 ∧ bits hdr 32 480 = 0 := by
  simp [hdrOk, and_assoc]

theorem hostCmd_unfetched (h : fetchable s f q = false) : hostCmd s f q hdr op ok run = s := if_pos (by simp [h])

/-- A fetched command runs under its number, unless a reserved field, its OPCODE or its body is wrong. -/
theorem hostCmd_fetched (h : fetchable s f q = true) : hostCmd s f q hdr op ok run =
    if hdrOk hdr op && ok then run (cmdFetched s f q hdr) s.nextCmd else finishCmd (cmdFetched s f q hdr) s.nextCmd 1 0 0 :=
  if_neg (by simp [h])

end Acceptance

/-- Settles O52: every command of a ring answers what its acceptance does, which fetches nothing, refuses the entry or runs it. -/
theorem aHostCommandIsAccepted : Obligations.AHostCommandIsAccepted := by
  intro s i fn q hdr op ok run hi hl
  rw [ring_shape s i fn q hdr op ok run hi]
  refine ⟨fun h quiet => done_eq hl (hostCmd_unfetched h) quiet, ?_⟩
  rintro h _ rfl
  refine ⟨fun hop hres hrest hok => done_settle hl ((hostCmd_fetched h).trans (if_pos ?_)),
    fun hbad => done_settle hl ((hostCmd_fetched h).trans (if_neg fun hgood => ?_))⟩
  · exact Bool.and_eq_true_iff.mpr ⟨hdrOk_iff.mpr ⟨hop, hres, hrest⟩, hok⟩
  · obtain ⟨hhdr, hok⟩ := Bool.and_eq_true_iff.mp hgood
    obtain ⟨hop, hres, hrest⟩ := hdrOk_iff.mp hhdr
    exact hbad.elim (· hop) (·.elim (· hres) (·.elim (· hrest) (Bool.eq_false_iff.mp · hok)))

end Sys2Proof.Machine

/-! PROOFS for host ports and rings (11): how loads and host copies end. -/

namespace Sys2Proof.Machine

section Loads
variable {s : State} {id : Nat} {c : Cmd}

theorem wloadBegin_none (h : findCmd s id = none) : wloadBegin s id = s := by simp only [wloadBegin, h]

theorem loadEnd_none {ok : Bool} (h : findCmd s id = none) : loadEnd s id ok = s := by simp only [loadEnd, h]

/-! ### WLOAD (R333) -/

section Wload
variable {d core a n : Nat} {h : W64} {key : PubKey} {sig : W64} {arr : Option Byte} {ok : Bool}

/-- What the weight log adds for a load whose signature is good (R408). -/
def loadGood (s : State) (c : Cmd) (d core a n : Nat) (h : W64) (key : PubKey) (sig : W64) : Option (BitVec 256) :=
  let data := readBytes (hostMem s c.fn) h.toNat n
  let block := sigBlock s c.fn sig
  if loadVerifies ⟨1, n, 0, 0, keyDigest key⟩ key block data then
    some (digestOf (logRecord block (signedMessage block data) 1 d (logicalOf s core) a n))
  else none

/-- A good load makes the arrival that it names. -/
def loadArrived (s : State) (core : Nat) (arr : Option Byte) : State := match arr with | some o => queueArrival s core o none | none => s

/-- An append moves SPOOL_TAIL over its chunks. -/
def spoolAppended (s : State) (core n : Nat) : State :=
  updCore s core (fun x =>
    let tail := BitVec.ofNat 32 ((spoolTail x + n / 1024) % spoolChunks x)
    setCwEff (setCw x 0x20C tail) 0x20C tail)

variable (hkind : c.kind = .wload d core a n h key sig arr)
include hkind

/-- A WLOAD starts once, after the loads that it overlaps; a spool append needs its room. -/
theorem wloadBegin_eq (hfind : findCmd s id = some c) : wloadBegin s id =
    if c.started = true ∨ wloadWaits s c = true then s
    else if d = 2 ∧ spoolFree (coreAt s core) < n / 1024 then finishCmd s id 0x16 0 0
    else
      let written := loadWrite s core d a (readBytes (hostMem s c.fn) h.toNat n)
      updCmd written.2 id (fun x => { x with
        kind := .wload d core a n h key sig arr, started := true, torn := !written.1, good := loadGood s c d core a n h key sig }) := by
  simp only [wloadBegin, hfind, hkind]
  rfl

theorem loadEnd_wload (hfind : findCmd s id = some c) : loadEnd s id ok = wloadEnd s c ok := by
  simp only [loadEnd, hfind, boltEnd, hkind]

/-- A load that has started ends by its DMA and its write, then by its signature. -/
theorem wloadEnd_eq : wloadEnd s c ok =
    if c.started = false then s
    else if ok = false ∨ c.torn = true then finishCmd (loadZero s c.kind) c.id 0x15 0 0
    else match c.good with
      | none => finishCmd (loadZero s c.kind) c.id 0x14 0 0
      | some g =>
        let u := loadArrived s core arr
        finishCmd (addWeightLog (if d = 2 then spoolAppended u core n else u) c.ctx g) c.id 0 0 0 := by
  simp only [wloadEnd, hkind, Bool.not_eq_true', Bool.or_eq_true]
  rfl

end Wload

/-! ### BOLT_LOAD -/

/-- The image of a bolt load is taken once; its DMA may fail. -/
theorem loadEnd_boltLoad {h : W64} {n : Nat} {key : PubKey} {sig : W64} {ok : Bool} (hkind : c.kind = .boltLoad h n key sig)
    (hfind : findCmd s id = some c) : loadEnd s id ok =
      if c.started = true then s
      else if ok = false then finishCmd s c.id 0x15 0 (countNow s)
      else loadImage (updCmd s c.id (fun x => { x with kind := .boltLoad h n key sig, started := true })) c.ctx c.id key
        (readBytes (hostMem s c.fn) h.toNat n) (sigBlock s c.fn sig) := by
  simp only [loadEnd, hfind, wloadEnd, boltEnd, hkind, Bool.not_eq_true']
  rfl

end Loads

/-! ### Host copies (R331) -/

theorem hostCopyExpire_none {s : State} {tag : Nat} (h : findTag s tag = none) : hostCopyExpire s tag = s := by
  simp only [hostCopyExpire, h]

theorem hostCopyExpire_pending {s : State} {tag : Nat} {h : HostCopy} (hfind : findTag s tag = some h) :
    hostCopyExpire s tag = repairAnswer (dropTag s tag) h.block 2 none := by
  simp only [hostCopyExpire, hfind]

/-- Settles O54: the start of a WLOAD, then the end of each kind of load and of a host copy, by what decides it. -/
theorem loadsRunToTheirEnd : Obligations.LoadsRunToTheirEnd := by
  refine ⟨fun s id ok hl quiet h => ⟨done_eq hl (wloadBegin_none h) quiet, done_eq hl (loadEnd_none h) quiet⟩, ?wload, ?bolt,
    fun s tag hl => ⟨fun h quiet => done_eq hl (hostCopyExpire_none h) quiet, fun h hfind => done_settle hl (hostCopyExpire_pending hfind)⟩⟩
  case wload =>
    intro s id c d core a n h key sig arr hl hfind hkind
    have hbegin := wloadBegin_eq hkind hfind
    have hend (ok : Bool) := (loadEnd_wload (ok := ok) hkind hfind).trans (wloadEnd_eq hkind)
    refine ⟨fun hwait quiet => done_eq hl (hbegin.trans (if_pos hwait)) quiet, fun hnew hfirst => ?start,
      fun hnew quiet ok => done_eq hl ((hend ok).trans (if_pos hnew)) quiet, fun hstarted => ?finish⟩
    case start =>
      replace hbegin := hbegin.trans (if_neg (by simp [hnew, hfirst]))
      refine ⟨fun hd hfull => done_settle hl (hbegin.trans (if_pos ⟨hd, hfull⟩)), ?_⟩
      intro data block good hroom hdata hblock hgood
      rw [hgood, hblock, hdata]
      exact done_settle hl (hbegin.trans (if_neg fun ⟨hd, hfull⟩ => hroom.elim (· hd) hfull.not_ge))
    case finish =>
      replace hend (ok : Bool) := (hend ok).trans (if_neg (by simp [hstarted]))
      have hsigned (hwhole : c.torn = false) := (hend true).trans (if_neg (by simp [hwhole]))
      refine ⟨fun ok hfail => done_settle hl ((hend ok).trans (if_pos hfail)),
        fun hwhole hgood => done_settle hl ((hsigned hwhole).trans (by rw [hgood])), ?_⟩
      rintro g _ hwhole hgood rfl
      replace hend := (hsigned hwhole).trans (by rw [hgood])
      refine ⟨fun hd => done_settle hl (hend.trans ?_), ?_⟩
      · exact congrArg (fun t => finishCmd (addWeightLog t c.ctx g) c.id 0 0 0) (if_neg hd)
      · rintro hd _ rfl
        refine done_settle hl (hend.trans ?_)
        exact congrArg (fun t => finishCmd (addWeightLog t c.ctx g) c.id 0 0 0) (if_pos hd)
  case bolt =>
    intro s id c h n key sig hl hfind hkind
    have hend (ok : Bool) := loadEnd_boltLoad (ok := ok) hkind hfind
    exact ⟨fun hstarted quiet ok => done_eq hl ((hend ok).trans (if_pos hstarted)) quiet,
      fun hnew => done_settle hl ((hend false).trans ((if_neg (by simp [hnew])).trans (if_pos rfl))),
      fun hnew => done_settle hl ((hend true).trans ((if_neg (by simp [hnew])).trans (if_neg (by simp))))⟩

end Sys2Proof.Machine

/-! PROOFS for host ports and rings (11): doorbells, vectors and queue enables. -/

namespace Sys2Proof.Machine

/-! ### Doorbells (R328) -/

section Doorbells
variable {s : State} {f off size : Nat} {val : W64} {on : Bool} {n : Nat} {set : State → Nat → State}

theorem ringDoorbell_reached (h : hostReach s f = true) : ringDoorbell s f off size val on n set =
    if size ≠ 4 ∨ off ≠ 0 ∨ on = false ∨ n ≤ bits val 0 16 then dbIgnored s f else set s (bits val 0 16) :=
  (if_neg (by simp [h])).trans (if_congr (by simp) rfl rfl)

/-- What a command that is a doorbell answers: it does nothing, is counted, or moves its ring's index, from which `P` follows. -/
theorem doorbell_answers {i : Instr} {P : Prop} (hl : live s = true) (hi : exec i s = plain s (fun s => ringDoorbell s f off size val on n set))
    (hmoved : exec i s = .next (answer s (set s (bits val 0 16))) → P) :
    (hostReach s f = false → exec i s = .next (answer s s)) ∧
    (hostReach s f = true → size ≠ 4 ∨ off ≠ 0 ∨ on = false ∨ n ≤ bits val 0 16 → exec i s = .next (answer s (dbIgnored s f))) ∧
    (hostReach s f = true → size = 4 → off = 0 → on = true → bits val 0 16 < n → P) := by
  refine ⟨fun h => hi.trans (plain_eq hl (if_pos (by simp [h]))),
    fun h hbad => hi.trans (plain_eq hl ((ringDoorbell_reached h).trans (if_pos hbad))),
    fun h hsize hoff hon hval => hmoved (hi.trans (plain_eq hl ((ringDoorbell_reached h).trans (if_neg ?_))))⟩
  simp [hsize, hoff, hon, hval]

end Doorbells

/-! ### Vectors (R318) -/

theorem sendMsix_sends {s : State} {f : FnId} {v : Nat} (hdue : bit (fnAt s f).msix v = true) (hmask : msixMasked (fnAt s f) v = false)
    (htime : tget 0 (fnAt s f).msixNext v ≤ s.now) : sendMsix s f v = { setFn s f { fnAt s f with
      msix := clrBit (fnAt s f).msix v, msixNext := tset 0 (fnAt s f).msixNext v (s.now + usSc 2 * Config.unitsPerSc) } with
      wire := s.wire ++ [.msix f v] } :=
  if_pos (by simp [hdue, hmask, htime])

theorem sendMsix_waits {s : State} {f : FnId} {v : Nat}
    (h : bit (fnAt s f).msix v = false ∨ msixMasked (fnAt s f) v = true ∨ s.now < tget 0 (fnAt s f).msixNext v) : sendMsix s f v = s := by
  refine if_neg fun hsends => ?_
  simp only [Bool.and_eq_true, Bool.not_eq_true', decide_eq_true_eq] at hsends
  obtain ⟨⟨hdue, hmask⟩, htime⟩ := hsends
  exact h.elim (Bool.eq_false_iff.mp · hdue) (·.elim (Bool.eq_false_iff.mp hmask) htime.not_gt)

/-! ### HQ_QCFG (R339) -/

section Queue
variable {s : State} {f q : Nat} {v : W32}

theorem writeQcfg_enabled (h : qpEnabled (qpAt (fnAt s f) q) = true) : writeQcfg s f q v =
    if bit v 31 = true then hqCfgErr s else updQp s f q (fun p => qpSettle { p with qcfg := clrBit p.qcfg 31 }) := if_pos h

theorem writeQcfg_disabled {p : QPair} (hp : p = qpAt (fnAt s f) q) (h : qpEnabled p = false) : writeQcfg s f q v =
    if p.open_ ≠ 0 ∨ bits v 0 4 < 4 ∨ 12 < bits v 0 4 ∨ bits v 4 4 < 4 ∨ (bit v 31 = true ∧ (bits p.sqLo 0 12 ≠ 0 ∨ bits p.cqLo 0 12 ≠ 0)) then
      hqCfgErr s
    else updQp s f q (fun p => { p with qcfg := v &&& 0x803F00FF }) := by
  subst hp
  refine (if_neg (Bool.eq_false_iff.mp h)).trans (if_congr ?_ rfl rfl)
  simp only [aligned4k, Bool.not_eq_true', Bool.and_eq_false_iff, decide_eq_false_iff_not, ne_eq]

end Queue

/-- Settles O55: the three doorbells by the one lemma on what a doorbell answers, then the vectors and the queue pairs. -/
theorem ringsTakeTheirDoorbells : Obligations.RingsTakeTheirDoorbells := by
  refine ⟨?doorbell, fun s fn v hl => ⟨fun hdue hmask htime => plain_eq hl (sendMsix_sends hdue hmask htime),
    fun h => plain_eq hl (sendMsix_waits h)⟩, ?queue⟩
  case doorbell =>
    rintro s fn q off size val i p on n hl rfl (⟨rfl, rfl, rfl⟩ | ⟨rfl, rfl, rfl⟩ | ⟨rfl, rfl, rfl⟩)
    · exact doorbell_answers hl rfl fun hmoved => ⟨fun _ => hmoved, nofun, nofun⟩
    · exact doorbell_answers hl rfl fun hmoved => ⟨nofun, fun _ => hmoved, nofun⟩
    · exact doorbell_answers hl rfl fun hmoved => ⟨nofun, nofun, fun _ => hmoved⟩
  case queue =>
    intro s fn q v p hl hp hreach
    have hanswer {t : State} (h : writeQcfg s fn q v = t) : exec (.queueEnable fn q v) s = .next (answer s t) :=
      plain_eq hl ((if_pos hreach).trans h)
    refine ⟨fun hon hv => hanswer ((writeQcfg_enabled (hp ▸ hon)).trans (if_pos hv)),
      fun hon hv => hanswer ((writeQcfg_enabled (hp ▸ hon)).trans (if_neg (Bool.eq_false_iff.mp hv))),
      fun hoff hbad => hanswer ((writeQcfg_disabled hp hoff).trans (if_pos hbad)),
      fun hoff hopen hsq hsq' hcq hbases => hanswer ((writeQcfg_disabled hp hoff).trans (if_neg ?_))⟩
    rintro (h | h | h | h | ⟨hv, h⟩)
    · exact h hopen
    · exact h.not_ge hsq
    · exact h.not_ge hsq'
    · exact h.not_ge hcq
    · exact h.elim (· (hbases hv).1) (· (hbases hv).2)

end Sys2Proof.Machine

/-! PROOFS for host ports and rings (11): bindings, partitions, trace mode, function-level resets, PCIe links and register writes. -/

namespace Sys2Proof.Machine

/-! ### Binding, partition and FORCE_STOP (R321 to R323) -/

section Binding
variable {s : State} {k : Nat} {v : W32}

/-- A context that runs keeps its binding, and one that is loaded takes no new one. -/
theorem bindOk_inUse (h : (ctxAt s k).st = .running ∨ ((ctxAt s k).st = .loaded ∧ bit v 31 = true)) : bindOk s k v = false := by
  unfold bindOk
  cases bindFn v with
  | none => rfl
  | some f => rcases h with h | ⟨h, hv⟩ <;> simp [*]

theorem writeClusters_accepts (hst : (ctxAt s (selCtx s)).st = .unbound ∨ (ctxAt s (selCtx s)).st = .bound)
    (hfree : clustersOk s (selCtx s) (bits v 0 18) = true) : writeClusters s v = wakeAccepted (setCtx s (selCtx s) { ctxAt s (selCtx s) with
      clusters := { (ctxAt s (selCtx s)).clusters with acc := v &&& 0x3FFFF } }) (selCtx s) := if_pos ⟨hst, hfree⟩

theorem writeClusters_refused (h : (ctxAt s (selCtx s)).st = .loaded ∨ (ctxAt s (selCtx s)).st = .running ∨
    clustersOk s (selCtx s) (bits v 0 18) = false) : writeClusters s v = hqCfgErr s := by
  refine if_neg ?_
  rintro ⟨hst, hfree⟩
  rcases h with h | h | h
  · simp [h] at hst
  · simp [h] at hst
  · simp [h] at hfree

end Binding

/-! ### Trace mode (R336) -/

section Trace
variable {s : State} {v : W32}

/-- Setting ERR leaves EN clear. -/
theorem trace_error_en_clear {w : W32} (x : W32) (h : bit w 0 = false) : bit (orBit (w1c w x) 2) 0 = false := by
  rw [bit, orBit, w1c, BitVec.getLsbD_or, BitVec.getLsbD_and, show w.getLsbD 0 = false from h]
  rfl

/-- Port B is in use: it is the steward's, a context is bound to it, or it has VFs. -/
def PortBUsed (s : State) : Prop := s.glb.stewardB = true ∨ portBBound s = true ∨ portBVfs s = true

theorem traceRefused_iff : (bit v 0 && !(bit s.glb.traceCtrl 0) && (s.glb.stewardB || portBBound s || portBVfs s)) = true ↔
    bit v 0 = true ∧ bit s.glb.traceCtrl 0 = false ∧ PortBUsed s := by
  simp [PortBUsed, and_assoc, or_assoc]

theorem writeTrace_refused (hen : bit v 0 = true) (hoff : bit s.glb.traceCtrl 0 = false) (hused : PortBUsed s) :
    writeTrace s v = updGlb s (fun g => { g with traceCtrl := orBit (w1c g.traceCtrl (v &&& 4)) 2 }) :=
  if_pos (traceRefused_iff.mpr ⟨hen, hoff, hused⟩)

theorem writeTrace_accepts (h : ¬ (bit v 0 = true ∧ bit s.glb.traceCtrl 0 = false ∧ PortBUsed s)) :
    writeTrace s v = updGlb s (fun g => { g with traceCtrl := (w1c g.traceCtrl (v &&& 4) &&& 4) ||| (v &&& 0xFF01) }) :=
  if_neg (h ∘ traceRefused_iff.mp)

end Trace

/-! ### Function-level resets and links (R315, R324, R422) -/

section Resets
variable {s : State} {f k : Nat} {p : PciePort}

/-- The rings of a function are disabled, and with the steward's the choice ring stops (R324). -/
def ringsReset (s : State) (f : Nat) : State :=
  { setFn s f (ringsOff (fnAt s f)) with saf := { s.saf with choiceOn := s.saf.choiceOn && !(isSteward s f) } }

theorem choiceOff_eq (s : State) (f : Nat) :
    choiceOff s f = { s with saf := { s.saf with choiceOn := s.saf.choiceOn && !(isSteward s f) } } := by
  unfold choiceOff
  split <;> simp [*, updSaf]

theorem choiceOff_ringsOff (s : State) (f : Nat) : choiceOff (updFn s f ringsOff) f = ringsReset s f := choiceOff_eq _ f

theorem flr_without_commands (hcmds : s.cmds.filter (fun c => decide (c.fn = f)) = []) (hk : fnCtx s f = some k) :
    flr s f = setCtx (ringsReset s f) k { ctxAt s k with
      runAt := none, runCmd := none, stopAt := none, stopCmd := none
      force := (ctxAt s k).force || decide ((ctxAt s k).st = .running), flr := decide ((ctxAt s k).st = .running) } := by
  have hkeeps : forAll ((ringsReset s f).cmds.filter (fun c => decide (c.fn = f))) (ringsReset s f) abandon = ringsReset s f :=
    congrArg (forAll · _ abandon) hcmds
  have hfn : fnCtx (ringsReset s f) f = some k := hk
  unfold flr
  dsimp only
  rw [choiceOff_ringsOff, hkeeps, hfn]
  rfl

theorem live_setPerst (level : Bool) : live (setPerst s p level) = live s := by cases p <;> rfl

theorem perstFall_live (h : live s = true) : perstFall s p = settle (linkDown (setPerst s p false) p) := if_pos ((live_setPerst false).trans h)

theorem perstFall_dead (h : live s = false) : perstFall s p = setPerst s p false := if_neg (by simp [live_setPerst, h])

theorem setPcieWord_quiet (quiet : Quiet s) (w : W32) : Quiet (setPcieWord s p w) := by cases p <;> exact quiet

end Resets

/-! ### Register writes (R18) -/

section Registers
variable {s : State} {f off : Nat} {v : W32}

theorem writeReg_undecoded (h : bar0Decodes s f off = false) : writeReg s f off v = s := if_pos (by simp [h])

theorem writeReg_unlisted (h : off / 4096 = 7 ∨ off / 4096 = 9 ∨ 11 ≤ off / 4096) : writeReg s f off v = s := by
  unfold writeReg
  split
  · rfl
  · split
    case h_10 => rfl
    all_goals omega

/-- What a write of a block of the steward PF does, by the block. -/
def writeStewardBlock (s : State) (off : Nat) (v : W32) : State :=
  match off / 4096 with
  | 2 => writeTmp s (off % 4096) v
  | 3 => writeFab s (off % 4096) v
  | 5 => writeSaf s (off % 4096) v
  | _ => writeTir s (off % 4096) v

theorem writeReg_stewardBlock (hdec : bar0Decodes s f off = true)
    (hblock : off / 4096 = 2 ∨ off / 4096 = 3 ∨ off / 4096 = 5 ∨ off / 4096 = 8) :
    writeReg s f off v = if isSteward s f = true then writeStewardBlock s off v else s := by
  rcases hblock with h | h | h | h <;> simp only [writeReg, writeStewardBlock, hdec, h, Bool.not_true, Bool.false_eq_true, if_false]

theorem writeReg_otherFn (ho : isSteward s f = false)
    (hblock : off / 4096 = 2 ∨ off / 4096 = 3 ∨ off / 4096 = 5 ∨ off / 4096 = 8) : writeReg s f off v = s := by
  cases hdec : bar0Decodes s f off with
  | false => exact writeReg_undecoded hdec
  | true => exact (writeReg_stewardBlock hdec hblock).trans (if_neg (Bool.eq_false_iff.mp ho))

end Registers

/-- Settles O56: the steward's registers by what they refuse, the resets of functions and ports by what a reset is, and register writes by the
block that the offset names. -/
theorem functionsPortsAndRegisters : Obligations.FunctionsPortsAndRegisters := by
  refine ⟨?context, fun s k v => bindOk_inUse, ?trace, ?flr, fun s f k => flr_without_commands, ?links, ?perst, ?down, ?up, ?registers⟩
  case context =>
    rintro s fn v k hl hsteward rfl
    exact ⟨fun h => plain_steward hl hsteward rfl (if_neg (Bool.eq_false_iff.mp h)), fun h => plain_steward hl hsteward rfl (if_pos h),
      fun h => plain_steward hl hsteward rfl (writeClusters_refused h),
      fun hst hfree => plain_steward hl hsteward rfl (writeClusters_accepts hst hfree),
      fun hv hst => plain_steward hl hsteward rfl (if_pos ⟨hv, hst⟩),
      fun h => plain_steward hl hsteward rfl (if_neg fun ⟨hv, hst⟩ => h.elim (Bool.eq_false_iff.mp · hv) (· hst))⟩
  case trace =>
    intro s fn v hl hsteward _
    refine ⟨fun hen hoff hused => ⟨_, plain_steward hl hsteward rfl (writeTrace_refused hen hoff hused), ?_, ?_⟩,
      fun h => plain_steward hl hsteward rfl (writeTrace_accepts ?_)⟩
    · exact orBit_same _ 2 (by decide)
    · exact trace_error_en_clear _ hoff
    · rintro ⟨hen, hoff, hused⟩
      rcases h with h | h | ⟨hsb, hbound, hvfs⟩
      · simp [h] at hen
      · simp [h] at hoff
      · simp [PortBUsed, hsb, hbound, hvfs] at hused
  case flr =>
    exact fun s fn hl => ⟨fun h quiet => done_eq hl (if_neg (Bool.eq_false_iff.mp h)) quiet, fun h => done_settle hl (if_pos h)⟩
  case links =>
    exact fun s p hl => ⟨done_live hl _, done_live hl _, congrArg (fun t => Host.Outcome.next (answer s t)) (perstFall_live hl)⟩
  case perst =>
    exact fun s p => ⟨rfl, fun h => congrArg (fun t => Host.Outcome.next (answer s t)) (perstFall_dead h)⟩
  case down =>
    intro s p
    cases p <;> rfl
  case up =>
    rintro s p speed flit width _ hl quiet rfl
    have hquiet := setPcieWord_quiet (p := p) quiet (BitVec.ofNat 32 (speed.toNat * 256 + 128 + b2n flit * 64 + width.toNat))
    refine ⟨fun hlow => done_eq hl (if_pos hlow) quiet, fun hhigh hup => done_eq hl ((if_neg ?_).trans (if_pos hup)) hquiet,
      fun hhigh hdown => done_eq hl ((if_neg ?_).trans ((if_neg (Bool.eq_false_iff.mp hdown)).trans ?_))
        ((postSteward_calm _ _ _ _ _ _).quiet hquiet)⟩
    · simp [hhigh]
    · simp [hhigh]
    · cases p <;> rfl
  case registers =>
    intro s f off v hl
    refine ⟨fun h quiet => done_eq hl ?_ quiet, fun hdec hsteward => ?_,
      fun hreleased quiet sp => done_eq hl (if_pos (by simp [hreleased])) quiet, fun k c o => done_live hl _, fun k o quiet => done_eq hl rfl quiet⟩
    · rcases h with h | ⟨ho, hblock⟩ | h
      · exact writeReg_undecoded h
      · exact writeReg_otherFn ho hblock
      · exact writeReg_unlisted h
    · refine ⟨fun h => ?_, fun h => ?_, fun h => ?_, fun h => ?_⟩ <;>
        refine done_settle hl ((writeReg_stewardBlock hdec (by simp [h])).trans ((if_pos hsteward).trans ?_)) <;>
        simp only [writeStewardBlock, h]

end Sys2Proof.Machine

/-! PROOFS for the service complex (12): accesses of its cores, its message engine, and fault reports. -/

namespace Sys2Proof.Machine

/-! ### Accesses of service cores (R342, R343) -/

section Accesses
variable {s : State} {k addr size : Nat} {d : BitVec 512} {e : Ecc}

/-- Before release no service core does anything. -/
theorem service_unreleased (h : s.svc.released = false) : serviceLoad s k addr size e = s ∧ serviceStore s k addr size d e = s :=
  ⟨if_pos (by simp [h]), if_pos (by simp [h])⟩

variable (hr : s.svc.released = true)
include hr

theorem service_none (h : svcTarget s k addr size = .none_) :
    serviceLoad s k addr size e = svcTrap s k addr ∧ serviceStore s k addr size d e = svcTrap s k addr := by
  simp [serviceLoad, serviceStore, hr, h]

theorem serviceLoad_mem {a : Nat} (h : svcTarget s k addr size = .mem a) (he : e ≠ .uncorrectable) : serviceLoad s k addr size e =
    svcLoaded (svcEcc s a addr e) k (BitVec.ofNat 512 (readLe (svcEcc s a addr e).svc.mem a size)) := by
  simp [serviceLoad, hr, h, he]

theorem serviceLoad_uncorrectable {a : Nat} (h : svcTarget s k addr size = .mem a) :
    serviceLoad s k addr size .uncorrectable = svcFree (svcEcc s a addr .uncorrectable) k size := by
  simp [serviceLoad, hr, h]

theorem serviceStore_mem {a : Nat} (h : svcTarget s k addr size = .mem a) : serviceStore s k addr size d e =
    svcStored (updSvc (svcEcc s a addr e) (fun v => { v with mem := writeLe v.mem a size d.toNat })) k := by
  simp [serviceStore, hr, h]

theorem service_maint {c off : Nat} (h : svcTarget s k addr size = .maint c off) :
    serviceLoad s k addr size e = svcLoaded s k ((readMaint s c off size).setWidth 512) ∧
    serviceStore s k addr size d e = writeMaint (svcStored s k) c off size (d.setWidth 64) := by
  simp [serviceLoad, serviceStore, hr, h]

theorem service_router {r off : Nat} (h : svcTarget s k addr size = .router r off) :
    serviceLoad s k addr size e = svcLoaded s k ((readRouter s r off size).setWidth 512) ∧
    serviceStore s k addr size d e = writeRouter (svcStored s k) r off size (d.setWidth 64) := by
  simp [serviceLoad, serviceStore, hr, h]

/-- A store within a core's own store is a write of that store, unless the store clears (R169, R343). -/
theorem serviceStore_coreStore {c a o : Nat} (h : svcTarget s k addr size = .local_ c a) (ha : regionOf a = .store o)
    (ho : o + size ≤ 0x800000) (hc : (coreAt s c).clearing = false) :
    serviceStore s k addr size d e = svcStored (storeWrite s c o (leBytes size d.toNat) true none) k := by
  simp [serviceStore, localStore, hr, h, ha, hc, ho]

end Accesses

/-! ### ECC of the service memories (R377) -/

section Ecc
variable (s : State) (a addr : Nat)

theorem svcEcc_uncorrectable : TempoLost s (svcEcc s a addr .uncorrectable) 16 0x26 := (lostFault_spec s 16 0x26 3 0 _ (by decide)).1

variable {s}

theorem svcEcc_quiet (quiet : Quiet s) (e : Ecc) : Quiet (svcEcc s a addr e) := by
  cases e with
  | ok => exact quiet
  | corrected => exact quiet
  | uncorrectable =>
    obtain ⟨hlost, -, -, -, hdue, hended, -⟩ := lostFault_spec s 16 0x26 3 0 (min (a / 0x100000) 8 * 2 ^ 40 + addr % 2 ^ 32) (by decide)
    exact quiet.of_eq hdue hended hlost.spared.msgs

end Ecc

/-! ### The message engine (R347) -/

section Submit
variable {s : State} {i : Nat}

theorem submitSlot_idle (h : s.svc.released = false ∨ tget false s.svc.msgOpen i = true) : submitSlot s i = s :=
  if_pos (h.imp_left (by simp [·]))

/-- A slot ends with a status. -/
def slotEnds (s : State) (i st : Nat) : State :=
  updSvc s (fun v => { v with msgStatus := tset 0 v.msgStatus i (BitVec.ofNat 32 st) })

/-- The message of a descriptor. -/
def slotMsg (s : State) (d : Line) : Msg :=
  { svcMsg s 72 (descOf d).op (descOf d).gaddr (bits d 256 64) (descOf d).len (descOf d).cls with
    arrive := if (descOf d).aen then some (descOf d).arrive else none, coreset := (descOf d).coreset, fence := (descOf d).fence }

/-- A slot's message is sent, and outstanding. -/
def slotSends (s : State) (i : Nat) (m : Msg) : State :=
  sendSvc (updSvc s (fun v => { v with msgOpen := tset false v.msgOpen i true, slots := v.slots ++ [(m.msgid, i)] })) m

/-- What a free slot does with its descriptor. -/
theorem submitSlot_free {d : Line} (hd : d = BitVec.ofNat 512 (readLe s.svc.mem (0x800000 + (Config.messageRing + 64 * i) % 0x1000000) 64))
    (hr : s.svc.released = true) (hfree : tget false s.svc.msgOpen i = false) : submitSlot s i =
      if svcDescStatus s d ≠ 0 then slotEnds s i (svcDescStatus s d)
      else if (descOf d).len = 0 then slotEnds s i 0 else slotSends s i (slotMsg s d) := by
  refine (if_neg (by simp [hr, hfree])).trans ?_
  dsimp only
  rw [← hd]
  by_cases hst : svcDescStatus s d = 0
  · rw [if_neg (not_not.mpr hst), hst]
    rfl
  · rw [if_pos hst]
    split
    · contradiction
    · rfl

end Submit

/-! ### Fault reports (R357) -/

theorem handleReport_idle {s : State} (h : s.svc.released = false ∨ s.saf.reports = []) : handleReport s = s := by
  rcases h with h | h <;> simp [handleReport, h]

theorem handleReport_oldest {s : State} {e : FlogEnt} {rest : List FlogEnt} (hr : s.svc.released = true) (h : s.saf.reports = e :: rest) :
    handleReport s = startRepair (postFault (updSaf s (fun x => { x with reports := rest })) e) e := by
  simp [handleReport, hr, h]

/-- Settles O57: an access by its target, an ECC error as tempo lost where it cannot be corrected, a slot by its descriptor's status, and the
reports from the oldest. -/
theorem serviceCoresAndReports : Obligations.ServiceCoresAndReports := by
  refine ⟨?accesses, ?messages, fun s hl => ⟨fun h quiet => done_eq hl (handleReport_idle h) quiet,
    fun e rest hr h => done_settle hl (handleReport_oldest hr h)⟩⟩
  case accesses =>
    intro s k addr size d e hl quiet
    refine ⟨fun h => (service_unreleased h).imp (done_eq hl · quiet) (done_eq hl · quiet), fun hr => ⟨fun h => ?_, fun a h => ?memory,
      fun c off h => done_eq hl (service_maint hr h (d := d)).1 quiet, fun r off h => done_eq hl (service_router hr h (d := d)).1 quiet,
      fun c off h => done_settle hl (service_maint hr h (e := e)).2, fun r off h => done_settle hl (service_router hr h (e := e)).2,
      fun c a o h ha ho hc => done_settle hl (serviceStore_coreStore hr h ha ho hc)⟩⟩
    · exact (service_none hr h).imp (done_eq hl · quiet) (done_eq hl · quiet)
    case memory =>
      have hquiet := svcEcc_quiet a addr quiet e
      have hstore : exec (.serviceStore k addr size d e) s = _ := done_eq hl (serviceStore_mem hr h) hquiet
      refine ⟨fun u hu => ?_, ?_⟩
      · rcases hu with ⟨rfl, rfl⟩ | ⟨rfl, rfl⟩
        · exact ⟨done_eq hl (serviceLoad_mem hr h (by decide)) quiet, hstore⟩
        · exact ⟨done_eq hl (serviceLoad_mem hr h (by decide)) quiet, hstore⟩
      · rintro rfl
        exact ⟨_, svcEcc_uncorrectable s a addr, done_eq hl (serviceLoad_uncorrectable hr h) hquiet, hstore⟩
  case messages =>
    intro s i d hl hd
    refine ⟨fun h quiet => done_eq hl (submitSlot_idle h) quiet, fun hr hfree => ?_⟩
    have hsubmit := submitSlot_free hd hr hfree
    refine ⟨fun hst quiet => done_eq hl (hsubmit.trans (if_pos hst)) quiet,
      fun hst hlen quiet => done_eq hl (hsubmit.trans ((if_neg (not_not.mpr hst)).trans (if_pos hlen))) quiet, ?_⟩
    rintro _ hst hlen rfl
    exact done_settle hl (hsubmit.trans ((if_neg (not_not.mpr hst)).trans (if_neg hlen)))

end Sys2Proof.Machine

/-! PROOFS for fault detection (13): the registers of the SAF block, self-test visits, and the test of the checkers. -/

namespace Sys2Proof.Machine

/-! ### SAF_OPP_CTRL (R379) -/

/-- The conditions of R379, each by itself. -/
theorem oppositionOk_iff {s : State} {follow : Bool} {peer : OppPeer} : oppositionOk s follow peer = true ↔
    peer.sameOrder = true ∧ peer.sameResults = true ∧ peer.peerRoleFollow ≠ follow ∧ portOpp (portAt s 15) = true ∧ (portAt s 15).gen = 3 ∧
    2 ≤ (portAt s 15).st ∧ (portAt s 15).st ≤ 4 ∧ keepsCount s = true ∧ ∀ k < 16, peer.digests.getD k 0 = ctxDigest s k := by
  simp only [oppositionOk, Bool.and_eq_true, bne_iff_ne, decide_eq_true_eq, List.all_eq_true, List.mem_range, and_assoc]

section OppCtrl
variable {s : State} {v : W32} {peer : OppPeer}

theorem writeOppCtrl_accepts (h : bit v 0 = false ∨ oppositionOk s (bit v 1) peer = true) :
    writeOppCtrl s v peer = updSaf s (fun x => { x with oppCtrl := v &&& 3 }) :=
  if_neg (by rcases h with h | h <;> simp [h])

theorem writeOppCtrl_refused (hen : bit v 0 = true) (h : ¬ oppositionOk s (bit v 1) peer = true) : writeOppCtrl s v peer = safCfgErr s :=
  if_pos (by simp [hen, h])

end OppCtrl

/-! ### SAF_CHOICE_CFG (R387) -/

section ChoiceCfg
variable {s : State} {v : W32}

theorem writeChoiceCfg_refused (h : bits v 0 5 < 8 ∨ 20 < bits v 0 5) : writeChoiceCfg s v = safCfgErr s := if_pos h

variable (hlow : 8 ≤ bits v 0 5) (hhigh : bits v 0 5 ≤ 20)
include hlow hhigh

theorem log2_inRange : ¬ (bits v 0 5 < 8 ∨ 20 < bits v 0 5) := by omega

theorem writeChoiceCfg_restarts (hen : bit v 31 = true) (hwas : bit s.saf.choiceCfg 31 = false) : writeChoiceCfg s v = updSaf s (fun x => { x with
    choiceCfg := v &&& 0x8000001F, choiceOn := true, choiceBase := join64 x.choiceHi x.choiceLo, choiceLog2 := bits v 0 5
    choicePos := 0, choiceSeq := 0, choicePhase := true }) := by
  rw [writeChoiceCfg, if_neg (log2_inRange hlow hhigh)]
  simp [updSaf, hen, hwas]

theorem writeChoiceCfg_keepsRing (h : bit v 31 = false ∨ bit s.saf.choiceCfg 31 = true) :
    writeChoiceCfg s v = updSaf s (fun x => { x with choiceCfg := v &&& 0x8000001F, choiceOn := bit v 31 }) := by
  rw [writeChoiceCfg, if_neg (log2_inRange hlow hhigh)]
  rcases h with h | h <;> simp [updSaf, h]

end ChoiceCfg

/-! ### Self-test visits (R360, R378) -/

theorem coreAt_updCore {s : State} {c : Nat} {f : Core → Core} (h : f (coreAt s c) ≠ {}) : coreAt (updCore s c f) c = f (coreAt s c) :=
  (tget_tset_ne _ _ _ _ _ h).trans (if_pos rfl)

/-- The engines of a core, undefined each on an occasion of its own. -/
def undefineEngines (x : Core) (n : Nat) : Core :=
  [0, 1, 2, 3].foldl (fun (x : Core) (e : Nat) => updEngine x e (fun g => g.undefine (n + 1 + e))) x

theorem undefine_ne (g : Engine) (n : Nat) : g.undefine (n + 1) ≠ {} := fun h => nomatch congrArg Engine.accUndef h

/-- A core with an undefined engine is not a core at reset. -/
theorem undefineEngines_ne (x : Core) (n : Nat) : undefineEngines x n ≠ {} := by
  intro h
  have hlast : engineAt (undefineEngines x n) 3 = _ := (tget_tset_ne _ _ _ _ _ (undefine_ne _ (n + 3))).trans (if_pos rfl)
  rw [h] at hlast
  exact undefine_ne _ _ hlast.symm

theorem coreAt_undefineCore (s : State) (c : Nat) : coreAt (undefineCore s c) c = undefineEngines (coreAt s c) s.freeCtr :=
  coreAt_updCore (f := (undefineEngines · s.freeCtr)) (undefineEngines_ne _ _)

theorem undefineEngines_keeps (x : Core) (n : Nat) : (undefineEngines x n).store = x.store ∧ (undefineEngines x n).syncs = x.syncs := ⟨rfl, rfl⟩

/-- A core is undefined in its engines alone. -/
theorem undefineCore_keeps (s : State) (c : Nat) :
    (coreAt (undefineCore s c) c).store = (coreAt s c).store ∧ (coreAt (undefineCore s c) c).syncs = (coreAt s c).syncs := by
  rw [coreAt_undefineCore]
  exact undefineEngines_keeps _ _

/-- A core whose visit ends. -/
def endVisit (u : State) (x : Core) : Core :=
  { x with
    mres := (List.range 8).foldl (fun t i => tset 0 t i (Config.freeWord u.freeCtr i)) x.mres
    mcrc := lo32 (Config.freeWord u.freeCtr 8), mcnt := lo32 (Config.freeWord u.freeCtr 9)
    visited := some u.now, visitDue := false }

/-- `u` is `s` after a visit of core `c`, as far as the visit answers for it. -/
structure Visited (s u : State) (c : Nat) : Prop where
  store : (coreAt u c).store = (coreAt s c).store
  syncs : (coreAt u c).syncs = (coreAt s c).syncs
  time : (coreAt u c).visited = some s.now
  tiers : u.tiers = s.tiers
  saf : u.saf = s.saf

section Visits
variable {s : State} {c : Nat} {latent : Bool}

theorem visit_none (h : enabledCore s c = false ∨ (coreAt s c).maint = false ∨ (coreAt s c).mnext.isSome = true ∨ s.svc.released = false) :
    visit s c latent = s :=
  if_pos (by simpa using h)

/-- A visit ends with the core visited, and a latent fault is one of the checker 0 of that core. -/
theorem visit_ends (hon : enabledCore s c = true) (hmaint : (coreAt s c).maint = true) (hnext : (coreAt s c).mnext = none)
    (hr : s.svc.released = true) : ∃ u, Visited s u c ∧ visit s c latent = if latent then checkerFault u 0 (logicalOf u c) [] [] else u := by
  refine ⟨updCore (undefineCore s c) c (endVisit (undefineCore s c)), ?_, if_neg (by simp [hon, hmaint, hnext, hr])⟩
  have hcore : coreAt (updCore (undefineCore s c) c (endVisit (undefineCore s c))) c = endVisit (undefineCore s c) (coreAt (undefineCore s c) c) :=
    coreAt_updCore fun h => nomatch congrArg Core.visited h
  obtain ⟨hstore, hsyncs⟩ := undefineCore_keeps s c
  constructor
  case store => rw [hcore, ← hstore, endVisit]
  case syncs => rw [hcore, ← hsyncs, endVisit]
  case time => rw [hcore]; rfl
  case tiers => rfl
  case saf => rfl

/-- A fault of a checker is counted. -/
def checkerCounted (s : State) : State := updSaf s (fun x => { x with checkerFails := satAdd x.checkerFails 1 })

theorem checkerCounted_calm (s : State) : Calm s (checkerCounted s) := updSaf_calm s _

theorem checkerFault_spec (s : State) (checker holder : Nat) (scope : List Nat) (counts : List W64) :
    Calm s (checkerFault s checker holder scope counts) ∧
    (checkerFault s checker holder scope counts).saf.checkerFails = satAdd s.saf.checkerFails 1 ∧
    ∃ e : FlogEnt, (checkerFault s checker holder scope counts).saf.reports = s.saf.reports ++ [e] ∧ e.code = 0x23 ∧ e.valid = true := by
  refine ⟨(checkerCounted_calm s).trans (raiseAt_calm _ 0x23 scope counts 3 0 0 _), ?_, raiseAt_report _ 0x23 scope counts 3 0 0 _⟩
  obtain ⟨_, _, _, _, _, _, hsaf⟩ := raiseAt_saf (checkerCounted s) 0x23 scope counts 3 0 0
    (checker * 2 ^ 40 + holder * 2 ^ 32)
  exact congrArg Saf.checkerFails hsaf

theorem Visited.of_calm {u t : State} (h : Visited s u c) (hcalm : Calm u t) : (coreAt t c).store = (coreAt s c).store ∧
    (coreAt t c).syncs = (coreAt s c).syncs ∧ t.tiers = s.tiers ∧ (coreAt t c).visited = some s.now := by
  have hcore : coreAt t c = coreAt u c := by rw [coreAt, coreAt, hcalm.cores]
  rw [hcore]
  exact ⟨h.store, h.syncs, hcalm.tiers.trans h.tiers, h.time⟩

end Visits

/-! ### The test of the checkers (R376) -/

section CheckerTest
variable {s : State} {c : Nat} {was : Bool}

theorem checkerTest_flagged {silent : Option (Fin 7 × Byte)} (h : was = true ∨ (coreAt s c).boundary = false) : checkerTest s c was silent = s := by
  cases silent with
  | none => rfl
  | some p => exact if_neg (by simpa [imp_iff_not_or] using h)

/-- A silent checker, the `p`th with its holder, is a fault of scope module. -/
def checkerSilent (s : State) (p : Fin 7 × Byte) : State := raiseModule (checkerCounted s) 0x23 (p.1.val * 2 ^ 40 + p.2.toNat * 2 ^ 32)

theorem checkerSilent_spec (s : State) (p : Fin 7 × Byte) : Calm s (checkerSilent s p) ∧
    (∃ e : FlogEnt, (checkerSilent s p).saf.reports = s.saf.reports ++ [e] ∧ e.code = 0x23 ∧ e.valid = true) ∧
    ∀ j ∈ moduleScope s, ∀ n ∈ ctxCounts s j (attributed s), ∃ m ∈ (ctxAt (checkerSilent s p) j).marks, m.1 = n := by
  have hcalm : Calm (checkerCounted s) (checkerSilent s p) := raise_calm _ 0x23 _ 3 0 0 _
  obtain ⟨-, hmarks, hreport⟩ := raiseAt_marks (checkerCounted s) 0x23 (moduleScope s) (fun j hj => moduleScope_used hj) (attributed s) 3 0 0
    (p.1.val * 2 ^ 40 + p.2.toNat * 2 ^ 32)
  exact ⟨(checkerCounted_calm s).trans hcalm, hreport, hmarks⟩

/-- It leaves the next worked tempo to withhold. -/
theorem checkerTest_silent (hentered : was = false) (hin : (coreAt s c).boundary = true) (p : Fin 7 × Byte) :
    checkerTest s c was (some p) = updTmp (checkerSilent s p) (fun t => { t with checkNext := some 768 }) :=
  if_pos (by simp [hentered, hin])

end CheckerTest

/-- Settles O48: the registers by what they refuse, a visit by what it leaves of its core, and the test of the checkers as a command begins a
boundary wait. -/
theorem faultDetectionIsCommanded : Obligations.FaultDetectionIsCommanded := by
  refine ⟨?opposition, fun s fn hl => plain_eq hl rfl, ?ring, ?visit,
    fun s hl => ⟨fun h => plain_eq hl (if_pos h), fun h => plain_eq hl (if_neg h.not_gt)⟩, ?checker⟩
  case opposition =>
    intro s fn v peer hl hsteward
    refine ⟨fun h => plain_steward hl hsteward rfl (writeOppCtrl_accepts (h.imp_right oppositionOk_iff.mpr)),
      fun hen h => plain_steward hl hsteward rfl (writeOppCtrl_refused hen fun hok => ?_)⟩
    obtain ⟨horder, hresults, hrole, hopp, hgen, hlow, hhigh, hcount, hdigests⟩ := oppositionOk_iff.mp hok
    rcases h with h | h | h | h | h | h | h | h | ⟨k, hk, h⟩
    · simp [h] at horder
    · simp [h] at hresults
    · exact hrole h
    · simp [h] at hopp
    · exact h hgen
    · exact h.not_ge hlow
    · exact h.not_ge hhigh
    · simp [h] at hcount
    · exact h (hdigests k hk)
  case ring =>
    exact fun s fn v hl hsteward => ⟨fun h => plain_steward hl hsteward rfl (writeChoiceCfg_refused h), fun hlow hhigh =>
      ⟨fun hen hwas => plain_steward hl hsteward rfl (writeChoiceCfg_restarts hlow hhigh hen hwas),
        fun h => plain_steward hl hsteward rfl (writeChoiceCfg_keepsRing hlow hhigh h)⟩⟩
  case visit =>
    intro s c latent hl
    refine ⟨fun h => plain_eq hl (visit_none h), fun hon hmaint hnext hr => ?_⟩
    obtain ⟨u, hvisited, hends⟩ := visit_ends (latent := latent) hon hmaint hnext hr
    cases latent with
    | false =>
      obtain ⟨hstore, hsyncs, htiers, htime⟩ := hvisited.of_calm (Calm.refl u)
      exact ⟨_, plain_eq hl hends, hstore, hsyncs, htiers, htime, fun _ => hvisited.saf, nofun⟩
    | true =>
      obtain ⟨hcalm, hfails, hreport⟩ := checkerFault_spec u 0 (logicalOf u c) [] []
      obtain ⟨hstore, hsyncs, htiers, htime⟩ := hvisited.of_calm hcalm
      rw [hvisited.saf] at hfails hreport
      exact ⟨_, plain_eq hl hends, hstore, hsyncs, htiers, htime, nofun, fun _ => ⟨hfails, hreport⟩⟩
  case checker =>
    refine fun s c st w k h hl => ⟨onCore 0x02 s c st w (boundaryPlan c st w) noMaint, done_live hl _,
      fun hflags => done_settle hl (checkerTest_flagged hflags), fun hwas hin => ?_⟩
    obtain ⟨hcalm, hreport, hmarks⟩ := checkerSilent_spec (onCore 0x02 s c st w (boundaryPlan c st w) noMaint) (k, h)
    exact ⟨_, done_settle hl (checkerTest_silent hwas hin (k, h)), congrArg (fun t : Tmp => { t with checkNext := some 768 }) hcalm.tmp, hreport,
      hmarks⟩

end Sys2Proof.Machine

/-! PROOFS for the machine as a whole (95) and for its phases (15): what every command answers, and what acts in reset. -/

namespace Sys2Proof.Machine

/-! ### Every command and every step -/

theorem step_cons {s : State} {c : Instr} {rest : List Instr} (h : s.pending = c :: rest) :
    step s = exec c (State.setPending s rest) := by
  unfold step; rw [h]

theorem step_nil {s : State} (h : s.pending = []) : step s = .next (tick s) := by
  unfold step; rw [h]

/-- Settles O1: the two cases of the queue. -/
theorem stepRunsTheFrontCommand : Obligations.StepRunsTheFrontCommand :=
  ⟨fun _ _ _ h => step_cons h, fun _ h => step_nil h⟩

/-- Settles O5: an answer of either shape is a next state. -/
theorem everyCommandCompletes : Obligations.EveryCommandCompletes := by
  intro c s
  obtain ⟨t, ht, -⟩ := exec_shape c s
  exact ⟨t, ht⟩

/-- A command leaves the machine as it is or answers, whatever its answer is called. -/
theorem exec_next {c : Instr} {s t : State} (h : exec c s = .next t) : t = s ∨ ∃ u, t = answer s u := by
  obtain ⟨t', ht', hshape⟩ := exec_shape c s
  cases ht'.symm.trans h
  exact hshape

theorem exec_driven {c : Instr} {s t : State} (h : exec c s = .next t) (hd : Driven s) : Driven t := by
  rcases exec_next h with rfl | ⟨u, rfl⟩
  · exact hd
  · exact answer_driven s u

theorem exec_pending {c : Instr} {s t : State} (h : exec c s = .next t) : t.pending = s.pending := by
  rcases exec_next h with rfl | ⟨u, rfl⟩
  · rfl
  · exact answer_pending s u

theorem exec_now {c : Instr} {s t : State} (h : exec c s = .next t) : s.now ≤ t.now := by
  rcases exec_next h with rfl | ⟨u, rfl⟩
  · exact Nat.le_refl _
  · exact Nat.le_max_left s.now u.now

/-- Settles O2: the queue is no pin, and both a tick and a command leave the pins driven. -/
theorem everyStepKeepsThePinsDriven : Obligations.EveryStepKeepsThePinsDriven := by
  intro s t hd hstep
  cases hq : s.pending with
  | nil =>
    cases (step_nil hq).symm.trans hstep
    exact tick_driven hd
  | cons c rest => exact exec_driven ((step_cons hq).symm.trans hstep) hd

/-- Settles O4: a tick keeps the empty queue, a command the rest of the queue it was taken from. -/
theorem aStepTakesOneCommand : Obligations.AStepTakesOneCommand := by
  intro s t hstep
  cases hq : s.pending with
  | nil =>
    cases (step_nil hq).symm.trans hstep
    exact ⟨(tick_pending s).trans hq, tick_now s⟩
  | cons c rest =>
    have hexec := (step_cons hq).symm.trans hstep
    exact ⟨exec_pending hexec, exec_now (s := State.setPending s rest) hexec⟩

/-- Every command but those of the supply, the reset and PERST pins and the sensors acts only while the module works (R421, R423). -/
theorem exec_dead {c : Instr} {s : State} (hact : actsInReset c = false) (hdead : live s = false) : exec c s = .next s := by
  obtain ⟨f, hf⟩ := exec_works c hact s
  rw [hf, whenLive, hdead]
  rfl

/-- Settles O6: the commands that `actsInReset` leaves out all have the one shape of a command that acts only while the module works. -/
theorem inResetOnlyPinsAct : Obligations.InResetOnlyPinsAct := fun _ _ hdead hact => exec_dead hact hdead

end Sys2Proof.Machine

/-! PROOFS for power, reset and connections (15): module resets, the supply, the start, sensor samples and idle ports. -/

namespace Sys2Proof.Machine

/-! ### Module resets (R421, Table 15.5) -/

section Resets
variable {s : State}

/-- A module reset keeps of the power block what is driven from outside and the causes, so a change of the rest before it is as none. -/
theorem moduleReset_after {v : State} (hv : v = { s with pwr := v.pwr }) (hcause : v.pwr.cause = s.pwr.cause) (n : Nat) :
    AfterModuleReset s (answer s (moduleReset v n)) n := by
  rw [hv]
  obtain ⟨phase, cause, tiers, work, blocks, kept, pins⟩ := mr_after (s := { s with pwr := v.pwr }) n rfl
  exact ⟨phase, cause.trans (congrArg (orBit · n) hcause), tiers, work, blocks, kept, pins⟩

theorem resetPowered_on (h : s.pwr.phase ≠ .off) (n : Nat) : resetPowered s n = moduleReset s n := if_neg h

/-- Nothing is left to settle after a module reset: no message is in flight. -/
theorem moduleReset_quiet (n : Nat) : Quiet (moduleReset s n) := quiet_fab rfl

/-- A sensor that is at its trip level at two samples in a row trips (Table 15.9). -/
theorem sample_trips {k : Nat} {temp : BitVec 16} (hhot : bit s.pwr.hot k = true) (htrip : tripLevel k ≤ temp.toInt) (power : BitVec 12) :
    sample s k temp power = thermalTrip (takeSample s k temp power) := if_pos (by simp [hhot, htrip])

theorem exec_sample_live {k : Fin 26} (hl : live s = true) (temp : BitVec 16) (power : BitVec 12) :
    exec (.sensorSample k temp power) s = done s (fun s => sample s k temp power) := by
  show execSensorSample k temp power s = _
  rw [execSensorSample, live_phase hl]

theorem exec_sample_inReset {k : Fin 26} (h : s.pwr.phase = .inReset) (temp : BitVec 16) (power : BitVec 12) :
    exec (.sensorSample k temp power) s = .next (answer s (resetSample s k temp power)) := by
  show execSensorSample k temp power s = _
  rw [execSensorSample, h]

theorem exec_sample_off {k : Fin 26} (h : s.pwr.phase = .off) (temp : BitVec 16) (power : BitVec 12) :
    exec (.sensorSample k temp power) s = .next s := by
  show execSensorSample k temp power s = _
  rw [execSensorSample, h]

end Resets

/-- Settles O13: each source is a module reset of the machine it finds, and a trip one of the machine that has taken the sample. -/
theorem moduleResetSources : Obligations.ModuleResetSources := by
  refine ⟨?rclk, ?pin, ?steward, ?domain, ?trip⟩
  case rclk =>
    intro s h
    exact ⟨_, rfl, mr_after 3 (resetPowered_on h 3)⟩
  case pin =>
    intro s h
    exact ⟨_, congrArg (fun t => Host.Outcome.next (answer s t)) (resetPowered_on (s := updPwr s fun p => { p with modRstLow := true }) h 1),
      moduleReset_after (by rfl) (by rfl) 1, rfl⟩
  case steward =>
    intro s fn val hl ho hb
    exact ⟨_, plain_steward hl ho rfl (if_pos hb), mr_after 5 rfl⟩
  case domain =>
    intro s hl hdue
    exact ⟨_, plain_eq hl (if_pos hdue), mr_after 2 rfl⟩
  case trip =>
    intro s k temp power hl hhot htrip
    exact ⟨_, (exec_sample_live hl temp power).trans (done_eq hl (sample_trips hhot htrip power) (moduleReset_quiet 4)),
      moduleReset_after (by rfl) (by rfl) 4, rfl⟩

/-! ### The supply (R416, R420) -/

section Supply
variable {s : State}

theorem vinShut_on (h : s.pwr.phase ≠ .off) : vinShut s = unpowered s true := if_neg h

theorem vinShut_off (h : s.pwr.phase = .off) : vinShut s = s := if_pos h

theorem powerUp_on (hoff : s.pwr.phase = .off) (hfree : s.pwr.lockedOff = false) :
    powerUp s = { inReset s with tiers := {}, pwr := { (inReset s).pwr with cause := 1 } } := if_pos ⟨hoff, hfree⟩

theorem powerUp_locked (h : s.pwr.lockedOff = true) : powerUp s = s := if_neg (by simp [h])

theorem resetPowered_off (h : s.pwr.phase = .off) (n : Nat) : resetPowered s n = s := if_pos h

theorem release_not (b : BootInputs) (h : s.pwr.phase ≠ .inReset ∨ s.pwr.modRstLow = true ∨ s.pwr.tripped = true) : release s b = s := by
  refine if_neg ?_
  rintro ⟨hphase, hpin, htrip⟩
  rcases h with h | h | h
  · exact h hphase
  · simp [hpin] at h
  · simp [htrip] at h

/-- Locked off: without supply, and not to be powered up before PWR_EN has fallen (R416). -/
def LockedOff (s : State) : Prop := s.pwr.phase = .off ∧ s.pwr.lockedOff = true

theorem LockedOff.not_live (h : LockedOff s) : live s = false := by
  unfold live; rw [h.1]; rfl

theorem lockedOff_setPerst (h : LockedOff s) (p : PciePort) (level : Bool) : LockedOff (setPerst s p level) := by
  cases p <;> exact h

/-- What a module that is locked off answers stays locked off, but to PWR_EN's fall. -/
theorem LockedOff.stays {c : Instr} (h : LockedOff s) (hc : c ≠ .powerDown) : ∃ t, exec c s = .next t ∧ LockedOff t := by
  by_cases hact : actsInReset c = false
  · exact ⟨s, exec_dead hact h.not_live, h⟩
  · have answers {t : State} (ht : LockedOff t) : ∃ u, (.next (answer s t) : Host.Outcome State Fault Refusal) = .next u ∧ LockedOff u :=
      ⟨_, rfl, ht⟩
    cases c with
    | rclkLoss => exact answers (by rwa [resetPowered_off h.1])
    | modRstAssert =>
      have hoff : (updPwr s fun p => { p with modRstLow := true }).pwr.phase = .off := h.1
      exact answers (by rw [resetPowered_off hoff]; exact h)
    | modRstDeassert => exact answers h
    | powerUp => exact answers (by rwa [powerUp_locked h.2])
    | powerDown => exact absurd rfl hc
    | vinUndervoltage => exact answers (by rwa [vinShut_off h.1])
    | vinOvervoltage => exact answers (by rwa [vinShut_off h.1])
    | resetRelease b => exact answers (by rwa [release_not b (.inl (by simp [h.1]))])
    | perstAssert p => exact answers (by rw [perstFall_dead h.not_live]; exact lockedOff_setPerst h p false)
    | perstDeassert p => exact answers (lockedOff_setPerst h p true)
    | sensorSample k temp power => exact ⟨s, exec_sample_off h.1 temp power, h⟩
    | _ => exact absurd rfl hact

end Supply

/-- Settles O14: a shutdown locks the module off, which no command but PWR_EN's fall ends. -/
theorem supplyFollowsVinAndPwrEn : Obligations.SupplyFollowsVinAndPwrEn := by
  refine ⟨?shut, ?locked, ?fall, ?rise, ?warning⟩
  case shut =>
    intro s c hc hon
    have hshut : exec c s = .next (answer s (vinShut s)) := by rcases hc with rfl | rfl <;> rfl
    rw [vinShut_on hon] at hshut
    exact ⟨_, hshut, rfl, rfl, rfl⟩
  case locked =>
    intro s t c hoff hlocked hc hexec
    obtain ⟨u, hu, hkept⟩ := LockedOff.stays ⟨hoff, hlocked⟩ hc
    cases hu.symm.trans hexec
    exact hkept
  case fall => exact fun s => ⟨_, rfl, rfl, rfl, rfl⟩
  case rise =>
    intro s hoff hfree
    exact ⟨_, congrArg (fun t => Host.Outcome.next (answer s t)) (powerUp_on hoff hfree), rfl, rfl, rfl, rfl⟩
  case warning =>
    intro s mv hl
    refine plain_eq hl ?_
    dsimp only
    split
    · rfl
    · split <;> rfl

/-! ### The start (R393 to R397, R421) -/

section Start
variable (s : State) (b : BootInputs)

/-- The card's entries go into the tiers' tables, where the card is known (Table 6.8); no content of the tiers changes. -/
theorem cardTables_or_not (known : Bool) :
    ∃ t : Tiers, (if known = true then cardTables s else s) = { s with tiers := t } ∧ t.mem = s.tiers.mem := by
  cases known with
  | true => exact cardTables_spec s
  | false => exact ⟨s.tiers, rfl, rfl⟩

/-- The parts of the machine that the start sets for good: what it does to cores and ports does not reach them. -/
structure SameParts (s t : State) : Prop where
  card : t.card = s.card
  glb : t.glb = s.glb
  bsc : t.bsc = s.bsc
  pwr : t.pwr = s.pwr
  tiers : t.tiers = s.tiers

theorem SameParts.trans {s t u : State} (h : SameParts s t) (k : SameParts t u) : SameParts s u :=
  ⟨k.card.trans h.card, k.glb.trans h.glb, k.bsc.trans h.bsc, k.pwr.trans h.pwr, k.tiers.trans h.tiers⟩

theorem forAll_sameParts {l : List Nat} {f : State → Nat → State} (hf : ∀ u a, SameParts u (f u a)) : SameParts s (forAll l s f) :=
  forAll_keeps (SameParts s) l s f ⟨rfl, rfl, rfl, rfl, rfl⟩ fun _ _ _ h => h.trans (hf _ _)

theorem updCore_sameParts (c : Nat) (f : Core → Core) : SameParts s (updCore s c f) := ⟨rfl, rfl, rfl, rfl, rfl⟩

theorem updPort_sameParts (p : Nat) (f : Port → Port) : SameParts s (updPort s p f) := ⟨rfl, rfl, rfl, rfl, rfl⟩

/-- What the start sets: the card's fields, GLB and BSC by the card's state, and the phase; the tiers keep their contents. -/
theorem boot_spec : (boot s b).card = cardFields s.eeprom (cardState s.eeprom b) ∧
    (boot s b).bsc.fwFloor = (cardFields s.eeprom (cardState s.eeprom b)).svnMin ∧
    ((boot s b).bsc.stage = if cardState s.eeprom b = 0 then 1 else 5) ∧
    (boot s b).glb.unconfigured = !(decide (cardState s.eeprom b = 0)) ∧ (boot s b).glb.stewardB = b.stewardSelB ∧
    (boot s b).pwr = { s.pwr with phase := .running } ∧ (boot s b).tiers.mem = s.tiers.mem := by
  unfold boot
  extract_lets st card known good tiers u v w y z
  obtain ⟨t, ht, hmem⟩ : ∃ t : Tiers, v = { u with tiers := t } ∧ t.mem = u.tiers.mem := cardTables_or_not u known
  have hz : SameParts y z := forAll_sameParts y fun t c => updCore_sameParts t c _
  have hparts : SameParts y (if good = true then forAll (List.range 16) z fun s p => updPort s p (fun x => { x with st := 1 }) else z) := by
    split
    · exact hz.trans (forAll_sameParts z fun t p => updPort_sameParts t p _)
    · exact hz
  obtain ⟨hcard, hglb, hbsc, hpwr, htiers⟩ := hparts
  rw [hcard, hglb, hbsc, hpwr, htiers]
  have hstage : (if good = true then (1 : BitVec 3) else 5) = if st = 0 then 1 else 5 := by simp only [good, decide_eq_true_eq]
  simp only [y, w, ht, updPwr, updBsc]
  exact ⟨rfl, rfl, hstage, rfl, rfl, rfl, hmem⟩

theorem release_now (hphase : s.pwr.phase = .inReset) (hpin : s.pwr.modRstLow = false) (htrip : s.pwr.tripped = false) :
    release s b = boot s b := if_pos ⟨hphase, hpin, htrip⟩

end Start

/-- Settles O15: the pin's rise is its definition, the start as the lemma on it says, and a release that is held back does nothing. -/
theorem resetReleaseStartsTheModule : Obligations.ResetReleaseStartsTheModule := by
  refine ⟨fun s => rfl, ?start, ?held⟩
  case start =>
    intro s b hphase hpin htrip
    obtain ⟨hcard, hfloor, hstage, hunconf, hstrap, hpwr, hmem⟩ := boot_spec s b
    have hlive : live (boot s b) = true := by rw [live, hpwr]; rfl
    have hcause : (boot s b).pwr.cause = s.pwr.cause := by rw [hpwr]
    exact ⟨_, congrArg (fun t => Host.Outcome.next (answer s t)) (release_now s b hphase hpin htrip), hlive, hcard,
      hfloor.trans (congrArg Card.svnMin hcard).symm, hunconf, hstrap, hcause, hmem, hstage⟩
  case held => exact fun s b h => congrArg (fun t => Host.Outcome.next (answer s t)) (release_not b (.inr h))

/-! ### Sensor samples (R432, Table 15.9) -/

section Samples
variable {s : State} {k : Fin 26} {temp : BitVec 16} {power : BitVec 12}

/-- A sample below the trip level is recorded, and its sensor is no more at its trip level. -/
theorem takeSample_below (h : temp.toInt < tripLevel k) : takeSample s k temp power = { s with pwr := { s.pwr with
    temp := tset 0 s.pwr.temp k temp, sampled := orBit s.pwr.sampled k, tempMax := noteMax s.pwr.tempMax k temp, power := power
    powerMax := if s.pwr.powerMax.toNat < power.toNat then power else s.pwr.powerMax
    energy := if k.val = 25 then s.pwr.energy + power.toNat else s.pwr.energy
    hot := clrBit s.pwr.hot k } } := by
  have hhot : (if tripLevel k ≤ temp.toInt then orBit s.pwr.hot k else clrBit s.pwr.hot k) = clrBit s.pwr.hot k := if_neg h.not_ge
  rw [takeSample, updPwr, hhot]

theorem sample_below (h : temp.toInt < tripLevel k) : sample s k temp power = thermalPolicy (takeSample s k temp power) :=
  if_neg (by simp [h.not_ge])

theorem resetSample_below (h : temp.toInt < tripLevel k) : resetSample s k temp power = policyStatus (takeSample s k temp power) :=
  if_neg (by simp [h.not_ge])

theorem setPwrStatus_bit (u : State) : bit (setPwrStatus u 5).pwr.status 5 = true := orBit_same _ _ (by decide)

/-- HOT and CAP_HIT leave the readings, so CRIT is set on the readings as they stand. -/
theorem policyStatus_crit {u : State} (h : atCrit u = true) : bit (policyStatus u).pwr.status 5 = true := by
  unfold policyStatus
  extract_lets v w
  have hw : atCrit w = true := by
    have hv : atCrit v = atCrit u := by unfold v; split <;> rfl
    have hwv : atCrit w = atCrit v := by unfold w; split <;> rfl
    rw [hwv, hv, h]
  rw [if_pos hw]
  exact setPwrStatus_bit w

theorem thermalPolicy_crit {u : State} (h : atCrit u = true) : bit (thermalPolicy u).pwr.status 5 = true := by
  unfold thermalPolicy
  dsimp only
  split
  · exact requestStretch_crit _ _ (policyStatus_crit h)
  · exact policyStatus_crit h

end Samples

/-- Settles O16: a sample below its sensor's trip level is recorded, and then the policy acts on it; CRIT is what THERM_ALERT_N shows. -/
theorem aSensorSampleIsRecorded : Obligations.ASensorSampleIsRecorded := by
  rintro s k temp power _ hbelow rfl
  refine ⟨fun hl => ?_, fun hreset => ?_, fun u hu => ?_⟩
  · exact (exec_sample_live hl temp power).trans (done_settle hl ((sample_below hbelow).trans (congrArg _ (takeSample_below hbelow))))
  · rw [exec_sample_inReset hreset, resetSample_below hbelow, takeSample_below hbelow]
  · exact ⟨thermalPolicy_crit hu, by rw [alertLevel, thermalPolicy_crit hu]; rfl⟩

/-! ### Idle ports (R431) -/

theorem wakePort_idle {s : State} {p : Nat} (h : (portAt s p).idle = 1) : wakePort s p = { s with
    fab := { s.fab with ports := tset {} s.fab.ports p { portAt s p with idle := 0 } }
    pwr := { s.pwr with wakes := satAdd s.pwr.wakes 1 } } := if_pos h

theorem wakePort_awake {s : State} {p : Nat} (h : (portAt s p).idle ≠ 1) : wakePort s p = s := if_neg h

/-- Settles O18: a port enters I2 by the test of its command, and wakes from it alone. -/
theorem idlePortsSleepAndWake : Obligations.IdlePortsSleepAndWake :=
  ⟨fun _ _ hl => plain_eq hl rfl, fun _ _ hl h => plain_eq hl (wakePort_idle h), fun _ _ hl h => plain_eq hl (wakePort_awake h)⟩

end Sys2Proof.Machine

/-! PROOFS for fault detection and replay (13): what the commit point decides of each context. -/

namespace Sys2Proof.Machine

/-! ### The commit point (R366, R368, R372) -/

section CommitPoint
variable (s : State)

theorem withheldBy_iff (k : Nat) : withheldBy s k = true ↔ s.tmp.lost = true ∨ ∃ m ∈ (ctxAt s k).marks, m.1 = s.tmp.lastT := by
  simp [withheldBy]

theorem forAll_commitCtx_tmp (good : List Nat) : (forAll good s commitCtx).tmp = s.tmp := forAll_eq State.tmp good s _ fun _ _ => rfl

theorem forAll_commitCtx_saf (good : List Nat) :
    (forAll good s commitCtx).saf = { s.saf with committed := s.saf.committed + BitVec.ofNat 64 good.length } := by
  induction good generalizing s with
  | nil => simp [forAll]
  | cons k good ih =>
    have hcount : s.saf.committed + 1 + BitVec.ofNat 64 good.length = s.saf.committed + BitVec.ofNat 64 (k :: good).length := by
      rw [List.length_cons, BitVec.ofNat_add, BitVec.add_assoc, BitVec.add_comm 1]; rfl
    calc (forAll (k :: good) s commitCtx).saf
      _ = { s.saf with committed := s.saf.committed + 1 + BitVec.ofNat 64 good.length } := ih (commitCtx s k)
      _ = _ := by rw [hcount]

/-- A commit adds to the commits of its context and takes none from any. -/
theorem mem_commits_commitCtx {s : State} {k j : Nat} {t : W64} (h : j = k ∧ t = s.tmp.lastT ∨ t ∈ (ctxAt s j).commits) :
    t ∈ (ctxAt (commitCtx s k) j).commits := by
  rw [commitCtx_at]
  rcases h with ⟨rfl, rfl⟩ | h
  · rw [if_pos rfl]; exact List.mem_cons_self
  · split
    next hj => subst hj; exact List.mem_cons_of_mem _ h
    next => exact h

theorem mem_commits_forAll (good : List Nat) {k : Nat} {t : W64} (h : t ∈ (ctxAt s k).commits) :
    t ∈ (ctxAt (forAll good s commitCtx) k).commits :=
  forAll_keeps (fun u => t ∈ (ctxAt u k).commits) good s _ h fun _ _ _ hu => mem_commits_commitCtx (.inr hu)

theorem lastT_mem_commits (good : List Nat) : ∀ k ∈ good, s.tmp.lastT ∈ (ctxAt (forAll good s commitCtx) k).commits := by
  induction good generalizing s with
  | nil => exact fun k hk => absurd hk List.not_mem_nil
  | cons a good ih =>
    intro k hk
    rcases List.mem_cons.mp hk with rfl | hk
    · exact mem_commits_forAll (commitCtx s k) good (mem_commits_commitCtx (.inl ⟨rfl, rfl⟩))
    · exact ih (commitCtx s a) k hk

/-- Without PERSIST_EXIT a persistent fault is raised and the module stays in its domain (R372). -/
theorem persistent_counts {s : State} (k q : Nat) (h : bit s.saf.ctrl 2 = false) :
    Counts s (persistent s k q) ∧ (persistent s k q).saf.ctrl = s.saf.ctrl := by
  unfold persistent
  extract_lets code u
  have hctrl : u.saf.ctrl = s.saf.ctrl := raiseAt_ctrl _ _ _ _ _ _ _ _
  rw [if_neg (by simp [hctrl, h])]
  exact ⟨raiseAt_counts _ _ _ _ _ _ _ _, hctrl⟩

theorem withholdCtx_counts {s : State} (k : Nat) (h : bit s.saf.ctrl 2 = false) :
    (withholdCtx s k).saf.withheld = satAdd s.saf.withheld 1 ∧ (withholdCtx s k).saf.lastWh = s.tmp.lastT ∧
    (withholdCtx s k).saf.committed = s.saf.committed ∧ bit (withholdCtx s k).saf.status 1 = true := by
  unfold withholdCtx
  extract_lets t u v w runs old new
  have hsaf : v.saf = u.saf := (postBoth_saf _ _ _ _ _).1
  have hctrl : w.saf.ctrl = s.saf.ctrl := by show v.saf.ctrl = s.saf.ctrl; rw [hsaf]; rfl
  have hraised := forAll_keeps (fun x => Counts u x ∧ x.saf.ctrl = s.saf.ctrl) new (updCtx w k fun c => { c with persisted := new ++ old })
    (fun s q => persistent s k q) ⟨Counts.of_saf hsaf, hctrl⟩ (by
      rintro x q - ⟨hcounts, hctrl⟩
      obtain ⟨hmore, hsame⟩ := persistent_counts k q (hctrl ▸ h)
      exact ⟨hcounts.trans hmore, hsame.trans hctrl⟩)
  obtain ⟨⟨hwithheld, hlast, hcommitted, hstatus⟩, -⟩ := hraised
  exact ⟨hwithheld, hlast, hcommitted, hstatus 1 (orBit_same _ _ (by decide))⟩

end CommitPoint

/-- Settles O24: the point is its definition where one is due, and each commit and each withholding is counted as the lemmas above say. -/
theorem theCommitPointDecides : Obligations.TheCommitPointDecides := by
  refine ⟨fun s hl hdue => done_settle hl (if_pos hdue), fun s hl hdue q => done_eq hl (if_neg (by simp [hdue])) q, withheldBy_iff, ?_,
    fun s k => withholdCtx_counts k⟩
  exact fun s good => ⟨forAll_commitCtx_saf s good, forAll_commitCtx_tmp s good, lastT_mem_commits s good⟩

/-! ### OPPOSE frames (R380 to R382, Table 13.4) -/

section Opposition
variable {s : State} {p : PortId} {f : Flit256}

theorem opposeArrive_sig (h : bits f 64 8 = 0) (hpeer : fromPeer s p = true) : opposeArrive s p f = sigArrive s f := by
  simp only [opposeArrive, h, hpeer, if_true]

theorem opposeArrive_log (h : bits f 64 8 = 1) (hpeer : fromPeer s p = true) : opposeArrive s p f = logArrive s f := by
  simp only [opposeArrive, h, hpeer, if_true]

theorem opposeArrive_mirror (h : bits f 64 8 = 2) (hpeer : fromPeer s p = true) :
    opposeArrive s p f = if following s = true then mirrorArrive s f else s := by
  simp only [opposeArrive, h, hpeer, Bool.true_and]

theorem opposeArrive_stranger (h : bits f 64 8 ≤ 2) (hpeer : fromPeer s p = false) : opposeArrive s p f = s := by
  have hkind : bits f 64 8 = 0 ∨ bits f 64 8 = 1 ∨ bits f 64 8 = 2 := by omega
  rcases hkind with h | h | h <;> simp [opposeArrive, h, hpeer]

theorem oppActive_of_fromPeer (h : fromPeer s p = true) : s.saf.oppActive = true := by
  simp only [fromPeer, Bool.and_eq_true] at h
  exact h.1.2

/-- The collection a SIG frame goes into: a new count begins a new one. -/
def sigCollection (x : Saf) (f : Flit256) : Saf :=
  if x.peerCount = opCount f then x else { x with peerCount := opCount f, peerParts := 0, peerSigs := [], peerServ := none }

/-- A SIG frame collected. -/
def sigCollected (x : Saf) (f : Flit256) : Saf := { x with
  peerSigs := (List.range 32).foldl (fun t i => tset 0 t (32 * opPart f + i) (opVal f i)) x.peerSigs
  peerServ := if opPart f = 0 then some (BitVec.ofNat 32 (opArg f)) else x.peerServ
  peerParts := x.peerParts ||| (opPart f + 1) }

theorem sigCollection_oppActive (x : Saf) : (sigCollection x f).oppActive = x.oppActive := by
  unfold sigCollection; split <;> rfl

theorem sigCollected_oppActive (x : Saf) : (sigCollected x f).oppActive = x.oppActive := by
  unfold sigCollected; rfl

/-- A frame of a collection not yet compared is collected, and then the signatures are compared if both sides' are there. -/
theorem sigArrive_collects (hpart : opPart f < 2) (hopen : (sigCollection s.saf f).peerParts ≠ 4) :
    sigArrive s f = compareSigs { s with saf := sigCollected (sigCollection s.saf f) f } := by
  unfold sigArrive
  extract_lets part u v
  have hu : u = { s with saf := sigCollection s.saf f } := by unfold u sigCollection; split <;> rfl
  have hv : v = { s with saf := sigCollected (sigCollection s.saf f) f } := by unfold v; rw [hu]; rfl
  rw [if_neg hpart.not_ge, if_neg (by rw [hu]; exact hopen), hv]

end Opposition

section Comparison
variable (s : State)

/-- The numbers of the cores whose signatures differ. -/
def sigDiff (x : Saf) : List Nat := (List.range 64).filter (fun n => decide (x.ownSigs.getD n 0 ≠ tget 0 x.peerSigs n))

/-- The fault of a difference, with the named core's log frozen and sent. -/
def sigsDiffer (core : Nat) : State :=
  let s := raiseModule s 0x20 (core * 2 ^ 38)
  let s := updSaf s (fun x => { x with oppMismatch := satAdd x.oppMismatch 1 })
  if s.saf.frozen then s
  else
    let l := sigLog s core
    sendLog (updSaf s (fun x => { x with
      frozen := true, oppCore := core, oppLog := l.1, oppEng := l.2, oppFirstCnt := x.sigCount, peerLog := [], peerChunks := 0 })) core

/-- The comparison done. -/
def sigsCompared (x : Saf) : Saf := { x with peerParts := 4, sigDone := some x.sigCount }

variable {s} {y : Saf}

theorem compareSigs_waits (h : y.sigSent = false ∨ y.peerParts ≠ 3 ∨ y.peerCount ≠ y.sigCount) :
    compareSigs { s with saf := y } = { s with saf := y } := by
  refine if_neg ?_
  rcases h with h | h | h <;> simp [h]

theorem compareSigs_eq (hopp : y.oppActive = true) (hsent : y.sigSent = true) (hparts : y.peerParts = 3) (hcount : y.peerCount = y.sigCount) :
    compareSigs { s with saf := y } = if sigDiff y = [] ∧ y.peerServ = some y.ownServ then { s with saf := sigsCompared y }
      else sigsDiffer { s with saf := sigsCompared y } ((sigDiff y).headD 0) := by
  have hready : (y.oppActive && y.sigSent && decide (y.peerParts = 3) && decide (y.peerCount = y.sigCount)) = true := by
    simp [hopp, hsent, hparts, hcount]
  exact (if_pos hready).trans (if_congr (by simp [sigDiff]) rfl rfl)

theorem sigDiff_eq_nil {x : Saf} : sigDiff x = [] ↔ ∀ n < 64, x.ownSigs.getD n 0 = tget 0 x.peerSigs n := by
  simp [sigDiff, List.filter_eq_nil_iff]

/-- A difference is a fault of scope module, and freezes the log of the core it names. -/
theorem sigsDiffer_spec (core : Nat) (h : s.saf.frozen = false) :
    (sigsDiffer s core).saf.frozen = true ∧ (sigsDiffer s core).saf.oppCore = core ∧ (sigsDiffer s core).saf.oppFirstCnt = s.saf.sigCount ∧
    (sigsDiffer s core).saf.oppMismatch = satAdd s.saf.oppMismatch 1 ∧
    (∃ e : FlogEnt, (sigsDiffer s core).saf.reports = s.saf.reports ++ [e] ∧ e.code = 0x20 ∧ e.valid = true) ∧
    ∀ k ∈ moduleScope s, ∀ n ∈ ctxCounts s k (attributed s), ∃ m ∈ (ctxAt (sigsDiffer s core) k).marks, m.1 = n := by
  unfold sigsDiffer
  extract_lets v w l
  obtain ⟨-, hmarks, e, hreports, hcode, hvalid⟩ :=
    raiseAt_marks s 0x20 (moduleScope s) (fun k => moduleScope_used) (attributed s) 3 0 0 (core * 2 ^ 38)
  obtain ⟨status, flog, next, wrapped, faults, reports, hv⟩ := raiseAt_saf s 0x20 (moduleScope s) (attributed s) 3 0 0 (core * 2 ^ 38)
  change v.saf = _ at hv
  have hfrozen : w.saf.frozen = false := by show v.saf.frozen = false; rw [hv]; exact h
  have hcount : v.saf.sigCount = s.saf.sigCount := by rw [hv]
  have hmismatch : v.saf.oppMismatch = s.saf.oppMismatch := by rw [hv]
  rw [if_neg (Bool.eq_false_iff.mp hfrozen)]
  obtain ⟨hsent, hctxs, -⟩ := sendLog_spec (updSaf w fun x => { x with
    frozen := true, oppCore := core, oppLog := l.1, oppEng := l.2, oppFirstCnt := x.sigCount, peerLog := [], peerChunks := 0 }) core
  rw [hsent]
  refine ⟨rfl, rfl, hcount, congrArg (satAdd · 1) hmismatch, ⟨e, hreports, hcode, hvalid⟩, ?_⟩
  intro k hk n hn
  have hraised : ctxAt (sendLog (updSaf w _) core) k = ctxAt v k := ctxAt_of (hctxs.trans (by rw [updSaf_ctxs, updSaf_ctxs])) k
  rw [hraised]
  exact hmarks k hk n hn

end Comparison

section LogsAndItems
variable {s : State} {f : Flit256}

theorem logArrive_ignores (h : s.saf.frozen = false ∨ opPart f ≠ s.saf.oppCore ∨ opCount f ≠ s.saf.oppFirstCnt ∨ 128 ≤ opIndex f) :
    logArrive s f = s := if_pos (by simpa using h)

theorem logArrive_takes (hfrozen : s.saf.frozen = true) (hcore : opPart f = s.saf.oppCore) (hcount : opCount f = s.saf.oppFirstCnt)
    (hindex : opIndex f < 128) {x : Saf} (hx : x = { s.saf with
      peerLog := (List.range 32).foldl (fun t i => tset 0 t (32 * opIndex f + i) (opVal f i)) s.saf.peerLog
      peerChunks := s.saf.peerChunks + 1 }) :
    logArrive s f = { s with saf := if x.peerChunks = 128 then { x with oppFirst := oppFirstWord x } else x } := by
  subst hx
  refine (if_neg (by simp [hfrozen, hcore, hcount, hindex])).trans ?_
  by_cases hlast : s.saf.peerChunks + 1 = 128
  · simp only [updSaf, hlast, if_true]
  · simp only [updSaf, hlast, if_false]

theorem mirrorArrive_on {c k : Nat} (hc : physicalOf s (opItem f / 2 ^ 56 % 64) = some c) (hk : ctxOfCore s c = some k) :
    (opItem f / 2 ^ 62 = 0 → mirrorArrive s f =
      mirrorWrite s k c (opItem f / 2 ^ 56 % 64) (opItem f / 2 ^ 39 % 2 ^ 17) (leBytes 64 (bits f 192 512))) ∧
    (opItem f / 2 ^ 62 = 3 → mirrorArrive s f = s) := by
  constructor <;> intro h <;> simp only [mirrorArrive, hc, hk, h]

end LogsAndItems

/-- Settles O47: each kind of frame by its own definition; a SIG frame by what the comparison finds. -/
theorem oppositionFramesAreCompared : Obligations.OppositionFramesAreCompared := by
  refine ⟨fun s p f => opposeArrive_stranger, ?sig, ?log, ?mirror⟩
  case sig =>
    intro s p f x y hkind hpeer hpart hx hopen hy
    have hx : x = sigCollection s.saf f := hx
    have hy : y = sigCollected (sigCollection s.saf f) f := by rw [← hx]; exact hy
    have harrive : opposeArrive s p f = compareSigs { s with saf := y } := by
      rw [opposeArrive_sig hkind hpeer, sigArrive_collects hpart (hx ▸ hopen), hy]
    have hopp : y.oppActive = true := by
      rw [hy, sigCollected_oppActive, sigCollection_oppActive, oppActive_of_fromPeer hpeer]
    clear hy
    refine ⟨fun h => harrive.trans (compareSigs_waits h), fun hsent hparts hcount => ?ready⟩
    have hcompare := compareSigs_eq (s := s) hopp hsent hparts hcount
    refine ⟨fun hsame hserv => ?same, fun core hcore hdiff hfrozen t ht => ?differ⟩
    case same => exact harrive.trans (hcompare.trans (if_pos ⟨sigDiff_eq_nil.mpr hsame, hserv⟩))
    case differ =>
      have hnot : ¬ (sigDiff y = [] ∧ y.peerServ = some y.ownServ) := by
        rintro ⟨hnil, hserv⟩
        rcases hdiff with ⟨n, hn, hne⟩ | hne
        · exact hne (sigDiff_eq_nil.mp hnil n hn)
        · exact hne hserv
      rw [harrive, hcompare, if_neg hnot] at ht
      subst ht hcore
      exact sigsDiffer_spec (s := { s with saf := sigsCompared y }) ((sigDiff y).headD 0) hfrozen
  case log =>
    intro s p f x hkind hpeer hx
    have harrive := opposeArrive_log hkind hpeer
    exact ⟨fun h => harrive.trans (logArrive_ignores h), fun hfrozen hcore hcount hindex =>
      harrive.trans (logArrive_takes hfrozen hcore hcount hindex hx)⟩
  case mirror =>
    intro s p f hkind hpeer
    have harrive := opposeArrive_mirror hkind hpeer
    refine ⟨fun h => harrive.trans (if_neg (by simp [h])), fun h c k hc hk => ?_⟩
    have hon := harrive.trans (if_pos h)
    obtain ⟨hline, hother⟩ := mirrorArrive_on hc hk
    exact ⟨fun hitem => hon.trans (hline hitem), fun hitem => hon.trans (hother hitem)⟩

end Sys2Proof.Machine

/-! PROOFS for identity and measured start (14): the mailbox and firmware. -/

namespace Sys2Proof.Machine

/-! ### What a write of BSC_CMD meets (R397, R414) -/

section MailStart
variable {s : State} {f : FnId} {cmd : W32} {run : State → State}

theorem mbStart_disabled (h : fnEnabled s f = false) : mbStart s f cmd run = s := if_pos (by simp [h])

theorem mbStart_enabled (h : fnEnabled s f = true) : mbStart s f cmd run =
    if bit (fnAt s f).mbResult 31 = true then setFn s f { fnAt s f with mbResult := 0x80000009 }
    else if s.glb.unconfigured = true ∧ bits cmd 24 8 ≠ 5 then mbDone s f 3
    else if bit cmd 19 = true ∨ bits cmd 0 16 ≠ 0 then mbDone s f 1
    else run s := by
  refine (if_neg (by simp [h])).trans ?_
  simp only [mbBusy, Bool.and_eq_true, decide_eq_true_eq]
  rfl

theorem mbStart_busy (h : fnEnabled s f = true) (hbusy : bit (fnAt s f).mbResult 31 = true) :
    mbStart s f cmd run = setFn s f { fnAt s f with mbResult := 0x80000009 } := by rw [mbStart_enabled h, if_pos hbusy]

theorem mbStart_unconfigured (h : fnEnabled s f = true) (hfree : bit (fnAt s f).mbResult 31 = false) (hunconf : s.glb.unconfigured = true)
    (hop : bits cmd 24 8 ≠ 5) : mbStart s f cmd run = mbDone s f 3 := by
  rw [mbStart_enabled h, if_neg (Bool.eq_false_iff.mp hfree), if_pos ⟨hunconf, hop⟩]

theorem mbStart_configured (h : fnEnabled s f = true) (hfree : bit (fnAt s f).mbResult 31 = false)
    (hconf : s.glb.unconfigured = false ∨ bits cmd 24 8 = 5) :
    mbStart s f cmd run = if bit cmd 19 = true ∨ bits cmd 0 16 ≠ 0 then mbDone s f 1 else run s := by
  rw [mbStart_enabled h, if_neg (Bool.eq_false_iff.mp hfree), if_neg]
  rintro ⟨hunconf, hop⟩
  rcases hconf with hconf | hconf
  · simp [hconf] at hunconf
  · exact hop hconf

end MailStart

/-! ### FW_DELIVER (R399, R400) -/

section Deliver
variable {s : State} {f : FnId}

theorem mbFwDeliver_early (h : s.bsc.stage = 0) : mbFwDeliver s f = mbDone s f 4 := if_pos h

theorem mbFwDeliver_notSteward (hstage : s.bsc.stage ≠ 0) (ho : isSteward s f = false) : mbFwDeliver s f = mbDone s f 2 :=
  (if_neg hstage).trans (if_pos (by simp [ho]))

theorem mbFwDeliver_steward (ho : isSteward s f = true) (hstage : s.bsc.stage ≠ 0) : mbFwDeliver s f =
    if s.bsc.stage = 3 then mbDone s f 4
    else if mbAddr (fnAt s f) % 4096 ≠ 0 ∨ (fnAt s f).mbLen.toNat < 4608 ∨ 25170432 < (fnAt s f).mbLen.toNat then mbDone s f 1
    else { setFn s f { fnAt s f with mbResult := 0x80000000 } with bsc := { s.bsc with
      stage := 2, fwBusy := some (f, BitVec.ofNat 64 (mbAddr (fnAt s f)), (fnAt s f).mbLen.toNat) } } := by
  have hbusy : (if h : f.val < 18 then some ((⟨f, h⟩ : FnId), BitVec.ofNat 64 (mbAddr (fnAt s f)), (fnAt s f).mbLen.toNat) else none) =
      some (f, BitVec.ofNat 64 (mbAddr (fnAt s f)), (fnAt s f).mbLen.toNat) := dif_pos f.isLt
  refine (if_neg hstage).trans ((if_neg (by simp [ho])).trans ?_)
  rw [← hbusy]
  rfl

theorem mbFwDeliver_released (ho : isSteward s f = true) (h : s.bsc.stage = 3) : mbFwDeliver s f = mbDone s f 4 := by
  rw [mbFwDeliver_steward ho (by simp [h]), if_pos h]

end Deliver

/-! ### Keys (R405) -/

section Keys
variable {s : State} {f : FnId} {cmd : W32}

theorem mayKey_false_of {k : Nat}
    (h : (ctxAt s k).st = .unbound ∨ (isSteward s f = false ∧ (ctxFn s k ≠ some f.val ∨ (ctxAt s k).locked = true))) :
    mayKey s f k = false := by
  rcases h with h | ⟨ho, h | h⟩ <;> simp [mayKey, *]

theorem mbKeySet_refused (h : mayKey s f (bits cmd 20 4) = false) (ok : Bool) : mbKeySet s f cmd ok = mbDone s f 2 :=
  if_pos (by simp [mbCtx, h])

theorem mbKeySet_noDma (h : mayKey s f (mbCtx cmd) = true) (halign : mbAddr (fnAt s f) % 64 = 0) : mbKeySet s f cmd false = mbDone s f 5 := by
  simp only [mbKeySet, h, halign, ne_eq, not_true, Bool.not_true, Bool.not_false, Bool.false_eq_true, if_false, if_true]

theorem mbKeySet_badRecord (h : mayKey s f (mbCtx cmd) = true) (halign : mbAddr (fnAt s f) % 64 = 0)
    (hrec : keyRecord (readBytes (hostMem s f) (mbAddr (fnAt s f)) 512) = none) : mbKeySet s f cmd true = mbDone s f 1 := by
  simp only [mbKeySet, h, halign, hrec, ne_eq, not_true, Bool.not_true, Bool.false_eq_true, if_false]

theorem mbKeySet_goodRecord (h : mayKey s f (mbCtx cmd) = true) (halign : mbAddr (fnAt s f) % 64 = 0) {key : PubKey}
    (hrec : keyRecord (readBytes (hostMem s f) (mbAddr (fnAt s f)) 512) = some key) :
    mbKeySet s f cmd true = mbDone (setKey s (mbCtx cmd) (mbSlot cmd) (some key)) f 0 := by
  simp only [mbKeySet, h, halign, hrec, ne_eq, not_true, Bool.not_true, Bool.false_eq_true, if_false]

theorem mbKeyClear_refused (h : mayKey s f (bits cmd 20 4) = false) : mbKeyClear s f cmd = mbDone s f 2 := if_neg (by simp [mbCtx, h])

theorem mbKeyClear_allowed (h : mayKey s f (bits cmd 20 4) = true) :
    mbKeyClear s f cmd = mbDone (setKey s (bits cmd 20 4) (bits cmd 16 3) none) f 0 := if_pos h

theorem mbKeyLock_allowed (ho : isSteward s f = true) (hk : (ctxAt s (bits cmd 20 4)).st ≠ .unbound) :
    mbKeyLock s f cmd = mbDone (setCtx s (bits cmd 20 4) { ctxAt s (bits cmd 20 4) with locked := true }) f 0 :=
  if_pos (by simp [mbCtx, ho, hk])

theorem mbKeyLock_refused (h : isSteward s f = false ∨ (ctxAt s (bits cmd 20 4)).st = .unbound) : mbKeyLock s f cmd = mbDone s f 2 :=
  if_neg (by rcases h with h | h <;> simp [mbCtx, h])

end Keys

/-! ### CARD_READ (R397) -/

section CardRead
variable {s : State} {f : FnId}

theorem mbCardRead_vf (h : fnIsPf f = false) (ok : Bool) : mbCardRead s f ok = mbDone s f 2 := if_pos (by simp [h])

theorem mbCardRead_copies (hpf : fnIsPf f = true) (halign : mbAddr (fnAt s f) % 64 = 0) (hcard : s.card.cardState ≠ 1) :
    mbCardRead s f true =
      mbDone (setHostMem s f (writeBytes (hostMem s f) (mbAddr (fnAt s f)) (readBytes s.eeprom 0 16384))) f 0 := by
  refine (if_neg (by simp [hpf])).trans ((if_neg (by simp [halign])).trans ((if_neg (by simp)).trans ?_))
  unfold cardCopy
  dsimp only
  rw [if_neg hcard, if_neg hcard]

end CardRead

/-! ### Images (R399 to R401, Table 14.3) -/

section Release
variable (s : State)

theorem rearm_svc (c t : Nat) : (rearm s c t).svc = s.svc := by
  unfold rearm
  split
  · rfl
  · split <;> rfl

theorem rearmAll_svc : (rearmAll s).svc = s.svc :=
  forAll_eq State.svc _ _ _ fun u _ => forAll_eq State.svc _ u _ fun v _ => rearm_svc v _ _

theorem loadRoutes_svc : (loadRoutes s).svc = s.svc := by
  unfold loadRoutes
  extract_lets lv table u
  have hu : u.svc = s.svc := forAll_eq State.svc _ _ _ fun _ _ => updRouter_svc _ _ _
  exact (forAll_eq State.svc _ _ _ fun _ _ => updRouter_svc _ _ _).trans hu

theorem beginOpening_svc (p : Nat) : (beginOpening s p).svc = s.svc := by
  unfold beginOpening
  split <;> rfl

theorem openingCheck_svc : (openingCheck s).svc = s.svc := by
  unfold openingCheck
  split
  · exact (postSteward_calm _ _ _ _ _ _).svc
  · rfl

end Release

section Verify
variable {s : State} {f : FnId} {a : W64} {n : Nat}

theorem fwVerify_idle (h : s.bsc.fwBusy = none) (ok : Bool) : fwVerify s ok = s := by simp only [fwVerify, h]

theorem fwVerify_fails (h : s.bsc.fwBusy = some (f, a, n)) {ok : Bool} {st : Nat}
    (hst : st = if ok then fwStatus s (readBytes (hostMem s f) a.toNat n) else 5) (hbad : st ≠ 0) : fwVerify s ok = fwFail s f st := by
  cases ok with
  | false => subst hst; simp only [fwVerify, h, Bool.not_false, if_true, Bool.false_eq_true, if_false]
  | true =>
    simp only [if_true] at hst
    simp only [fwVerify, h, Bool.not_true, Bool.false_eq_true, if_false, ← hst]

theorem fwVerify_passes (h : s.bsc.fwBusy = some (f, a, n)) (hgood : fwStatus s (readBytes (hostMem s f) a.toNat n) = 0) :
    fwVerify s true = fwRelease s f (readBytes (hostMem s f) a.toNat n) := by
  simp only [fwVerify, h, hgood, Bool.not_true, Bool.false_eq_true, if_false]

theorem fwRelease_released (img : List Byte) : (fwRelease s f img).svc.released = true := by
  unfold fwRelease
  extract_lets u v w
  have hw : w.svc = u.svc := by
    have hbegun : (forAll (List.range 16) (loadRoutes (rearmAll v)) beginOpening).svc = (loadRoutes (rearmAll v)).svc :=
      forAll_eq State.svc _ _ _ beginOpening_svc
    exact (openingCheck_svc _).trans (hbegun.trans ((loadRoutes_svc _).trans (rearmAll_svc v)))
  exact congrArg Svc.released hw

end Verify

/-- Settles O58: a mailbox command by what its start lets through, then each command and each image by its checks in order. -/
theorem mailboxAndFirmware : Obligations.MailboxAndFirmware := by
  refine ⟨?mail, ?deliver, ?keys, ?card, ?image, ?floor⟩
  case mail =>
    intro s i f cmd op run hmail hl
    obtain ⟨g, hexec, hrun⟩ := mail_shape s i f cmd op run hmail
    rw [hexec]
    refine ⟨fun h => plain_eq hl (mbStart_disabled h), fun h => ⟨fun hbusy => plain_eq hl (mbStart_busy h hbusy), fun hfree =>
      ⟨fun hunconf hop => plain_eq hl (mbStart_unconfigured h hfree hunconf hop), fun hconf => ?_⟩⟩⟩
    have hstart := mbStart_configured (run := g) h hfree hconf
    refine ⟨fun hres => plain_eq hl (hstart.trans (if_pos hres)), fun hbit hlow hop => plain_eq hl (hstart.trans ?_)⟩
    exact (if_neg (by simp [hbit, hlow])).trans (hrun hop s)
  case deliver =>
    rintro s f _ rfl
    refine ⟨mbFwDeliver_early, mbFwDeliver_notSteward, mbFwDeliver_released, fun ho hstage hopen hbad => ?_,
      fun ho hstage hopen halign hmin hmax => ?_⟩
    · rw [mbFwDeliver_steward ho hstage, if_neg hopen, if_pos hbad]
    · rw [mbFwDeliver_steward ho hstage, if_neg hopen, if_neg (by omega)]
  case keys =>
    rintro s f cmd _ _ rfl rfl
    exact ⟨fun h => ⟨mbKeySet_refused h true, mbKeyClear_refused h⟩, mbKeyClear_allowed,
      fun h halign => ⟨mbKeySet_noDma h halign, mbKeySet_badRecord h halign, fun _ => mbKeySet_goodRecord h halign⟩,
      mbKeyLock_allowed, mbKeyLock_refused, mayKey_false_of⟩
  case card => exact fun s f ok => ⟨fun h => mbCardRead_vf h ok, mbCardRead_copies⟩
  case image =>
    intro s ok hl
    refine ⟨fun h => plain_eq hl (fwVerify_idle h ok), fun f a n st h hst => ⟨fun hbad => ?fails, fun hgood => ?passes⟩⟩
    case fails => exact plain_eq hl (fwVerify_fails h hst hbad)
    case passes =>
      cases ok with
      | false => exact absurd (hst.symm.trans hgood) (Nat.succ_ne_zero 4)
      | true =>
        exact ⟨_, plain_eq hl (fwVerify_passes h (hst.symm.trans hgood)), fwRelease_released (f := f) _, rfl, rfl, rfl⟩
  case floor =>
    intro s f v hl
    refine ⟨fun ho => plain_eq hl (if_neg (by simp [ho])), fun hlow => plain_eq hl ?_, fun ho hmin hopen => plain_eq hl ?_⟩
    · split
      · exact if_pos hlow
      · rfl
    · exact (if_pos ho).trans (if_neg (not_or.mpr ⟨hmin.not_gt, hopen⟩))

end Sys2Proof.Machine

/-! PROOFS for identity and measured start (14): attestation. -/

namespace Sys2Proof.Machine

/-! ### Attestation requests and their responses (R406, R407, R409) -/

/-- A request of the version, code and length of its kind, at a step of the connection that takes it. -/
structure SpdmFits (s : State) (p : PciePort) (r : List Byte) (ver code len n : Nat) : Prop where
  version : (r.getD 0 0).toNat = ver
  code : (r.getD 1 0).toNat = code
  length : len ≤ r.length
  turn : n ≤ spdmAt s p

section Requests
variable {s : State} {p : PciePort} {r : List Byte}

/-- A request that fits is answered as its kind says. -/
theorem spdm_answers {i : Instr} {ver code len n : Nat} {g : State → State} (hl : live s = true)
    (e : exec i s = plain s (fun s => spdmReq s p r ver code len n g)) (h : SpdmFits s p r ver code len n) :
    exec i s = .next (answer s (g s)) := by
  obtain ⟨-, -, -, hfits⟩ := spdm_gen s i p r ver code len n g hl e
  exact hfits h.version h.code h.length h.turn

/-- What a request meets before it is answered, and what it answers when it fits. -/
theorem spdm_shape {i : Instr} {ver code len n : Nat} (h : spdmCmd i = some (p, r, ver, code, len, n)) :
    ∃ g, exec i s = plain s (fun s => spdmReq s p r ver code len n g) := by
  unfold spdmCmd at h
  split at h
  case h_7 =>
    cases h
    have hlen : (if (r.getD 2 0).toNat % 2 = 1 then 37 else 4) = if decide ((r.getD 2 0).toNat % 2 = 1) = true then 37 else 4 :=
      if_congr decide_eq_true_iff.symm rfl rfl
    rw [hlen]
    exact ⟨_, rfl⟩
  all_goals cases h
  all_goals exact ⟨_, rfl⟩

theorem getVersion_answers (hl : live s = true) (h : SpdmFits s p r 0x10 0x84 4 0) : ∃ t, exec (.getVersion p r) s = .next t ∧ spdmAt t p = 1 ∧
    t.wire = s.wire ++ [.spdm p [0x10, 0x04, 0, 0, 0, 1, 0, 0x12]] ∧ t.bsc.spdmCount = satAdd s.bsc.spdmCount 1 := by
  refine ⟨_, spdm_answers hl rfl h, ?_, ?_, ?_⟩
  · rw [a_ans, a_send, a_set, a_set, a_set, a_to s p 1 Nat.one_ne_zero]
  · rw [w_send, w_set, w_set, w_set, w_to]
  · rw [k_send, k_set, k_set, k_set, k_to]

/-- A request that takes the next turn moves the connection on, and joins the transcript with its response. -/
theorem spdm_moves (n : Nat) (w : List Byte) (hw : w ≠ []) (u : State)
    (hu : u = answer s (spdmSend (spdmSet (spdmTo s p (n + 1)) p 0 (spdmT s p 0 ++ r ++ w)) p w)) :
    spdmAt u p = n + 1 ∧ u.wire = s.wire ++ [.spdm p w] ∧ spdmT u p 0 = spdmT s p 0 ++ r ++ w ∧ u.bsc.spdmCount = satAdd s.bsc.spdmCount 1 := by
  subst hu
  refine ⟨?_, rfl, ?_, rfl⟩
  · rw [a_ans, a_send, a_set, a_to s p (n + 1) (Nat.succ_ne_zero n)]
  · rw [t_ans, spdmT_set _ p 0 _ (List.append_ne_nil_of_right_ne_nil _ hw)]

theorem getCapabilities_repeated (hl : live s = true) (h : SpdmFits s p r 0x12 0xE1 20 1) (hpast : 1 < spdmAt s p) :
    exec (.getCapabilities p r) s = .next (answer s (spdmError s p 4 0)) := by
  rw [spdm_answers (i := .getCapabilities p r) hl rfl h, if_pos hpast]

theorem getCapabilities_answers (hl : live s = true) (h : SpdmFits s p r 0x12 0xE1 20 1) (hturn : spdmAt s p = 1) :
    ∃ t w, exec (.getCapabilities p r) s = .next t ∧ spdmAt t p = 2 ∧ t.wire = s.wire ++ [.spdm p w] ∧
      spdmT t p 0 = spdmT s p 0 ++ r ++ w ∧ t.bsc.spdmCount = satAdd s.bsc.spdmCount 1 := by
  have hexec := spdm_answers (i := .getCapabilities p r) hl rfl h
  rw [if_neg hturn.not_gt] at hexec
  exact ⟨_, _, hexec, spdm_moves 1 _ (by simp) _ rfl⟩

theorem negotiateAlgorithms_repeated (hl : live s = true) (h : SpdmFits s p r 0x12 0xE3 32 2) (hpast : 2 < spdmAt s p) :
    exec (.negotiateAlgorithms p r) s = .next (answer s (spdmError s p 4 0)) := by
  rw [spdm_answers (i := .negotiateAlgorithms p r) hl rfl h, if_pos hpast]

theorem negotiateAlgorithms_answers (hl : live s = true) (h : SpdmFits s p r 0x12 0xE3 32 2) (hturn : spdmAt s p = 2) :
    ∃ t w, exec (.negotiateAlgorithms p r) s = .next t ∧ spdmAt t p = 3 ∧ t.wire = s.wire ++ [.spdm p w] ∧
      spdmT t p 0 = spdmT s p 0 ++ r ++ w ∧ t.bsc.spdmCount = satAdd s.bsc.spdmCount 1 := by
  have hexec := spdm_answers (i := .negotiateAlgorithms p r) hl rfl h
  rw [if_neg hturn.not_gt] at hexec
  exact ⟨_, _, hexec, spdm_moves 2 _ (by simp) _ rfl⟩

theorem getDigests_answers (hl : live s = true) (h : SpdmFits s p r 0x12 0x81 4 3) :
    ∃ t, exec (.getDigests p r) s = .next t ∧ t.wire = s.wire ++ [.spdm p ([0x12, 0x01, 0, 1] ++ sha256 (certChain s))] :=
  ⟨_, spdm_answers (i := .getDigests p r) hl rfl h, rfl⟩

theorem getCertificate_noKey (hl : live s = true) (h : SpdmFits s p r 0x12 0x82 8 3) (hkey : s.bsc.idKey = false) :
    exec (.getCertificate p r) s = .next (answer s (spdmError s p 7 0x82)) := by
  have hexec := spdm_answers (i := .getCertificate p r) hl rfl h
  rw [hkey] at hexec
  exact hexec

theorem getCertificate_answers (hl : live s = true) (h : SpdmFits s p r 0x12 0x82 8 3) (hkey : s.bsc.idKey = true)
    (hslot : (r.getD 2 0).toNat % 16 = 0) (hoff : sliceNat r 4 2 < (certChain s).length) {m : Nat}
    (hm : m = min (sliceNat r 6 2) ((certChain s).length - sliceNat r 4 2)) :
    ∃ t, exec (.getCertificate p r) s = .next t ∧ t.wire = s.wire ++ [.spdm p ([0x12, 0x02, 0, 0] ++ leBytes 2 m ++
      leBytes 2 ((certChain s).length - sliceNat r 4 2 - m) ++ ((certChain s).drop (sliceNat r 4 2)).take m)] := by
  have hexec := spdm_answers (i := .getCertificate p r) hl rfl h
  dsimp only at hexec
  rw [if_neg (by simp [hkey]), if_neg (by omega), ← hm] at hexec
  exact ⟨_, hexec, rfl⟩

theorem challenge_noKey (hl : live s = true) (h : SpdmFits s p r 0x12 0x83 36 3) (hkey : s.bsc.idKey = false) :
    exec (.challenge p r) s = .next (answer s (spdmError s p 7 0x83)) := by
  have hexec := spdm_answers (i := .challenge p r) hl rfl h
  rw [hkey] at hexec
  exact hexec

theorem challenge_answers (hl : live s = true) (h : SpdmFits s p r 0x12 0x83 36 3) (hkey : s.bsc.idKey = true)
    (hslot : (r.getD 2 0).toNat % 16 = 0) (hkind : r.getD 3 0 = 0) :
    ∃ t, exec (.challenge p r) s = .next t ∧ t.freeCtr = s.freeCtr + 1 ∧
      ∃ w, w = [0x12, 0x03, 0, 1] ++ sha256 (certChain s) ++ spdmNonce s ++ [] ++ leBytes 2 0 ∧
        t.wire = s.wire ++ [.spdm p (w ++ spdmSign "responder-challenge_auth signing" (spdmT s p 0 ++ spdmT s p 1 ++ r ++ w))] := by
  have hexec := spdm_answers (i := .challenge p r) hl rfl h
  have hnone : (r.getD 3 0).toNat = 0 := by rw [hkind]; rfl
  dsimp only at hexec
  rw [if_neg (by simp [hkey]), if_neg (by omega), if_pos hnone] at hexec
  exact ⟨_, hexec, rfl, _, rfl, rfl⟩

theorem getMeasurements_noKey (hl : live s = true) (hsigned : (r.getD 2 0).toNat % 2 = 1) (h : SpdmFits s p r 0x12 0xE0 37 3)
    (hkey : s.bsc.idKey = false) : exec (.getMeasurements p r) s = .next (answer s (spdmError s p 7 0xE0)) := by
  have hlen : (if decide ((r.getD 2 0).toNat % 2 = 1) = true then 37 else 4) = 37 := if_pos (decide_eq_true hsigned)
  have hexec := spdm_answers (i := .getMeasurements p r) hl rfl (hlen.symm ▸ h)
  dsimp only at hexec
  rwa [decide_eq_true hsigned, hkey, if_pos (by rfl)] at hexec

/-- An unsigned request for no block is answered by the number of them. -/
theorem getMeasurements_count (hl : live s = true) (hplain : (r.getD 2 0).toNat % 2 = 0) (hop : (r.getD 3 0).toNat = 0)
    (h : SpdmFits s p r 0x12 0xE0 4 3) : ∃ t, exec (.getMeasurements p r) s = .next t ∧
      t.wire = s.wire ++
        [.spdm p ([0x12, 0x60, BitVec.ofNat 8 (allBlocks s p).length, 0, 0] ++ leBytes 3 0 ++ [] ++ spdmNonce s ++ leBytes 2 0)] := by
  have hnot : ¬ decide ((r.getD 2 0).toNat % 2 = 1) = true := fun h => by have := of_decide_eq_true h; omega
  have hlen : (if decide ((r.getD 2 0).toNat % 2 = 1) = true then 37 else 4) = 4 := if_neg hnot
  have hexec := spdm_answers (i := .getMeasurements p r) hl rfl (hlen.symm ▸ h)
  dsimp only at hexec
  rw [if_neg (fun h => hnot (Bool.and_eq_true _ _ ▸ h).1), if_neg (fun h => h.1 hop), if_neg hnot, if_pos hop, if_pos hop] at hexec
  exact ⟨_, hexec, rfl⟩

end Requests

/-- Settles O59: what every request meets, then each kind's response to one that fits. -/
theorem attestationAnswers : Obligations.AttestationAnswers := by
  refine ⟨?requests, fun s p code data => ⟨rfl, rfl⟩⟩
  intro s i p r ver code len n h hl
  obtain ⟨g, hexec⟩ := spdm_shape (s := s) h
  obtain ⟨hversion, hform, hturn, -⟩ := spdm_gen s i p r ver code len n g hl hexec
  refine ⟨hversion, hform, hturn, fun h1 h2 h3 h4 => ?_⟩
  have hfits : SpdmFits s p r ver code len n := ⟨h1, h2, h3, h4⟩
  clear hexec hversion hform hturn h1 h2 h3 h4
  refine ⟨?version, ?negotiation, ?digests, ?noKey, ?certificate, ?challenge, ?unsigned, ?measurements⟩
  case version => rintro rfl; cases h; exact getVersion_answers hl hfits
  case negotiation =>
    rintro (rfl | rfl) <;> cases h
    · exact ⟨getCapabilities_repeated hl hfits, getCapabilities_answers hl hfits⟩
    · exact ⟨negotiateAlgorithms_repeated hl hfits, negotiateAlgorithms_answers hl hfits⟩
  case digests => rintro rfl; cases h; exact getDigests_answers hl hfits
  case noKey =>
    rintro (rfl | rfl) <;> cases h
    · exact getCertificate_noKey hl hfits
    · exact challenge_noKey hl hfits
  case certificate =>
    rintro rfl hkey hslot _ m rfl hoff hm
    cases h
    exact getCertificate_answers hl hfits hkey hslot hoff hm
  case challenge => rintro rfl hkey hslot hkind; cases h; exact challenge_answers hl hfits hkey hslot hkind
  case unsigned =>
    rintro rfl hsigned hkey
    cases h
    rw [if_pos hsigned] at hfits
    exact getMeasurements_noKey hl hsigned hfits hkey
  case measurements =>
    rintro rfl hplain hop
    cases h
    rw [if_neg (by omega)] at hfits
    exact getMeasurements_count hl hplain hop hfits

end Sys2Proof.Machine

/-! PROOFS for identity and measured start (14): the clear of a cluster that leaves a context. -/

namespace Sys2Proof.Machine

/-! ### The clear of a cluster (R410) -/

section Clear
variable {s : State} {k : Nat}

theorem clearStart_starts (hclear : bit s.bsc.clearing k = true) (hnew : bit s.bsc.clearStarted k = false) (hquiet : clusterQuiet s k = true) :
    clearStart s k = { s with bsc := { s.bsc with clearStarted := orBit s.bsc.clearStarted k } } := if_pos (by simp [hclear, hnew, hquiet])

theorem clearStart_waits (h : bit s.bsc.clearing k = false ∨ bit s.bsc.clearStarted k = true ∨ clusterQuiet s k = false) :
    clearStart s k = s := if_neg (by rcases h with h | h | h <;> simp [h])

end Clear

/-! ### A write whose flits have not all come (R262, R411) -/

/-- The flits of `f`'s virtual channel and class. -/
def sameChannel (f g : FabFlit) : Bool := decide (sideVc g.side = sideVc f.side) && decide (sideCls g.side = sideCls f.side)

/-- The flit that a slow write leaves: a response that nothing waits for. -/
def deadFlit (f : FabFlit) (h : Hdr) : FabFlit :=
  { f with payload := BitVec.ofNat 2048 (leNat ({ h with op := 2, daddr := gaMake 0xFFF 0xFE 0, hops := 15 } : Hdr).bytes) }

theorem deadFlit_side (f : FabFlit) (h : Hdr) : (deadFlit f h).side = f.side := by
  unfold deadFlit; rfl

section Abandon
variable {s : State} {p k : Nat} {f : FabFlit} {fs : List FabFlit}

theorem abandonSlow_none (hfs : fs = (portAt s p).rxFlits.filter (sameChannel f)) (h : slowWrite s k f fs = none) : abandonSlow s p k f = s := by
  subst hfs
  unfold abandonSlow
  extract_lets same fs
  rw [show slowWrite s k f fs = none from h]

theorem abandonSlow_some (hfs : fs = (portAt s p).rxFlits.filter (sameChannel f)) {h : Hdr} (hslow : slowWrite s k f fs = some h) :
    abandonSlow s p k f = settleOne (setPort s p { portAt s p with
      rxFlits := (portAt s p).rxFlits.filter (fun g => !(sameChannel f g)) ++ [deadFlit (fs.headD f) h] }) ⟨h.saddr, h.msgid, 8, 0xFF⟩ := by
  subst hfs
  unfold abandonSlow
  extract_lets same fs
  rw [show slowWrite s k f fs = some h from hslow]
  rfl

end Abandon

section TimeOut
variable {s : State} {k : Nat}

/-- The virtual channels and classes of a port. -/
def channels : List (Nat × Nat) := [(0, 0), (0, 1), (0, 2), (0, 3), (1, 0), (1, 1), (1, 2), (1, 3)]

/-- What the time-out does for one channel of a port. -/
def channelTimeout (k p : Nat) (s : State) (v : Nat × Nat) : State :=
  match (portAt s p).rxFlits.find? (fun g => decide (sideVc g.side = v.1) && decide (sideCls g.side = v.2)) with
  | some f => abandonSlow s p k f
  | none => s

/-- What it does for a port. -/
def portTimeout (k : Nat) (s : State) (p : Nat) : State := forAll channels s (channelTimeout k p)

theorem clearTimeout_clearing (h : bit s.bsc.clearing k = true) : clearTimeout s k = forAll (List.range 16) s (portTimeout k) := if_pos h

theorem clearTimeout_not (h : bit s.bsc.clearing k = false) : clearTimeout s k = s := if_neg (by simp [h])

theorem portTimeout_empty {p : Nat} (h : (portAt s p).rxFlits = []) : portTimeout k s p = s :=
  forAll_same _ _ _ fun v _ => by simp only [channelTimeout, h, List.find?_nil]

theorem channelTimeout_one {p : Nat} {f : FabFlit} (h : (portAt s p).rxFlits = [f]) (v : Nat × Nat) :
    channelTimeout k p s v = if v = (sideVc f.side, sideCls f.side) then abandonSlow s p k f else s := by
  by_cases hv : v = (sideVc f.side, sideCls f.side)
  · simp [channelTimeout, h, hv]
  · have hno : (decide (sideVc f.side = v.1) && decide (sideCls f.side = v.2)) = false := by
      simp only [Bool.and_eq_false_iff, decide_eq_false_iff_not]
      by_contra hboth
      simp only [not_or, not_not] at hboth
      exact hv (Prod.ext hboth.1.symm hboth.2.symm)
    simp [channelTimeout, h, hv, hno]

theorem channel_mem (f : FabFlit) : (sideVc f.side, sideCls f.side) ∈ channels := by
  have hvc : sideVc f.side < 2 := Nat.mod_lt _ (by decide)
  have hcls : sideCls f.side < 4 := Nat.mod_lt _ (by decide)
  generalize sideVc f.side = a at *
  generalize sideCls f.side = b at *
  interval_cases a <;> interval_cases b <;> decide

theorem sameChannel_self (f : FabFlit) : sameChannel f f = true := by simp [sameChannel]

/-- A single flit of its port that is no slow write stays. -/
theorem portTimeout_stays {p : Nat} {f : FabFlit} (h : (portAt s p).rxFlits = [f]) (hslow : slowWrite s k f [f] = none) :
    portTimeout k s p = s := by
  have habandon : abandonSlow s p k f = s := abandonSlow_none (by rw [h]; simp [sameChannel_self]) hslow
  refine forAll_same _ _ _ fun v _ => ?_
  rw [channelTimeout_one h, habandon, ite_self]

/-- A single flit of its port that is a slow write is abandoned, once: what it leaves is in its channel and is no write. -/
theorem portTimeout_abandons {p : Nat} {f : FabFlit} {h : Hdr} {u : State} (hone : (portAt s p).rxFlits = [f])
    (hslow : slowWrite s k f [f] = some h)
    (hu : u = settleOne (setPort s p { portAt s p with rxFlits := [deadFlit f h] }) ⟨h.saddr, h.msgid, 8, 0xFF⟩)
    (hleft : (portAt u p).rxFlits = [deadFlit f h]) : portTimeout k s p = u := by
  have hfilter : [f] = (portAt s p).rxFlits.filter (sameChannel f) := by rw [hone]; simp [sameChannel_self]
  have hrest : [f].filter (fun g => !(sameChannel f g)) = [] := by simp [sameChannel_self]
  have habandon : abandonSlow s p k f = u := by
    rw [abandonSlow_some hfilter hslow, hone, hrest, hu, List.nil_append, List.headD_cons]
  refine forAll_only (channel_mem f) (by decide) (fun v _ hv => ?before) ?there (fun v _ hv => ?after)
  case before => rw [channelTimeout_one hone, if_neg hv]
  case there => rw [channelTimeout_one hone, if_pos rfl, habandon]
  case after => rw [channelTimeout_one hleft, deadFlit_side, if_neg hv]

end TimeOut

/-- Settles O60: the start and the end of a clear by their tests, and the time-out of a slow write by the one port and channel that holds it. -/
theorem leavingClustersAreCleared : Obligations.LeavingClustersAreCleared := by
  refine ⟨fun s k hl => ⟨fun hclear hnew hquiet => plain_eq hl (clearStart_starts hclear hnew hquiet), fun h => plain_eq hl (clearStart_waits h),
    fun h => plain_eq hl (if_pos h), fun h => plain_eq hl (if_neg (by simp [h])), ?idle, ?slow⟩,
    fun x => ⟨rfl, rfl, rfl, rfl, rfl, rfl, rfl, rfl⟩, ?abandon⟩
  case idle =>
    intro h q
    refine done_eq hl ?_ q
    by_cases hclear : bit s.bsc.clearing k = true
    · have hempty : ∀ p < 16, (portAt s p).rxFlits = [] := h.resolve_left (by simp [hclear])
      rw [clearTimeout_clearing hclear]
      exact forAll_same _ _ _ fun p hp => portTimeout_empty (hempty p (List.mem_range.mp hp))
    · exact clearTimeout_not (Bool.eq_false_iff.mpr hclear)
  case slow =>
    intro p f hclear hone hempty
    have hothers (j : Nat) (hj : j ∈ List.range 16) (hne : j ≠ p) : portTimeout k s j = s :=
      portTimeout_empty (hempty j (List.mem_range.mp hj) hne)
    refine ⟨fun hslow q => done_eq hl ?_ q, ?_⟩
    · rw [clearTimeout_clearing hclear]
      refine forAll_same _ _ _ fun j hj => ?_
      by_cases hne : j = p
      · subst hne; exact portTimeout_stays hone hslow
      · exact hothers j hj hne
    · rintro h _ u hslow rfl hu hleft
      refine done_settle hl ?_
      rw [clearTimeout_clearing hclear]
      refine forAll_only (List.mem_range.mpr p.isLt) List.nodup_range hothers ?_ fun j hj hne => ?_
      · exact portTimeout_abandons hone hslow hu (by rw [hleft p p.isLt, if_pos rfl]; rfl)
      · exact portTimeout_empty (by rw [hleft j (List.mem_range.mp hj), if_neg hne])
  case abandon =>
    intro s p k f fs h hfs hslow
    exact ⟨_, abandonSlow_some hfs hslow, rfl, rfl⟩

end Sys2Proof.Machine
